-- ==== Sys2Proof/Syntax.lean ====
section
/-!
DEFINITION. The instructions and events of the Norzal NZ12, one constructor of `Instr` per row of the opcode table.
Encodable rows carry the fields of their form (04 R65 to R69); event rows carry the plain data of the occurrence
(95_what_each_step_holds.md). Prefix words are no rows: a unit's prefixes are `Pfx` records that the machine keeps beside
the instruction being issued (R71 to R81).
-/

namespace Sys2Proof

/-- Source operand tag (R54): 00 vector register, 01 scalar register or special value, 10 constant word, 11 literal. -/
inductive Kind where
  | vec | scal | cons | lit
  deriving DecidableEq, Repr

/-- Destination kind KD (R55); 11 is reserved. -/
inductive DKind where
  | vec | scal | pred | resv
  deriving DecidableEq, Repr

/-- Operand type TY (R89). -/
inductive Ty where
  | i32
  | ui32
  | i64
  | ui64
  | i16
  | ui16
  | i8
  | ui8
  | i4
  | ui4
  | ci4
  | ci8
  | i24
  | ui24
  | b8
  | b16
  | b32
  | b64
  | b128
  | f32
  | f16
  | bf16
  | f16x2
  | bf16x2
  | fmt0
  | fmt1
  | fmt2
  | fmt3
  | fmt4
  | fmt5
  | fmt6
  | fmt7
  deriving DecidableEq, Repr

/-- A source operand field: its tag and its 7 bits. -/
structure Opnd where
  kind : Kind
  n : BitVec 7
  deriving DecidableEq, Repr

/-- The long form's fields (R66), FN split into V and TY (R89). -/
structure LongF where
  d : BitVec 7
  kd : DKind
  a : Opnd
  b : Opnd
  c : Opnd
  pg : BitVec 3
  pn : Bool
  v : BitVec 3
  ty : Ty
  x : BitVec 7
  deriving DecidableEq, Repr

/-- The long form of `bra` and `call`, whose first word holds an offset (R69, R161). -/
structure JumpF where
  off : BitVec 23
  c : Opnd
  pg : BitVec 3
  pn : Bool
  v : BitVec 3
  deriving DecidableEq, Repr

/-- The short form's fields (R65); A is a vector register or a number. -/
structure ShortF where
  d : BitVec 7
  a : BitVec 7
  b : Opnd
  deriving DecidableEq, Repr

/-- The long-immediate form's fields (R67). -/
structure LimmF where
  d : BitVec 7
  a : BitVec 7
  b : Opnd
  w : BitVec 32
  deriving DecidableEq, Repr

/-- The MOD prefix (R72). -/
structure ModP where
  rnd : BitVec 3
  sat : Bool
  pe : Bool
  pol : BitVec 8
  se : Bool
  slot : BitVec 3
  fz : Bool
  deriving DecidableEq, Repr

/-- The ROUTE prefix (R74): one byte per operand, and the fill. -/
structure RouteP where
  ra : BitVec 8
  rb : BitVec 8
  rc : BitVec 8
  fill : BitVec 2
  deriving DecidableEq, Repr

/-- The REP prefix (R75): count minus one, and the four coded steps. -/
structure RepP where
  cnt : BitVec 6
  sd : BitVec 2
  sa : BitVec 2
  sb : BitVec 2
  sc : BitVec 2
  deriving DecidableEq, Repr

/-- The INV prefix (R76). -/
structure InvP where
  dec : Bool
  br : BitVec 2
  tol : BitVec 8
  lim : BitVec 6
  dom : BitVec 2
  clamp : Bool
  deriving DecidableEq, Repr

/-- The GUARD prefix (R77). -/
structure GuardP where
  gs : BitVec 4
  sns : Bool
  deriving DecidableEq, Repr

/-- The prefixes of one unit: at most one of each kind (R78). -/
structure Pfx where
  mod : Option ModP := none
  route : Option RouteP := none
  rep : Option RepP := none
  inv : Option InvP := none
  guard : Option GuardP := none
  deriving DecidableEq, Repr

/-- An active message (R40 to R44, R355): sender, target die, launch and handler, payload words. -/
structure Msg where
  srcModule : Nat
  srcDie : Nat
  srcCore : Nat
  srcLane : Nat
  srcTeam : BitVec 32
  die : Nat
  lid : BitVec 32
  handler : Nat
  words : List (BitVec 32)
  deriving DecidableEq, Repr

/-- What a peer request does at its target (R398); a message is carried under its pair's sequence numbers too (R392, R399). -/
inductive PeerOp where
  | load
  | store (bytes : List (BitVec 8))
  | atom (v : BitVec 3) (ty : Ty) (b : BitVec 64)
  | cas (old new : BitVec 64)
  | arm
  | message (m : Msg)
  deriving DecidableEq, Repr

/-- A request that reaches this module over the fabric (R391, R397), with the pair's sequence number and the sender's
acknowledged sequence. -/
structure PeerRequest where
  srcModule : Nat
  srcDie : Nat
  seq : BitVec 32
  acked : BitVec 32
  token : BitVec 64
  offset : Nat
  len : Nat
  op : PeerOp
  deriving DecidableEq, Repr

/-- A response of the fabric (R391): data, an acknowledgement, a rejection, or data marked uncorrectable (R398); or the word that a
store has been performed at bytes that an arm watches (R318, R348); or the return of a message credit by a die (R42, R394). -/
inductive PeerResponse where
  | data (bytes : List (BitVec 8))
  | ack
  | reject (reason : BitVec 8)
  | marked
  | wake
  | credit (die : Nat)
  deriving DecidableEq, Repr

/-- One other participant's header and source in a collective (R359). -/
structure PeerSource where
  module : Nat
  header : List (BitVec 8)
  bytes : List (BitVec 8)
  deriving DecidableEq, Repr

/-- A memory request of an endpoint function, with the root port at which it arrives (R408, R415). -/
structure EndpointRequest where
  port : Nat
  rid : Nat
  pasid : Option Nat
  translated : Bool
  privExec : Bool
  adr : BitVec 64
  len : Nat
  data : Option (List (BitVec 8))
  deriving DecidableEq, Repr

/-- A command at the intake core (R426): it arrives on a transport session with its 64 bytes and what follows them (R427), or it stands at the
head of its software queue. -/
inductive Intake where
  | arrives (session : Nat) (bytes object : List (BitVec 8))
  | head (queue : Nat)
  deriving DecidableEq, Repr

/-- What the memory core changes of an address space: a table entry at a level (R301, R308), a range of its layout (R465), a token of
its token table (R300); or a function's answer to an ATS Invalidate Request of a change of the space (R405). -/
inductive SpaceChange where
  | entry (level : Nat) (va e : BitVec 64)
  | reserve (lo hi : Nat) (kind : BitVec 3) (r w : Bool)
  | token (index : Nat) (t : BitVec 64)
  | answered (rid : Nat)
  deriving DecidableEq, Repr

/-- A window of a bridge port, as the tree core sets it (R411): its bus range, address space and base, permissions, and whether it
covers the interrupt range. -/
structure BridgeWindow where
  lo : Nat
  size : Nat
  asid : Nat
  base : Nat
  r : Bool
  w : Bool
  msix : Bool
  deriving DecidableEq, Repr

/-- What a partner sends of itself when a port trains (R384, R388): its port, and its share of the key exchange with its signature. -/
structure PortShare where
  port : Nat
  share : List (BitVec 8)
  deriving DecidableEq, Repr

/-- What an ATS Translation Request asks for (R405, R415): to write, and with the execute or privileged bit. -/
structure AtsAsk where
  write : Bool
  privExec : Bool
  deriving DecidableEq, Repr

/-- A device function as the tree core finds it (R408 to R410): its requester ID, class and PASID default; whether it offers MSI-X and ATS;
its memory in units of 256 MiB; and, for a virtual function, its physical function. -/
structure Device where
  rid : Nat
  cls : Nat
  msix : Bool
  ats : Bool
  units : Nat
  dflt : Option Nat
  pf : Option Nat
  deriving DecidableEq, Repr

/-- What of a device function is no number of its own: whether it offers MSI-X and ATS, and its physical function (R408). -/
structure DeviceOffers where
  msix : Bool
  ats : Bool
  pf : Option Nat
  deriving DecidableEq, Repr

/-- What stands below the root ports at power-on: the windows of bridge ports and the devices, each with its port (R409 to R411). -/
structure PortsFound where
  bridges : List (Nat × BridgeWindow)
  devices : List (Nat × Device)
  deriving DecidableEq, Repr

/-- What a debugger names of a halted group (R448, R451): the items of R12 and R17, its join wait, a dword of a thread's stack, a part of a
cell of a tile that it holds, a byte of a row or a block scale of an operand slot that it holds, and a word of either's record as R249 and R250 lay
it out; a part of a pending store, of a guarded command or of a held trap, its handler mode, its team memory; and the halt record of R453. -/
inductive DebugItem where
  | pc (tid : Nat)
  | vreg (tid n : Nat)
  | preg (tid n : Nat)
  | bracketLo (tid n : Nat)
  | bracketHi (tid n : Nat)
  | bracketState (tid n : Nat)
  | repctr (tid : Nat)
  | lfsr (tid : Nat)
  | sreg (n : Nat)
  | guardSlot (n : Nat)
  | window
  | trapbase | trapcause | trapepc | trapinfo | trapmask
  | ctxstate (tid : Nat)
  | unacked (tid : Nat)
  | spinCount (tid : Nat)
  | spinAdr (tid : Nat)
  | ret (tid n : Nat)
  | joinAdr (tid : Nat)
  | joinMask (tid : Nat)
  | stack (tid off : Nat)
  | tileCell (tile row col part : Nat)
  | tileRecord (tile word : Nat)
  | slotByte (slot row n : Nat)
  | slotRecord (slot word : Nat)
  | slotScale (slot row n : Nat)
  | tag (tid : Nat)
  | state (tid : Nat)
  | store (tid k part : Nat)
  | guarded (k part : Nat)
  | heldTrap (k part : Nat)
  | handlerMode
  | teamMem (off : Nat)
  | haltCode
  | haltPc (tid : Nat)
  deriving DecidableEq, Repr

/-- The instruction set and the part's own steps: one constructor per row of spec/opcode_table.json, in its order. -/
inductive Instr where
  | iadd (f : LongF)
  | isub (f : LongF)
  | ineg (f : LongF)
  | iabs (f : LongF)
  | imin (f : LongF)
  | imax (f : LongF)
  | iclamp (f : LongF)
  | imul (f : LongF)
  | imad (f : LongF)
  | isad (f : LongF)
  | idot (f : LongF)
  | icdot (f : LongF)
  | icmp (f : LongF)
  | isel (f : LongF)
  | iaddr (f : LongF)
  | and (f : LongF)
  | or (f : LongF)
  | xor (f : LongF)
  | andn (f : LongF)
  | orn (f : LongF)
  | not (f : LongF)
  | tlog (f : LongF)
  | shl (f : LongF)
  | shr (f : LongF)
  | rot (f : LongF)
  | bit (f : LongF)
  | bfld (f : LongF)
  | mov (f : LongF)
  | plog (f : LongF)
  | pcvt (f : LongF)
  | vote (f : LongF)
  | sadd (f : LongF)
  | ssub (f : LongF)
  | smul (f : LongF)
  | smin (f : LongF)
  | smax (f : LongF)
  | slog (f : LongF)
  | sshl (f : LongF)
  | sshr (f : LongF)
  | scmp (f : LongF)
  | ssel (f : LongF)
  | smov (f : LongF)
  | cbase (f : LongF)
  | sbit (f : LongF)
  | fadd (f : LongF)
  | fsub (f : LongF)
  | fmul (f : LongF)
  | ffma (f : LongF)
  | fmin (f : LongF)
  | fmax (f : LongF)
  | fcmp (f : LongF)
  | fsel (f : LongF)
  | fclass (f : LongF)
  | frnd (f : LongF)
  | fldexp (f : LongF)
  | ffrexp (f : LongF)
  | fdiv (f : LongF)
  | fsqrt (f : LongF)
  | fexp2 (f : LongF)
  | flog2 (f : LongF)
  | fsin (f : LongF)
  | fcos (f : LongF)
  | ftanh (f : LongF)
  | flogi (f : LongF)
  | frcp (f : LongF)
  | frsqrt (f : LongF)
  | cvt (f : LongF)
  | bquant (f : LongF)
  | bdequant (f : LongF)
  | pack (f : LongF)
  | unpack (f : LongF)
  | srseed (f : LongF)
  | ld (f : LongF)
  | st (f : LongF)
  | lda (f : LongF)
  | stl (f : LongF)
  | atom (f : LongF)
  | cas (f : LongF)
  | fence (f : LongF)
  | marm (f : LongF)
  | mwait (f : LongF)
  | bar (f : LongF)
  | push (f : LongF)
  | pop (f : LongF)
  | oload (f : LongF)
  | mma (f : LongF)
  | cmma (f : LongF)
  | mzpc (f : LongF)
  | aload (f : LongF)
  | aread (f : LongF)
  | awrite (f : LongF)
  | adrain (f : LongF)
  | semsig (f : LongF)
  | semwait (f : LongF)
  | semrd (f : LongF)
  | post (f : LongF)
  | collect (f : LongF)
  | amsend (f : LongF)
  | coll (f : LongF)
  | bra (f : JumpF)
  | call (f : JumpF)
  | brx (f : LongF)
  | callx (f : LongF)
  | ret (f : LongF)
  | join (f : LongF)
  | exit (f : LongF)
  | trap (f : LongF)
  | yield (f : LongF)
  | nop (f : LongF)
  | gset (f : LongF)
  | gclr (f : LongF)
  | csrRd (f : LongF)
  | csrWr (f : LongF)
  | tret (f : LongF)
  | iaddI32Short (f : ShortF)
  | isubI32Short (f : ShortF)
  | iaddI64Short (f : ShortF)
  | iminI32Short (f : ShortF)
  | imaxI32Short (f : ShortF)
  | iminUi32Short (f : ShortF)
  | imaxUi32Short (f : ShortF)
  | imulI24Short (f : ShortF)
  | imulI32Short (f : ShortF)
  | iaddrX4Ui32Short (f : ShortF)
  | icmpEqI32Short (f : ShortF)
  | icmpNeI32Short (f : ShortF)
  | icmpLtI32Short (f : ShortF)
  | icmpLtUi32Short (f : ShortF)
  | icmpGeI32Short (f : ShortF)
  | andB32Short (f : ShortF)
  | orB32Short (f : ShortF)
  | xorB32Short (f : ShortF)
  | andnB32Short (f : ShortF)
  | notB32Short (f : ShortF)
  | shlB32Short (f : ShortF)
  | shrUi32Short (f : ShortF)
  | shrI32Short (f : ShortF)
  | rotLB32Short (f : ShortF)
  | bitPopcB32Short (f : ShortF)
  | bitClzB32Short (f : ShortF)
  | movB32Short (f : ShortF)
  | movB64Short (f : ShortF)
  | shlB64Short (f : ShortF)
  | shrUi64Short (f : ShortF)
  | bfldByteB32Short (f : ShortF)
  | smovB64Short (f : ShortF)
  | cbaseShort (f : ShortF)
  | faddF32Short (f : ShortF)
  | fsubF32Short (f : ShortF)
  | fmulF32Short (f : ShortF)
  | fminF32Short (f : ShortF)
  | fmaxF32Short (f : ShortF)
  | fminNanF32Short (f : ShortF)
  | fmaxNanF32Short (f : ShortF)
  | faddF16x2Short (f : ShortF)
  | fmulF16x2Short (f : ShortF)
  | faddBf16x2Short (f : ShortF)
  | fmulBf16x2Short (f : ShortF)
  | fcmpLtF32Short (f : ShortF)
  | fcmpLeF32Short (f : ShortF)
  | fcmpEqF32Short (f : ShortF)
  | fldexpF32Short (f : ShortF)
  | frndRneF32Short (f : ShortF)
  | fexp2F32Short (f : ShortF)
  | flog2F32Short (f : ShortF)
  | fsinF32Short (f : ShortF)
  | fcosF32Short (f : ShortF)
  | ftanhF32Short (f : ShortF)
  | flogiF32Short (f : ShortF)
  | frcpF32Short (f : ShortF)
  | frsqrtF32Short (f : ShortF)
  | cvtF32I32Short (f : ShortF)
  | cvtI32F32Short (f : ShortF)
  | cvtF16F32Short (f : ShortF)
  | cvtF32F16Short (f : ShortF)
  | cvtBf16F32Short (f : ShortF)
  | cvtF32Bf16Short (f : ShortF)
  | ldStackB32Short (f : ShortF)
  | ldTeamB32Short (f : ShortF)
  | ldScrB32Short (f : ShortF)
  | ldTeamB64Short (f : ShortF)
  | ldScrB64Short (f : ShortF)
  | ldTeamB128Short (f : ShortF)
  | ldScrB128Short (f : ShortF)
  | ldPeerB32Short (f : ShortF)
  | fenceTeamShort (f : ShortF)
  | fenceDieShort (f : ShortF)
  | fenceModShort (f : ShortF)
  | fenceSysShort (f : ShortF)
  | barShort (f : ShortF)
  | mwaitShort (f : ShortF)
  | popB32Short (f : ShortF)
  | oclaim (f : ShortF)
  | orelease (f : ShortF)
  | aclaim (f : ShortF)
  | arelease (f : ShortF)
  | aclear (f : ShortF)
  | mwaitq (f : ShortF)
  | mstat (f : ShortF)
  | braShort (off : BitVec 23)
  | callShort (off : BitVec 23)
  | retShort (f : ShortF)
  | land (f : ShortF)
  | exitShort (f : ShortF)
  | nopShort (f : ShortF)
  | yieldShort (f : ShortF)
  | trapShort (f : ShortF)
  | trapBrkShort (f : ShortF)
  | joinShort (f : ShortF)
  | iaddI32Limm (f : LimmF)
  | iaddI64Limm (f : LimmF)
  | imulI24Limm (f : LimmF)
  | icmpEqI32Limm (f : LimmF)
  | icmpLtI32Limm (f : LimmF)
  | icmpLtUi32Limm (f : LimmF)
  | iaddrUi32Limm (f : LimmF)
  | andB32Limm (f : LimmF)
  | orB32Limm (f : LimmF)
  | xorB32Limm (f : LimmF)
  | movB32Limm (f : LimmF)
  | movB64Limm (f : LimmF)
  | smovB64Limm (f : LimmF)
  | cbaseLimm (f : LimmF)
  | faddF32Limm (f : LimmF)
  | fmulF32Limm (f : LimmF)
  | fmaxF32Limm (f : LimmF)
  | fminF32Limm (f : LimmF)
  | ldStackB32Limm (f : LimmF)
  | ldTeamB32Limm (f : LimmF)
  | ldScrB32Limm (f : LimmF)
  | ldScrB64Limm (f : LimmF)
  | ldScrB128Limm (f : LimmF)
  | ldPeerB32Limm (f : LimmF)
  | braFar (f : LimmF)
  | callFar (f : LimmF)
  | joinLimm (f : LimmF)
  | repRepetition
  | invIteration (gid : Nat) (tid : Nat)
  | joinRelease (gid : Nat) (adr : BitVec 32)
  | spinForce (gid : Nat) (tid : Nat)
  | yieldExpiry (gid : Nat) (tid : Nat)
  | contextFree (gid : Nat) (tid : Nat)
  | groupRetire (gid : Nat)
  | launchComplete (lid : Nat)
  | teamAdmit (lid : Nat) (team : Nat)
  | messageWhole (m : Msg)
  | handlerStart (die : Nat)
  | storeAck (gid : Nat) (tid : Nat) (seq : Nat)
  | accessPerform (gid : Nat) (tid : Nat) (seq : Nat)
  | faultService (core : Nat) (asid : Nat) (page : Nat)
  | tableChange (asid : Nat) (c : SpaceChange)
  | passGrant (quad : Nat)
  | passComplete (quad : Nat)
  | priorityRise (quad : Nat) (cid : Nat)
  | oloadComplete (quad : Nat) (cid : Nat)
  | aloadComplete (quad : Nat) (cid : Nat)
  | areadComplete (quad : Nat) (cid : Nat)
  | drainComplete (quad : Nat) (cid : Nat)
  | copyAccept (gid : Nat) (tid : Nat) (seq : Nat)
  | copyBegin (die : Nat) (chan : Nat)
  | checksumRecord (die : Nat) (chan : Nat) (cid : Nat)
  | postmark (die : Nat) (chan : Nat) (cid : Nat)
  | copyIncrement (die : Nat) (chan : Nat) (cid : Nat)
  | drainLimit (tuid : Nat)
  | dealerStart (gid : Nat) (tid : Nat) (seq : Nat)
  | mopHalt (core : Nat)
  | mopGet (core : Nat)
  | mopGets (core : Nat)
  | mopPutm (core : Nat)
  | mopPut (core : Nat)
  | mopExpand (core : Nat)
  | mopCvtn (core : Nat)
  | mopCvtw (core : Nat)
  | mopTr8 (core : Nat)
  | mopCopy (core : Nat)
  | mopMovi (core : Nat)
  | mopAddi (core : Nat)
  | mopLdk (core : Nat)
  | mopLoop (core : Nat)
  | mopJmp (core : Nat)
  | mopSemw (core : Nat)
  | mopSig (core : Nat)
  | mopFence (core : Nat)
  | collectiveComplete (uid : Nat) (peers : List PeerSource) (rejected : Bool)
  | linkTraining (port : Nat) (partner : Nat) (partnerPort : PortShare)
  | flitReceive (port : Nat) (header : List (BitVec 8)) (rest : List (BitVec 8))
  | replayRequest (port : Nat) (seq : Nat)
  | linkReplayTimeout (port : Nat)
  | keyExhausted (port : Nat)
  | detourInstall (peer : Nat) (onward : BitVec 16)
  | requestResend (die : Nat) (peer : Nat) (seq : BitVec 32)
  | requestArrive (r : PeerRequest)
  | responseArrive (die : Nat) (peer : Nat) (seq : BitVec 32) (resp : PeerResponse)
  | windowChange (index : Nat) (entry : BitVec 128)
  | tailPointerWrite (gid : Nat) (tid : Nat) (seq : Nat)
  | msixIncrement (port : Nat) (adr : BitVec 64) (data : BitVec 32)
  | atsTranslationRequest (rid : Nat) (pasid : Option Nat) (va : BitVec 64) (ask : AtsAsk)
  | pageRequest (rid : Nat) (pasid : Option Nat) (va : BitVec 64) (read : Bool) (write : Bool) (grp : Nat)
  | pageRequestService
  | pageResponse
  | stopMarker (rid : Nat) (pasid : Nat)
  | endpointRequest (r : EndpointRequest)
  | bridgeRequest (port : Nat) (adr : BitVec 64) (write : Bool) (bytes : List (BitVec 8)) (len : Nat)
  | functionFailure (rid : Nat) (code : Nat)
  | invalidateTimeout (rid : Nat)
  | hotAdd (port : Nat) (rid : Nat) (cls : Nat) (offers : DeviceOffers) (units : Nat) (dflt : Option Nat)
  | frameReceive (port : Nat) (fcsOk : Bool) (bytes : List (BitVec 8))
  | producerWrite (port : Nat) (cls : Nat)
  | ingestIncrement (port : Nat) (cls : Nat)
  | pausePoll (port : Nat) (cls : Nat)
  | pauseRepeat (port : Nat) (cls : Nat)
  | wakeFilterMatch (port : Nat) (bytes : List (BitVec 8))
  | heldFrameReplay
  | loadObject (c : Intake)
  | unloadObject (c : Intake)
  | unloadEffect (handle : Nat)
  | runGraph (c : Intake)
  | openQueue (c : Intake)
  | openRing (c : Intake)
  | closeRing (c : Intake)
  | unknownCommand (c : Intake)
  | runBegin (queue : Nat)
  | quantumBoundary
  | queueLevelRise (queue : Nat)
  | admissionWaitLimit (lid : Nat) (team : Nat)
  | preempt (tuid : Nat)
  | teamResume (tuid : Nat)
  | haltRequest (gid : Nat)
  | stepAll (gid : Nat)
  | stepOne (gid : Nat)
  | debugResume (gid : Nat)
  | debugStateRead (gid : Nat) (item : DebugItem)
  | debugStateWrite (gid : Nat) (item : DebugItem) (value : BitVec 64)
  | letterSend (src : Nat) (dst : Nat) (kind : Nat) (body : List (BitVec 8))
  | letterArrival (src : Nat) (dst : Nat)
  | letterboxRefusedClear (core : Nat) (mask : BitVec 8)
  | powerOn (hbm : BitVec 24) (found : PortsFound)
  | bootFailBlink
  | attestationRequest (nonce : List (BitVec 8))
  | planSelect (plan : Nat)
  | clockRelock (die : Nat)
  | powerSample (watts : Nat)
  | wearSample (die : Nat) (index : Nat)
  | healthReport
  | systemCoreGate (filter : List (BitVec 272))
  | illegalInstruction (cause : BitVec 16) (word : BitVec 32)
  | itemWritten (lid : Nat) (hole : Nat)
  | powerLoss
  deriving DecidableEq, Repr

/-- The operation behind an encodable row: the mnemonics of the long form, and the eight that only the short form has.
Short and long-immediate rows share their long form's operation (R103). -/
inductive Op where
  | iadd
  | isub
  | ineg
  | iabs
  | imin
  | imax
  | iclamp
  | imul
  | imad
  | isad
  | idot
  | icdot
  | icmp
  | isel
  | iaddr
  | and
  | or
  | xor
  | andn
  | orn
  | not
  | tlog
  | shl
  | shr
  | rot
  | bit
  | bfld
  | mov
  | plog
  | pcvt
  | vote
  | sadd
  | ssub
  | smul
  | smin
  | smax
  | slog
  | sshl
  | sshr
  | scmp
  | ssel
  | smov
  | cbase
  | sbit
  | fadd
  | fsub
  | fmul
  | ffma
  | fmin
  | fmax
  | fcmp
  | fsel
  | fclass
  | frnd
  | fldexp
  | ffrexp
  | fdiv
  | fsqrt
  | fexp2
  | flog2
  | fsin
  | fcos
  | ftanh
  | flogi
  | frcp
  | frsqrt
  | cvt
  | bquant
  | bdequant
  | pack
  | unpack
  | srseed
  | ld
  | st
  | lda
  | stl
  | atom
  | cas
  | fence
  | marm
  | mwait
  | bar
  | push
  | pop
  | oload
  | mma
  | cmma
  | mzpc
  | aload
  | aread
  | awrite
  | adrain
  | semsig
  | semwait
  | semrd
  | post
  | collect
  | amsend
  | coll
  | bra
  | call
  | brx
  | callx
  | ret
  | join
  | exit
  | trap
  | yield
  | nop
  | gset
  | gclr
  | csrRd
  | csrWr
  | tret
  | oclaim
  | orelease
  | aclaim
  | arelease
  | aclear
  | mwaitq
  | mstat
  | land
  deriving DecidableEq, Repr

/-- The three instruction forms (R62). -/
inductive Form where
  | short | long | limm
  deriving DecidableEq, Repr

/-- A source operand as an operation reads it: indices are Nat because REP may step them (R179). -/
inductive Src where
  | vec (n : Nat)
  | scal (n : Nat)
  | cons (n : Nat)
  | lit (v : BitVec 7)
  | lit32 (w : BitVec 32)
  deriving DecidableEq, Repr

/-- An operation's fields, whatever form carried them. `w` is the long-immediate second word or the sign-extended word
offset of a direct transfer. -/
structure Fields where
  d : Nat
  kd : DKind
  a : Src
  b : Src
  c : Src
  pg : BitVec 3
  pn : Bool
  v : BitVec 3
  ty : Ty
  x : BitVec 7
  w : BitVec 32
  deriving DecidableEq, Repr

/-- A source field under its tag. -/
def Opnd.src (o : Opnd) : Src :=
  match o.kind with
  | .vec => .vec o.n.toNat
  | .scal => .scal o.n.toNat
  | .cons => .cons o.n.toNat
  | .lit => .lit o.n

/-- The fields of a long-form instruction. -/
def LongF.fields (f : LongF) : Fields :=
  ⟨f.d.toNat, f.kd, f.a.src, f.b.src, f.c.src, f.pg, f.pn, f.v, f.ty, f.x, 0⟩

/-- The fields of a long-form direct transfer (R69). -/
def JumpF.fields (f : JumpF) : Fields :=
  ⟨0, .vec, .vec 0, .vec 0, f.c.src, f.pg, f.pn, f.v, .i32, 0, f.off.signExtend 32⟩

/-- The fields of a short form, with the V, TY, KD and X of its long form (R102, R103). -/
def ShortF.fields (f : ShortF) (v : BitVec 3) (ty : Ty) (kd : DKind) (x : BitVec 7) : Fields :=
  ⟨f.d.toNat, kd, .vec f.a.toNat, f.b.src, .vec 0, 0, false, v, ty, x, 0⟩

/-- The fields of a short direct transfer. -/
def shortJump (off : BitVec 23) : Fields :=
  ⟨0, .vec, .vec 0, .vec 0, .vec 0, 0, false, 0, .i32, 0, off.signExtend 32⟩

/-- The fields of a long-immediate form: the second word is B's literal (R104). -/
def LimmF.fields (f : LimmF) (v : BitVec 3) (ty : Ty) (kd : DKind) : Fields :=
  ⟨f.d.toNat, kd, .vec f.a.toNat, .lit32 f.w, .vec 0, 0, false, v, ty, 0, f.w⟩

/-- A single-source vector row takes its literal in B (R103): the operation reads it as A. -/
def LimmF.fieldsA (f : LimmF) (v : BitVec 3) (ty : Ty) (kd : DKind) : Fields :=
  ⟨f.d.toNat, kd, .lit32 f.w, .vec 0, .vec 0, 0, false, v, ty, 0, f.w⟩

/-- The fields of a far transfer: B stands as a tagged operand, the second word is the offset (R104, R235). -/
def LimmF.fieldsFar (f : LimmF) : Fields :=
  ⟨f.d.toNat, .vec, .vec f.a.toNat, f.b.src, .vec 0, 0, false, 0, .i32, 0, f.w⟩

/-- An encodable row as form, operation and fields; an event row has none. -/
def Instr.core : Instr → Option (Form × Op × Fields)
  | .iadd f => some (.long, .iadd, f.fields)
  | .isub f => some (.long, .isub, f.fields)
  | .ineg f => some (.long, .ineg, f.fields)
  | .iabs f => some (.long, .iabs, f.fields)
  | .imin f => some (.long, .imin, f.fields)
  | .imax f => some (.long, .imax, f.fields)
  | .iclamp f => some (.long, .iclamp, f.fields)
  | .imul f => some (.long, .imul, f.fields)
  | .imad f => some (.long, .imad, f.fields)
  | .isad f => some (.long, .isad, f.fields)
  | .idot f => some (.long, .idot, f.fields)
  | .icdot f => some (.long, .icdot, f.fields)
  | .icmp f => some (.long, .icmp, f.fields)
  | .isel f => some (.long, .isel, f.fields)
  | .iaddr f => some (.long, .iaddr, f.fields)
  | .and f => some (.long, .and, f.fields)
  | .or f => some (.long, .or, f.fields)
  | .xor f => some (.long, .xor, f.fields)
  | .andn f => some (.long, .andn, f.fields)
  | .orn f => some (.long, .orn, f.fields)
  | .not f => some (.long, .not, f.fields)
  | .tlog f => some (.long, .tlog, f.fields)
  | .shl f => some (.long, .shl, f.fields)
  | .shr f => some (.long, .shr, f.fields)
  | .rot f => some (.long, .rot, f.fields)
  | .bit f => some (.long, .bit, f.fields)
  | .bfld f => some (.long, .bfld, f.fields)
  | .mov f => some (.long, .mov, f.fields)
  | .plog f => some (.long, .plog, f.fields)
  | .pcvt f => some (.long, .pcvt, f.fields)
  | .vote f => some (.long, .vote, f.fields)
  | .sadd f => some (.long, .sadd, f.fields)
  | .ssub f => some (.long, .ssub, f.fields)
  | .smul f => some (.long, .smul, f.fields)
  | .smin f => some (.long, .smin, f.fields)
  | .smax f => some (.long, .smax, f.fields)
  | .slog f => some (.long, .slog, f.fields)
  | .sshl f => some (.long, .sshl, f.fields)
  | .sshr f => some (.long, .sshr, f.fields)
  | .scmp f => some (.long, .scmp, f.fields)
  | .ssel f => some (.long, .ssel, f.fields)
  | .smov f => some (.long, .smov, f.fields)
  | .cbase f => some (.long, .cbase, f.fields)
  | .sbit f => some (.long, .sbit, f.fields)
  | .fadd f => some (.long, .fadd, f.fields)
  | .fsub f => some (.long, .fsub, f.fields)
  | .fmul f => some (.long, .fmul, f.fields)
  | .ffma f => some (.long, .ffma, f.fields)
  | .fmin f => some (.long, .fmin, f.fields)
  | .fmax f => some (.long, .fmax, f.fields)
  | .fcmp f => some (.long, .fcmp, f.fields)
  | .fsel f => some (.long, .fsel, f.fields)
  | .fclass f => some (.long, .fclass, f.fields)
  | .frnd f => some (.long, .frnd, f.fields)
  | .fldexp f => some (.long, .fldexp, f.fields)
  | .ffrexp f => some (.long, .ffrexp, f.fields)
  | .fdiv f => some (.long, .fdiv, f.fields)
  | .fsqrt f => some (.long, .fsqrt, f.fields)
  | .fexp2 f => some (.long, .fexp2, f.fields)
  | .flog2 f => some (.long, .flog2, f.fields)
  | .fsin f => some (.long, .fsin, f.fields)
  | .fcos f => some (.long, .fcos, f.fields)
  | .ftanh f => some (.long, .ftanh, f.fields)
  | .flogi f => some (.long, .flogi, f.fields)
  | .frcp f => some (.long, .frcp, f.fields)
  | .frsqrt f => some (.long, .frsqrt, f.fields)
  | .cvt f => some (.long, .cvt, f.fields)
  | .bquant f => some (.long, .bquant, f.fields)
  | .bdequant f => some (.long, .bdequant, f.fields)
  | .pack f => some (.long, .pack, f.fields)
  | .unpack f => some (.long, .unpack, f.fields)
  | .srseed f => some (.long, .srseed, f.fields)
  | .ld f => some (.long, .ld, f.fields)
  | .st f => some (.long, .st, f.fields)
  | .lda f => some (.long, .lda, f.fields)
  | .stl f => some (.long, .stl, f.fields)
  | .atom f => some (.long, .atom, f.fields)
  | .cas f => some (.long, .cas, f.fields)
  | .fence f => some (.long, .fence, f.fields)
  | .marm f => some (.long, .marm, f.fields)
  | .mwait f => some (.long, .mwait, f.fields)
  | .bar f => some (.long, .bar, f.fields)
  | .push f => some (.long, .push, f.fields)
  | .pop f => some (.long, .pop, f.fields)
  | .oload f => some (.long, .oload, f.fields)
  | .mma f => some (.long, .mma, f.fields)
  | .cmma f => some (.long, .cmma, f.fields)
  | .mzpc f => some (.long, .mzpc, f.fields)
  | .aload f => some (.long, .aload, f.fields)
  | .aread f => some (.long, .aread, f.fields)
  | .awrite f => some (.long, .awrite, f.fields)
  | .adrain f => some (.long, .adrain, f.fields)
  | .semsig f => some (.long, .semsig, f.fields)
  | .semwait f => some (.long, .semwait, f.fields)
  | .semrd f => some (.long, .semrd, f.fields)
  | .post f => some (.long, .post, f.fields)
  | .collect f => some (.long, .collect, f.fields)
  | .amsend f => some (.long, .amsend, f.fields)
  | .coll f => some (.long, .coll, f.fields)
  | .bra f => some (.long, .bra, f.fields)
  | .call f => some (.long, .call, f.fields)
  | .brx f => some (.long, .brx, f.fields)
  | .callx f => some (.long, .callx, f.fields)
  | .ret f => some (.long, .ret, f.fields)
  | .join f => some (.long, .join, f.fields)
  | .exit f => some (.long, .exit, f.fields)
  | .trap f => some (.long, .trap, f.fields)
  | .yield f => some (.long, .yield, f.fields)
  | .nop f => some (.long, .nop, f.fields)
  | .gset f => some (.long, .gset, f.fields)
  | .gclr f => some (.long, .gclr, f.fields)
  | .csrRd f => some (.long, .csrRd, f.fields)
  | .csrWr f => some (.long, .csrWr, f.fields)
  | .tret f => some (.long, .tret, f.fields)
  | .iaddI32Short f => some (.short, .iadd, f.fields 0 .i32 .vec 0)
  | .isubI32Short f => some (.short, .isub, f.fields 0 .i32 .vec 0)
  | .iaddI64Short f => some (.short, .iadd, f.fields 0 .i64 .vec 0)
  | .iminI32Short f => some (.short, .imin, f.fields 0 .i32 .vec 0)
  | .imaxI32Short f => some (.short, .imax, f.fields 0 .i32 .vec 0)
  | .iminUi32Short f => some (.short, .imin, f.fields 0 .ui32 .vec 0)
  | .imaxUi32Short f => some (.short, .imax, f.fields 0 .ui32 .vec 0)
  | .imulI24Short f => some (.short, .imul, f.fields 0 .i24 .vec 0)
  | .imulI32Short f => some (.short, .imul, f.fields 0 .i32 .vec 0)
  | .iaddrX4Ui32Short f => some (.short, .iaddr, f.fields 2 .ui32 .vec 0)
  | .icmpEqI32Short f => some (.short, .icmp, f.fields 0 .i32 .pred 0)
  | .icmpNeI32Short f => some (.short, .icmp, f.fields 1 .i32 .pred 0)
  | .icmpLtI32Short f => some (.short, .icmp, f.fields 2 .i32 .pred 0)
  | .icmpLtUi32Short f => some (.short, .icmp, f.fields 2 .ui32 .pred 0)
  | .icmpGeI32Short f => some (.short, .icmp, f.fields 5 .i32 .pred 0)
  | .andB32Short f => some (.short, .and, f.fields 0 .b32 .vec 0)
  | .orB32Short f => some (.short, .or, f.fields 0 .b32 .vec 0)
  | .xorB32Short f => some (.short, .xor, f.fields 0 .b32 .vec 0)
  | .andnB32Short f => some (.short, .andn, f.fields 0 .b32 .vec 0)
  | .notB32Short f => some (.short, .not, f.fields 0 .b32 .vec 0)
  | .shlB32Short f => some (.short, .shl, f.fields 0 .b32 .vec 0)
  | .shrUi32Short f => some (.short, .shr, f.fields 0 .ui32 .vec 0)
  | .shrI32Short f => some (.short, .shr, f.fields 0 .i32 .vec 0)
  | .rotLB32Short f => some (.short, .rot, f.fields 0 .b32 .vec 0)
  | .bitPopcB32Short f => some (.short, .bit, f.fields 0 .b32 .vec 0)
  | .bitClzB32Short f => some (.short, .bit, f.fields 1 .b32 .vec 0)
  | .movB32Short f => some (.short, .mov, f.fields 0 .b32 .vec 0)
  | .movB64Short f => some (.short, .mov, f.fields 0 .b64 .vec 0)
  | .shlB64Short f => some (.short, .shl, f.fields 0 .b64 .vec 0)
  | .shrUi64Short f => some (.short, .shr, f.fields 0 .ui64 .vec 0)
  | .bfldByteB32Short f => some (.short, .bfld, f.fields 2 .b32 .vec 0)
  | .smovB64Short f => some (.short, .smov, f.fields 0 .b64 .scal 0)
  | .cbaseShort f => some (.short, .cbase, f.fields 0 .i32 .vec 0)
  | .faddF32Short f => some (.short, .fadd, f.fields 0 .f32 .vec 0)
  | .fsubF32Short f => some (.short, .fsub, f.fields 0 .f32 .vec 0)
  | .fmulF32Short f => some (.short, .fmul, f.fields 0 .f32 .vec 0)
  | .fminF32Short f => some (.short, .fmin, f.fields 0 .f32 .vec 0)
  | .fmaxF32Short f => some (.short, .fmax, f.fields 0 .f32 .vec 0)
  | .fminNanF32Short f => some (.short, .fmin, f.fields 1 .f32 .vec 0)
  | .fmaxNanF32Short f => some (.short, .fmax, f.fields 1 .f32 .vec 0)
  | .faddF16x2Short f => some (.short, .fadd, f.fields 0 .f16x2 .vec 0)
  | .fmulF16x2Short f => some (.short, .fmul, f.fields 0 .f16x2 .vec 0)
  | .faddBf16x2Short f => some (.short, .fadd, f.fields 0 .bf16x2 .vec 0)
  | .fmulBf16x2Short f => some (.short, .fmul, f.fields 0 .bf16x2 .vec 0)
  | .fcmpLtF32Short f => some (.short, .fcmp, f.fields 2 .f32 .pred 0)
  | .fcmpLeF32Short f => some (.short, .fcmp, f.fields 3 .f32 .pred 0)
  | .fcmpEqF32Short f => some (.short, .fcmp, f.fields 0 .f32 .pred 0)
  | .fldexpF32Short f => some (.short, .fldexp, f.fields 0 .f32 .vec 0)
  | .frndRneF32Short f => some (.short, .frnd, f.fields 0 .f32 .vec 0)
  | .fexp2F32Short f => some (.short, .fexp2, f.fields 0 .f32 .vec 0)
  | .flog2F32Short f => some (.short, .flog2, f.fields 0 .f32 .vec 0)
  | .fsinF32Short f => some (.short, .fsin, f.fields 0 .f32 .vec 0)
  | .fcosF32Short f => some (.short, .fcos, f.fields 0 .f32 .vec 0)
  | .ftanhF32Short f => some (.short, .ftanh, f.fields 0 .f32 .vec 0)
  | .flogiF32Short f => some (.short, .flogi, f.fields 0 .f32 .vec 0)
  | .frcpF32Short f => some (.short, .frcp, f.fields 0 .f32 .vec 0)
  | .frsqrtF32Short f => some (.short, .frsqrt, f.fields 0 .f32 .vec 0)
  | .cvtF32I32Short f => some (.short, .cvt, f.fields 0 .f32 .vec 0)
  | .cvtI32F32Short f => some (.short, .cvt, f.fields 0 .i32 .vec 19)
  | .cvtF16F32Short f => some (.short, .cvt, f.fields 0 .f16 .vec 19)
  | .cvtF32F16Short f => some (.short, .cvt, f.fields 0 .f32 .vec 20)
  | .cvtBf16F32Short f => some (.short, .cvt, f.fields 0 .bf16 .vec 19)
  | .cvtF32Bf16Short f => some (.short, .cvt, f.fields 0 .f32 .vec 21)
  | .ldStackB32Short f => some (.short, .ld, f.fields 0 .b32 .vec 0)
  | .ldTeamB32Short f => some (.short, .ld, f.fields 1 .b32 .vec 0)
  | .ldScrB32Short f => some (.short, .ld, f.fields 2 .b32 .vec 0)
  | .ldTeamB64Short f => some (.short, .ld, f.fields 1 .b64 .vec 0)
  | .ldScrB64Short f => some (.short, .ld, f.fields 2 .b64 .vec 0)
  | .ldTeamB128Short f => some (.short, .ld, f.fields 1 .b128 .vec 0)
  | .ldScrB128Short f => some (.short, .ld, f.fields 2 .b128 .vec 0)
  | .ldPeerB32Short f => some (.short, .ld, f.fields 3 .b32 .vec 0)
  | .fenceTeamShort f => some (.short, .fence, f.fields 1 .i32 .vec 0)
  | .fenceDieShort f => some (.short, .fence, f.fields 2 .i32 .vec 0)
  | .fenceModShort f => some (.short, .fence, f.fields 3 .i32 .vec 0)
  | .fenceSysShort f => some (.short, .fence, f.fields 4 .i32 .vec 0)
  | .barShort f => some (.short, .bar, f.fields 0 .i32 .vec 0)
  | .mwaitShort f => some (.short, .mwait, f.fields 0 .i32 .vec 0)
  | .popB32Short f => some (.short, .pop, f.fields 0 .b32 .vec 0)
  | .oclaim f => some (.short, .oclaim, f.fields 0 .i32 .pred 0)
  | .orelease f => some (.short, .orelease, f.fields 0 .i32 .vec 0)
  | .aclaim f => some (.short, .aclaim, f.fields 0 .i32 .pred 0)
  | .arelease f => some (.short, .arelease, f.fields 0 .i32 .vec 0)
  | .aclear f => some (.short, .aclear, f.fields 0 .i32 .vec 0)
  | .mwaitq f => some (.short, .mwaitq, f.fields 0 .i32 .vec 0)
  | .mstat f => some (.short, .mstat, f.fields 0 .i32 .scal 0)
  | .braShort off => some (.short, .bra, shortJump off)
  | .callShort off => some (.short, .call, shortJump off)
  | .retShort f => some (.short, .ret, f.fields 0 .i32 .vec 0)
  | .land f => some (.short, .land, f.fields 0 .i32 .vec 0)
  | .exitShort f => some (.short, .exit, f.fields 0 .i32 .vec 0)
  | .nopShort f => some (.short, .nop, f.fields 0 .i32 .vec 0)
  | .yieldShort f => some (.short, .yield, f.fields 0 .i32 .vec 0)
  | .trapShort f => some (.short, .trap, f.fields 0 .i32 .vec 0)
  | .trapBrkShort f => some (.short, .trap, f.fields 1 .i32 .vec 0)
  | .joinShort f => some (.short, .join, f.fields 0 .i32 .vec 0)
  | .iaddI32Limm f => some (.limm, .iadd, f.fields 0 .i32 .vec)
  | .iaddI64Limm f => some (.limm, .iadd, f.fields 0 .i64 .vec)
  | .imulI24Limm f => some (.limm, .imul, f.fields 0 .i24 .vec)
  | .icmpEqI32Limm f => some (.limm, .icmp, f.fields 0 .i32 .pred)
  | .icmpLtI32Limm f => some (.limm, .icmp, f.fields 2 .i32 .pred)
  | .icmpLtUi32Limm f => some (.limm, .icmp, f.fields 2 .ui32 .pred)
  | .iaddrUi32Limm f => some (.limm, .iaddr, f.fields 0 .ui32 .vec)
  | .andB32Limm f => some (.limm, .and, f.fields 0 .b32 .vec)
  | .orB32Limm f => some (.limm, .or, f.fields 0 .b32 .vec)
  | .xorB32Limm f => some (.limm, .xor, f.fields 0 .b32 .vec)
  | .movB32Limm f => some (.limm, .mov, f.fieldsA 0 .b32 .vec)
  | .movB64Limm f => some (.limm, .mov, f.fieldsA 0 .b64 .vec)
  | .smovB64Limm f => some (.limm, .smov, f.fields 0 .b64 .scal)
  | .cbaseLimm f => some (.limm, .cbase, f.fields 0 .i32 .vec)
  | .faddF32Limm f => some (.limm, .fadd, f.fields 0 .f32 .vec)
  | .fmulF32Limm f => some (.limm, .fmul, f.fields 0 .f32 .vec)
  | .fmaxF32Limm f => some (.limm, .fmax, f.fields 0 .f32 .vec)
  | .fminF32Limm f => some (.limm, .fmin, f.fields 0 .f32 .vec)
  | .ldStackB32Limm f => some (.limm, .ld, f.fields 0 .b32 .vec)
  | .ldTeamB32Limm f => some (.limm, .ld, f.fields 1 .b32 .vec)
  | .ldScrB32Limm f => some (.limm, .ld, f.fields 2 .b32 .vec)
  | .ldScrB64Limm f => some (.limm, .ld, f.fields 2 .b64 .vec)
  | .ldScrB128Limm f => some (.limm, .ld, f.fields 2 .b128 .vec)
  | .ldPeerB32Limm f => some (.limm, .ld, f.fields 3 .b32 .vec)
  | .braFar f => some (.limm, .bra, f.fieldsFar)
  | .callFar f => some (.limm, .call, f.fieldsFar)
  | .joinLimm f => some (.limm, .join, f.fields 0 .i32 .vec)
  | .repRepetition => none
  | .invIteration _ _ => none
  | .joinRelease _ _ => none
  | .spinForce _ _ => none
  | .yieldExpiry _ _ => none
  | .contextFree _ _ => none
  | .groupRetire _ => none
  | .launchComplete _ => none
  | .teamAdmit _ _ => none
  | .messageWhole _ => none
  | .handlerStart _ => none
  | .storeAck _ _ _ => none
  | .accessPerform _ _ _ => none
  | .faultService _ _ _ => none
  | .tableChange _ _ => none
  | .passGrant _ => none
  | .passComplete _ => none
  | .priorityRise _ _ => none
  | .oloadComplete _ _ => none
  | .aloadComplete _ _ => none
  | .areadComplete _ _ => none
  | .drainComplete _ _ => none
  | .copyAccept _ _ _ => none
  | .copyBegin _ _ => none
  | .checksumRecord _ _ _ => none
  | .postmark _ _ _ => none
  | .copyIncrement _ _ _ => none
  | .drainLimit _ => none
  | .dealerStart _ _ _ => none
  | .mopHalt _ => none
  | .mopGet _ => none
  | .mopGets _ => none
  | .mopPutm _ => none
  | .mopPut _ => none
  | .mopExpand _ => none
  | .mopCvtn _ => none
  | .mopCvtw _ => none
  | .mopTr8 _ => none
  | .mopCopy _ => none
  | .mopMovi _ => none
  | .mopAddi _ => none
  | .mopLdk _ => none
  | .mopLoop _ => none
  | .mopJmp _ => none
  | .mopSemw _ => none
  | .mopSig _ => none
  | .mopFence _ => none
  | .collectiveComplete _ _ _ => none
  | .linkTraining _ _ _ => none
  | .flitReceive _ _ _ => none
  | .replayRequest _ _ => none
  | .linkReplayTimeout _ => none
  | .keyExhausted _ => none
  | .detourInstall _ _ => none
  | .requestResend _ _ _ => none
  | .requestArrive _ => none
  | .responseArrive _ _ _ _ => none
  | .windowChange _ _ => none
  | .tailPointerWrite _ _ _ => none
  | .msixIncrement _ _ _ => none
  | .atsTranslationRequest _ _ _ _ => none
  | .pageRequest _ _ _ _ _ _ => none
  | .pageRequestService => none
  | .pageResponse => none
  | .stopMarker _ _ => none
  | .endpointRequest _ => none
  | .bridgeRequest _ _ _ _ _ => none
  | .functionFailure _ _ => none
  | .invalidateTimeout _ => none
  | .hotAdd _ _ _ _ _ _ => none
  | .frameReceive _ _ _ => none
  | .producerWrite _ _ => none
  | .ingestIncrement _ _ => none
  | .pausePoll _ _ => none
  | .pauseRepeat _ _ => none
  | .wakeFilterMatch _ _ => none
  | .heldFrameReplay => none
  | .loadObject _ => none
  | .unloadObject _ => none
  | .unloadEffect _ => none
  | .runGraph _ => none
  | .openQueue _ => none
  | .openRing _ => none
  | .closeRing _ => none
  | .unknownCommand _ => none
  | .runBegin _ => none
  | .quantumBoundary => none
  | .queueLevelRise _ => none
  | .admissionWaitLimit _ _ => none
  | .preempt _ => none
  | .teamResume _ => none
  | .haltRequest _ => none
  | .stepAll _ => none
  | .stepOne _ => none
  | .debugResume _ => none
  | .debugStateRead _ _ => none
  | .debugStateWrite _ _ _ => none
  | .letterSend _ _ _ _ => none
  | .letterArrival _ _ => none
  | .letterboxRefusedClear _ _ => none
  | .powerOn _ _ => none
  | .bootFailBlink => none
  | .attestationRequest _ => none
  | .planSelect _ => none
  | .clockRelock _ => none
  | .powerSample _ => none
  | .wearSample _ _ => none
  | .healthReport => none
  | .systemCoreGate _ => none
  | .illegalInstruction _ _ => none
  | .itemWritten _ _ => none
  | .powerLoss => none

end Sys2Proof
end

