-- ==== Sys2Proof/Word.lean ====
section
/-!
DEFINITION. The word types of the Norzal NZ12 (R45, R62): bytes, 32-bit words and 64-bit double words, and their
little-endian byte lists (R62, R198).
-/

namespace Sys2Proof

/-- A byte of memory. -/
abbrev Byte := BitVec 8

/-- A vector register or an instruction word. -/
abbrev Word := BitVec 32

/-- A scalar register, a virtual or physical address. -/
abbrev Dword := BitVec 64

end Sys2Proof
end

