-- ==== Sys2Proof/Config.lean ====
section
/-!
DEFINITION. What the spec leaves open and what one module fixes at manufacture or boot. Every constant here is opaque: no
proof can see its value, so a statement holds whatever it is. Each is named in the assumption log.
-/

namespace Sys2Proof.Config

/-- Which of `n` moves the machine makes next, from a counter in State (DESIGN CHOICE, log 4): parts with no order between them (R8, R9). -/
opaque choose : Nat → Nat → Nat

/-- Which of `n` equally near ports takes a request, which of `n` posts is written next (DESIGN CHOICE, log 4), and which of `n` dies' senders
goes on (DESIGN CHOICE, log 44). -/
opaque pickPort : Nat → Nat → Nat
opaque pickItem : Nat → Nat → Nat

/-- How many nanoseconds pass on the system die with a step, from a counter in State (DESIGN CHOICE, log 5). -/
opaque elapsed : Nat → Nat

/-- How many cycles the cores' clocks make with a step, beside what the issuing core's own unit takes (DESIGN CHOICE, log 5). -/
opaque coreCycles : Nat → Nat

/-- Where a soft error strikes (R310): a word of a scratchpad, a word of a team's memory by team and half, or a word of a die's register banks,
store buffers, operand or accumulator stores, which is corrected as it is read. -/
inductive Flip where
  | scratchpad (word : Nat)
  | team (tuid half word : Nat)
  | inner (die word : Nat)
  deriving DecidableEq, Repr
/-- A flipped bit before the next step (R310, DESIGN CHOICE, log 49). -/
opaque upset : Nat → Option Flip

/-- How many cycles beyond one a step of a core takes (DESIGN CHOICE, log 5): latencies are typical figures only. -/
opaque delay : Nat → Nat

/-- The special functions' results inside the bounds of R228 (DESIGN CHOICE, log 6): a function of the operation, the type, FZ and the
operand bits, and of nothing else. -/
opaque special : Op → Ty → Bool → BitVec 32 → BitVec 32

/-- Round-to-nearest-even at a tie between two neighbours of a binary8 format with P = 1, which has no trailing significand
bit to be even (R206, DESIGN CHOICE, log 11): is the greater magnitude taken? Indexed by the format's U and I bits and the binade. -/
opaque tieUp : Bool → Bool → Int → Bool

/-- The memory core's choice of a die for a page, among the candidates, and of a free frame on it (R465, DESIGN CHOICE, log 7). -/
opaque pickDie : Nat → Nat → Nat
opaque pickFrame : Nat → Nat → Nat

/-- The memory core's choice to refuse or to wait when no frame is free (R465, DESIGN CHOICE, log 7). -/
opaque refuses : Nat → Bool

/-- The 128-bit grant-token key that the module draws at a boot for each source module (R395, DESIGN CHOICE, log 8), by the boot's draw. -/
opaque tokenKey : Nat → Nat → BitVec 128

/-- Fuses: the boot key hash (R455) and the initial rollback count (DESIGN CHOICE, log 8). -/
opaque fusedKeyHash : List Byte
opaque fusedRollback : Nat

/-- The device identity signature over some bytes (R388, R457, DESIGN CHOICE, log 8): r and s of 256 bits each, by ECDSA with a key only core 0
reads. The identity keys of a cluster's modules, x and y, by position. -/
opaque identitySign : List Byte → BitVec 512
opaque identityKey : Nat → BitVec 512

/-- The secret of this end in a training's ECDH, drawn for it, and the AES-GCM-256 key of a direction of a port: by the shared secret, the sending
module and port, and the key generation (R388, DESIGN CHOICE, log 21). -/
opaque shareSecret : Nat → BitVec 256
opaque portKey : Nat → Nat → Nat → BitVec 16 → BitVec 256

/-- The layout of requests and responses in a flit's body, which the spec does not give (R386, DESIGN CHOICE, log 21), and what a body that was
received completes by it: the other module that it is for, a request, or a response with its die, its sender and its number. -/
opaque requestBody : PeerRequest → List Byte
opaque responseBody : Nat → BitVec 32 → PeerResponse → List Byte
opaque relayTarget : List Byte → Option Nat
opaque bodyRequest : List Byte → Option PeerRequest
opaque bodyResponse : List Byte → Option (Nat × Nat × BitVec 32 × PeerResponse)

/-- A resend time that the network core sets, if it sets one (R391, DESIGN CHOICE, log 21). -/
opaque resendSetting : Nat → Option Nat

/-- What the xSPI flash holds at boot (R454, DESIGN CHOICE, log 8): `none` where it could not be read. -/
opaque flashByte : Nat → Option Byte

/-- What a device answers when the tree core sets up a queue pair (R412, DESIGN CHOICE, log 10): whether each step succeeded. -/
opaque queuePairOk : Nat → Bool

/-- Whether the memory of a DRAM word is uncorrectable is state; whether a device gives a completion head word is the
device's (R412, DESIGN CHOICE, log 10). -/
opaque hasHeadWord : Nat → Bool

/-- A drain limit that the launch core sets for a die before a pre-emption, if it sets one (R375, DESIGN CHOICE, log 35). -/
opaque drainSetting : Nat → Option Nat

/-- Loaded addresses that the launch core chooses for an object's sections (R137, DESIGN CHOICE, log 7). -/
opaque loadBase : Nat → Nat

/-- What the partner of a bridge port answers to a read, by step, port, offset in its windows and length; `none`: poisoned
(R411, DESIGN CHOICE, log 40). -/
opaque bridgeRead : Nat → Nat → Nat → Nat → Option (List (BitVec 8))
/-- Kind codes of the letters whose kind the spec does not give (R425, DESIGN CHOICE, log 12), by subject. -/
opaque letterKind : Nat → Nat

/-- Free 64-bit values, indexed by a counter in State, for fields the spec leaves to the part (DESIGN CHOICE, log 7). -/
opaque freeDword : Nat → BitVec 64

end Sys2Proof.Config
end

