-- ==== Sys2Proof/WellFormed.lean ====
section
/-!
DEFINITION. Which instructions are legal: the opcode map (05 R89 to R106), the field rules (04 R66 to R68, 03 R46, R55) and
the per-instruction rules of chapters 08, 09, 13, 16 and 20. `shape` says what an operation reads and writes; `Instr.wf`
is what CheckInstruction (R81) accepts when no prefix stands before the word; `Instr.pfxOk` adds the prefix checks (R60,
R73, R180, R235).
-/

namespace Sys2Proof

/-- How an operation uses a source field. `num`: the field holds a number, not a register (R60, R161, R265). -/
inductive Use where
  | unused
  | any (words : Nat)
  | sc (words : Nat)
  | vecOnly (words : Nat)
  | litOnly
  | num
  deriving DecidableEq, Repr

/-- How an operation uses D: nothing, a vector of some words, a scalar, a predicate, a vector or a predicate, a scalar or a
predicate, a number, or an address (vector or scalar) that `st` and `stl` read (R99). -/
inductive DUse where
  | unused
  | vec (words : Nat)
  | scal
  | pred
  | vecOrPred (words : Nat)
  | scalOrPred
  | num
  | addr (words : Nat)
  deriving DecidableEq, Repr

/-- What an operation with given fields reads, writes and allows. -/
structure Shape where
  a : Use
  b : Use
  c : Use
  d : DUse
  /-- the form may carry an execution predicate (R66, R158, R162) -/
  pred : Bool
  deriving DecidableEq, Repr

/-- The 5-bit code of a type (R89). -/
def Ty.code : Ty → BitVec 5
  | .i32 => 0 | .ui32 => 1 | .i64 => 2 | .ui64 => 3 | .i16 => 4 | .ui16 => 5 | .i8 => 6 | .ui8 => 7
  | .i4 => 8 | .ui4 => 9 | .ci4 => 10 | .ci8 => 11 | .i24 => 12 | .ui24 => 13 | .b8 => 14 | .b16 => 15
  | .b32 => 16 | .b64 => 17 | .b128 => 18 | .f32 => 19 | .f16 => 20 | .bf16 => 21 | .f16x2 => 22 | .bf16x2 => 23
  | .fmt0 => 24 | .fmt1 => 25 | .fmt2 => 26 | .fmt3 => 27 | .fmt4 => 28 | .fmt5 => 29 | .fmt6 => 30 | .fmt7 => 31

/-- The type of a 5-bit code (R89). -/
def Ty.ofCode (c : BitVec 5) : Ty :=
  match c.toNat with
  | 0 => .i32 | 1 => .ui32 | 2 => .i64 | 3 => .ui64 | 4 => .i16 | 5 => .ui16 | 6 => .i8 | 7 => .ui8
  | 8 => .i4 | 9 => .ui4 | 10 => .ci4 | 11 => .ci8 | 12 => .i24 | 13 => .ui24 | 14 => .b8 | 15 => .b16
  | 16 => .b32 | 17 => .b64 | 18 => .b128 | 19 => .f32 | 20 => .f16 | 21 => .bf16 | 22 => .f16x2 | 23 => .bf16x2
  | 24 => .fmt0 | 25 => .fmt1 | 26 => .fmt2 | 27 => .fmt3 | 28 => .fmt4 | 29 => .fmt5 | 30 => .fmt6 | _ => .fmt7

/-- The slot that a type code fmtN names (R89). -/
def Ty.fmtSlot? (t : Ty) : Option Nat := if 24 ≤ t.code.toNat then some (t.code.toNat - 24) else none

/-- Registers that a value of the type occupies (R46, R340). -/
def Ty.words : Ty → Nat
  | .i64 | .ui64 | .b64 => 2
  | .b128 => 4
  | _ => 1

/-- FN as one byte: V and TY (R89). -/
def Fields.fn (f : Fields) : BitVec 8 := f.v ++ f.ty.code

/-- Types by group, for the opcode map's type lists. -/
def tyInt4 (t : Ty) : Bool := t == .i32 || t == .ui32 || t == .i64 || t == .ui64
def tyB (t : Ty) : Bool := t == .b32 || t == .b64
def tyF (t : Ty) : Bool := t == .f32 || t == .f16 || t == .bf16
def tyFp (t : Ty) : Bool := tyF t || t == .f16x2 || t == .bf16x2
def tyFmt (t : Ty) : Bool := t.fmtSlot?.isSome
def tyCvt (t : Ty) : Bool :=
  tyInt4 t || t == .i16 || t == .ui16 || t == .i8 || t == .ui8 || tyF t || tyFmt t
def tyPack (t : Ty) : Bool :=
  t == .i4 || t == .ui4 || t == .i8 || t == .ui8 || t == .i16 || t == .ui16 || t == .f16 || t == .bf16
def tyDrain (t : Ty) : Bool :=
  t == .i8 || t == .ui8 || t == .i16 || t == .ui16 || t == .i32 || tyF t || tyFmt t
/-- The type-less OPs take TY = 00000 (R89). -/
def tyNone (t : Ty) : Bool := t == .i32

/-- Bits of a packed element (R98). -/
def Ty.packBits : Ty → Nat
  | .i4 | .ui4 => 4
  | .i8 | .ui8 => 8
  | _ => 16

/-- A shape when its condition holds. -/
def shapeIf (ok : Bool) (s : Shape) : Option Shape := if ok then some s else none

/-- Two sources and a vector destination, of one width. -/
def sh2 (w : Nat) : Shape := ⟨.any w, .any w, .unused, .vec w, true⟩
/-- One source in A and a vector destination. -/
def sh1 (w : Nat) : Shape := ⟨.any w, .unused, .unused, .vec w, true⟩
/-- Three sources and a vector destination. -/
def sh3 (w : Nat) : Shape := ⟨.any w, .any w, .any w, .vec w, true⟩
/-- Class 2: scalar sources and destination, no predicate (R158). -/
def shS (a b c : Use) : Shape := ⟨a, b, c, .scal, false⟩
/-- No operand at all. -/
def sh0 (p : Bool) : Shape := ⟨.unused, .unused, .unused, .unused, p⟩

/-- A number field's value. -/
def Src.num : Src → Nat
  | .vec n | .scal n | .cons n => n
  | .lit v => v.toNat
  | .lit32 w => w.toNat

/-- A literal's value as a signed integer (R54). -/
def Src.litInt? : Src → Option Int
  | .lit v => some v.toInt
  | .lit32 w => some w.toInt
  | _ => none

/-- The words of an address base in a space (R339): stack and team take 32 bits, scr and peer 64. -/
def spaceWords (sp : Nat) : Nat := if 2 ≤ sp then 2 else 1

/-- The shape of an operation, or none where FN or X is unassigned (R91, R94 to R101) or a number field is out of range
(R161, R265, R351, R356, R358). -/
def shape (o : Op) (f : Fields) : Option Shape :=
  let v := f.v.toNat
  let x := f.x.toNat
  let t := f.ty
  let w := t.words
  match o with
  -- class 0 (R94)
  | .iadd | .isub => shapeIf (tyInt4 t && v ≤ 4 && (if 2 ≤ v then x ≤ 7 else x = 0)) (sh2 w)
  | .ineg | .iabs => shapeIf ((t == .i32 || t == .i64) && v ≤ 1 && x = 0) (sh1 w)
  | .imin | .imax => shapeIf (tyInt4 t && v = 0 && x = 0) (sh2 w)
  | .iclamp => shapeIf ((t == .i32 || t == .ui32) && v = 0 && x = 0) (sh3 1)
  | .imul => shapeIf ((t == .i24 || t == .ui24 || t == .i32 || t == .ui32) && v ≤ 1 && x = 0) (sh2 1)
  | .imad => shapeIf ((t == .i24 || t == .ui24 || t == .i32 || t == .ui32) && v ≤ 2 && x = 0) (sh3 1)
  | .isad => shapeIf (t == .ui8 && v = 0 && x = 0) (sh3 1)
  | .idot => shapeIf ((t == .i8 || t == .i4) && v ≤ 1 && x ≤ 3) (sh3 1)
  | .icdot => shapeIf (t == .ci8 && v ≤ 1 && x ≤ 1) ⟨.any 1, .any 1, .any 2, .vec 2, true⟩
  | .icmp => shapeIf (tyInt4 t && v ≤ 5 && x = 0) ⟨.any w, .any w, .unused, .vecOrPred w, true⟩
  | .isel => shapeIf (tyB t && v = 0 && x ≤ 7) (sh2 w)
  | .iaddr => shapeIf ((t == .ui32 || t == .ui64) && v ≤ 4 && x = 0) (sh2 w)
  -- class 1 (R95)
  | .and | .or | .xor | .andn | .orn => shapeIf (tyB t && v = 0 && x = 0) (sh2 w)
  | .not => shapeIf (tyB t && v = 0 && x = 0) (sh1 w)
  | .tlog => shapeIf (x ≤ 1) (sh3 (x + 1))
  | .shl => shapeIf (tyB t && v = 0 && x = 0) ⟨.any w, .any 1, .unused, .vec w, true⟩
  | .shr => shapeIf (tyInt4 t && v = 0 && x = 0) ⟨.any w, .any 1, .unused, .vec w, true⟩
  | .rot =>
    if v ≤ 1 then shapeIf (tyB t && x = 0) ⟨.any w, .any 1, .unused, .vec w, true⟩
    else shapeIf (tyB t && v ≤ 3 && x = 0) ⟨.any w, .any w, .any 1, .vec w, true⟩
  | .bit => shapeIf (tyB t && v ≤ 3 && x = 0) ⟨.any w, .unused, .unused, .vec (if v = 3 then w else 1), true⟩
  | .bfld =>
    if v = 0 then shapeIf (tyInt4 t && x = 0) ⟨.any w, .any 1, .unused, .vec w, true⟩
    else if v = 1 then shapeIf (tyB t && x = 0) ⟨.any w, .any w, .any 1, .vec w, true⟩
    else shapeIf (v = 2 && t == .b32 && x = 0) (sh2 1)
  | .mov =>
    if v = 0 then shapeIf (tyB t && x = 0) (sh1 w)
    else shapeIf (v = 1 && tyNone t && x = 0) ⟨.sc 1, .unused, .unused, .vec 1, true⟩
  | .plog =>
    shapeIf (v ≤ 5 && tyNone t && x = 0)
      ⟨.num, if v ≤ 3 then .num else .unused, .unused, .pred, true⟩
  | .pcvt =>
    shapeIf (v ≤ 1 && tyNone t && x = 0) ⟨if v = 0 then .num else .unused, .unused, .unused, .vec 1, true⟩
  | .vote =>
    shapeIf (v ≤ 3 && tyNone t && x = 0)
      ⟨.num, .unused, .unused, if v ≤ 1 then .scal else .scalOrPred, true⟩
  -- class 2 (R96)
  | .sadd | .ssub => shapeIf (tyInt4 t && v ≤ 1 && x = 0) (shS (.sc w) (.sc w) .unused)
  | .smul => shapeIf ((t == .i64 || t == .ui64) && v ≤ 1 && x = 0) (shS (.sc 2) (.sc 2) .unused)
  | .smin | .smax => shapeIf ((t == .i64 || t == .ui64) && v = 0 && x = 0) (shS (.sc 2) (.sc 2) .unused)
  | .slog => shapeIf (t == .b64 && v ≤ 5 && x = 0) (shS (if v = 5 then .unused else .sc 2) (.sc 2) .unused)
  | .sshl => shapeIf (t == .b64 && v = 0 && x = 0) (shS (.sc 2) (.sc 1) .unused)
  | .sshr => shapeIf ((t == .i64 || t == .ui64) && v = 0 && x = 0) (shS (.sc 2) (.sc 1) .unused)
  | .scmp => shapeIf ((t == .i64 || t == .ui64) && v ≤ 5 && x = 0) (shS (.sc 2) (.sc 2) .unused)
  | .ssel => shapeIf (t == .b64 && v = 0 && x = 0) (shS (.sc 2) (.sc 2) (.sc 2))
  | .smov => shapeIf (t == .b64 && v = 0 && x = 0) (shS .unused (.sc 2) .unused)
  | .cbase => shapeIf (tyNone t && v = 0 && x = 0) ⟨.unused, .sc 2, .unused, .unused, false⟩
  | .sbit => shapeIf (t == .b64 && v ≤ 2 && x = 0) (shS .unused (.sc 2) .unused)
  -- class 3 (R97)
  | .fadd | .fsub | .fmul => shapeIf (tyFp t && v = 0 && x = 0) (sh2 1)
  | .ffma => shapeIf (tyFp t && v ≤ 3 && x = 0) (sh3 1)
  | .fmin | .fmax => shapeIf (tyFp t && v ≤ 1 && x = 0) (sh2 1)
  | .fcmp => shapeIf (tyF t && x = 0) ⟨.any 1, .any 1, .unused, .vecOrPred 1, true⟩
  | .fsel => shapeIf (tyF t && v = 0 && x ≤ 7) (sh2 1)
  | .fclass => shapeIf (tyF t && v = 0 && x = 0) (sh1 1)
  | .frnd => shapeIf (tyF t && v ≤ 4 && x = 0) (sh1 1)
  | .fldexp => shapeIf (tyF t && v = 0 && x = 0) (sh2 1)
  | .ffrexp => shapeIf (tyF t && v ≤ 1 && x = 0) (sh1 1)
  | .fdiv => shapeIf (tyF t && v = 0 && x = 0) (sh2 1)
  | .fsqrt => shapeIf (tyF t && v = 0 && x = 0) (sh1 1)
  -- class 4 (R98)
  | .fexp2 | .flog2 | .fsin | .fcos | .ftanh | .flogi | .frcp | .frsqrt =>
    shapeIf (tyF t && v = 0 && x = 0) (sh1 1)
  | .cvt =>
    let s := Ty.ofCode (f.x.extractLsb' 0 5)
    shapeIf (tyCvt t && v = 0 && x < 32 && tyCvt s && s != t) ⟨.any s.words, .unused, .unused, .vec w, true⟩
  | .bquant => shapeIf (tyFmt t && v = 0 && x < 32 && tyF (Ty.ofCode (f.x.extractLsb' 0 5))) (sh2 1)
  | .bdequant => shapeIf (tyF t && v = 0 && x < 32 && tyFmt (Ty.ofCode (f.x.extractLsb' 0 5))) (sh1 1)
  | .pack => shapeIf (tyPack t && v < 32 / t.packBits && x = 0) (sh2 1)
  | .unpack => shapeIf (tyPack t && v < 32 / t.packBits && x = 0) (sh1 1)
  | .srseed => shapeIf (tyNone t && v = 0 && x = 0) ⟨.any 1, .unused, .unused, .unused, true⟩
  -- class 5 (R99)
  | .ld =>
    shapeIf ((t == .i8 || t == .ui8 || t == .i16 || t == .ui16 || t == .b32 || t == .b64 || t == .b128) && v ≤ 3 && x = 0)
      ⟨.any (spaceWords v), .any 1, .unused, .vec w, true⟩
  | .st =>
    shapeIf ((t == .b8 || t == .b16 || t == .b32 || t == .b64 || t == .b128) && v ≤ 3 && x = 0)
      ⟨.any 1, if t == .b128 then .vecOnly 4 else .any w, .unused, .addr (spaceWords v), true⟩
  | .lda => shapeIf (tyB t && 1 ≤ v && v ≤ 3 && x ≤ 4) ⟨.any (spaceWords v), .any 1, .unused, .vec w, true⟩
  | .stl => shapeIf (tyB t && 1 ≤ v && v ≤ 3 && x ≤ 4) ⟨.any 1, .any w, .unused, .addr (spaceWords v), true⟩
  | .atom =>
    shapeIf ((if v = 0 then tyInt4 t || t == .f32 || t == .f16x2 else if v ≤ 2 then tyInt4 t else tyB t) && v ≤ 6
        && x / 32 ≤ 2 && x % 8 ≤ 4)
      ⟨.any (spaceWords (x / 32 + 1)), .any w, .unused, .vec w, true⟩
  | .cas =>
    shapeIf (tyB t && 1 ≤ v && v ≤ 3 && x < 32 && x % 8 ≤ 4) ⟨.any (spaceWords v), .any w, .any w, .vec w, true⟩
  | .fence => shapeIf (tyNone t && 1 ≤ v && v ≤ 4 && x = 0) (sh0 true)
  | .marm => shapeIf (tyNone t && 1 ≤ v && v ≤ 3 && x = 0) ⟨.any (spaceWords v), .any 1, .unused, .unused, true⟩
  | .mwait => shapeIf (tyNone t && v = 0 && x = 0) (sh0 true)
  | .bar =>
    shapeIf (tyNone t && v = 0 && x = 0 && (match f.b.litInt? with | some n => 0 ≤ n && n ≤ 15 | none => true))
      ⟨.unused, .sc 1, .unused, .unused, true⟩
  | .push => shapeIf (t == .b32 && v = 0 && x = 0 && f.d ≤ 3) ⟨.any 1, .unused, .unused, .num, true⟩
  | .pop => shapeIf (t == .b32 && v = 0 && x = 0 && f.b.num ≤ 3) ⟨.unused, .litOnly, .unused, .vec 1, true⟩
  -- class 6 (R100, R265)
  | .oload => shapeIf (tyFmt t && v ≤ 3 && x ≤ 1 && f.d ≤ 63) ⟨.sc 2, .sc 1, .sc 1, .num, true⟩
  | .mma =>
    let ta := (f.fn.extractLsb' 3 3).toNat
    let tb := (f.fn.extractLsb' 0 3).toNat
    let int := (ta ≤ 1 && tb ≤ 1) || (2 ≤ ta && ta ≤ 3 && 2 ≤ tb && tb ≤ 3)
    let flt := (4 ≤ ta && ta ≤ 5 && 4 ≤ tb && tb ≤ 5) || (ta = 6 && tb = 6)
    shapeIf (f.fn.extractLsb' 6 2 = 0 && ((int && x ≤ 1) || (flt && x % 2 = 0 && x ≤ 15)) && f.d ≤ 7 && f.a.num ≤ 63
        && f.b.num ≤ 63) ⟨.num, .num, .unused, .num, true⟩
  | .cmma =>
    shapeIf ((f.fn = 0x00 || f.fn = 0x09) && x ≤ 3 && f.d ≤ 7 && f.a.num ≤ 63 && f.b.num ≤ 63)
      ⟨.num, .num, .unused, .num, true⟩
  | .mzpc =>
    shapeIf (t == .i32 && v = 0 && x = 0 && f.d ≤ 7 && f.a.num ≤ 63 && f.b.num ≤ 7) ⟨.num, .litOnly, .unused, .num, true⟩
  | .aload => shapeIf (tyNone t && v ≤ 1 && x = 0 && f.d ≤ 7) ⟨.any 2, .unused, .unused, .num, true⟩
  | .aread => shapeIf (t == .b32 && v ≤ 3 && x = 0 && f.a.num ≤ 7) ⟨.num, .any 1, .unused, .vec 1, true⟩
  | .awrite => shapeIf (t == .b32 && v ≤ 3 && x = 0 && f.d ≤ 7) ⟨.any 1, .any 1, .unused, .num, true⟩
  | .adrain =>
    shapeIf ((if v = 1 then t == .i8 || t == .ui8 else tyDrain t) && v ≤ 2 && x = 0 && f.a.num ≤ 7)
      ⟨.num, if v = 0 then .unused else .sc 1, .unused, .vec 1, true⟩
  | .semsig | .semwait => shapeIf (tyNone t && v = 0 && x = 0) ⟨.any 1, .any 1, .unused, .unused, true⟩
  | .semrd => shapeIf (tyNone t && v = 0 && x = 0) ⟨.any 1, .unused, .unused, .vec 1, true⟩
  | .post => shapeIf (tyNone t && v = 0 && x = 0) ⟨.any 1, .any 2, .unused, .unused, true⟩
  | .collect => shapeIf (tyNone t && v = 0 && x = 0 && f.c.num ≤ 7) ⟨.any 1, .unused, .num, .vec 2, true⟩
  | .amsend =>
    shapeIf (tyNone t && v = 0 && x = 0 && 1 ≤ f.c.num && f.c.num ≤ 32
        && (match f.a.litInt? with | some n => 0 ≤ n | none => true))
      ⟨.any 2, .vecOnly 1, .litOnly, .unused, true⟩
  | .coll => shapeIf (tyNone t && v = 0 && x = 0) ⟨.sc 2, .unused, .unused, .unused, true⟩
  -- class 7 (R101, R161)
  | .bra =>
    if v = 0 then shapeIf (tyNone t && x = 0) (sh0 true)
    else shapeIf (v ≤ 2 && tyNone t && x = 0 && (match f.c with | .scal n => n ≤ 63 | _ => false))
      ⟨.unused, .unused, .sc 2, .unused, true⟩
  | .call => shapeIf (v = 0 && tyNone t && x = 0) (sh0 true)
  | .brx | .callx => shapeIf (v = 0 && tyNone t && x = 0) ⟨.any 1, .unused, .unused, .unused, true⟩
  | .ret | .exit | .yield | .nop => shapeIf (v = 0 && tyNone t && x = 0) (sh0 true)
  | .join => shapeIf (v = 0 && tyNone t && x = 0) ⟨.unused, .any 2, .unused, .unused, true⟩
  | .trap => shapeIf (v ≤ 1 && tyNone t && x = 0) ⟨.unused, .sc 1, .unused, .unused, true⟩
  | .gset => shapeIf (v = 0 && tyNone t && x = 0 && f.d ≤ 15) ⟨.unused, .sc 2, .unused, .num, false⟩
  | .gclr => shapeIf (v = 0 && tyNone t && x = 0 && f.d ≤ 15 && f.b.num ≤ 1) ⟨.unused, .litOnly, .unused, .num, false⟩
  | .csrRd =>
    shapeIf (v = 0 && tyNone t && x = 0 && f.a.num ≤ 7)
      ⟨.num, .unused, .unused, if f.a.num = 5 || f.a.num = 6 then .vec 1 else .scal, false⟩
  | .csrWr =>
    shapeIf (v = 1 && tyNone t && x = 0 && (f.a.num = 0 || f.a.num = 2)) ⟨.num, .sc 1, .unused, .unused, false⟩
  | .tret => shapeIf (v = 0 && tyNone t && x = 0) (sh0 false)
  -- the eight short-only operations (R102, R265, R170)
  | .oclaim => shapeIf (f.a.num ≤ 63) ⟨.num, .unused, .unused, .pred, false⟩
  | .orelease => shapeIf (f.a.num ≤ 63) ⟨.num, .unused, .unused, .unused, false⟩
  | .aclaim => shapeIf (f.a.num ≤ 7) ⟨.num, .sc 1, .unused, .pred, false⟩
  | .arelease => shapeIf (f.a.num ≤ 7) ⟨.num, .unused, .unused, .unused, false⟩
  | .aclear =>
    shapeIf (f.a.num ≤ 7 && (f.b.num ≤ 7 || f.b.num = 0x7F)) ⟨.num, .litOnly, .unused, .unused, false⟩
  | .mwaitq => shapeIf (f.a.num ≤ 0x47 || f.a.num = 0x7F) ⟨.num, .unused, .unused, .unused, false⟩
  | .mstat =>
    shapeIf (f.a.num ≤ 0x47 && (f.b.num = 0 || (f.b.num = 1 && 0x40 ≤ f.a.num))) ⟨.num, .litOnly, .unused, .scal, false⟩
  | .land => some (sh0 false)

/-- Is a source field acceptable for its use (R54, R55, R68, R46, R340)? -/
def srcOk : Use → Src → Bool
  | .unused, .vec n => n == 0
  | .unused, _ => false
  | .any w, .vec n => n % w == 0
  | .any _, .scal n => n ≤ 74
  | .any _, _ => true
  | .sc _, .vec _ => false
  | .sc _, .scal n => n ≤ 74
  | .sc _, _ => true
  | .vecOnly w, .vec n => n % w == 0
  | .vecOnly _, _ => false
  | .litOnly, .lit _ => true
  | .litOnly, _ => false
  | .num, .vec _ => true
  | .num, _ => false

/-- A class 2 instruction accepts neither %lane nor %tid (R52). -/
def laneSrc : Src → Bool
  | .scal n => n == 64 || n == 65
  | _ => false

/-- Is D acceptable for its use (R46, R52, R55)? -/
def dstOk : DUse → DKind → Nat → Bool
  | .unused, k, d => k == .vec && d == 0
  | .vec w, k, d => k == .vec && d % w == 0
  | .scal, k, d => k == .scal && d ≤ 63
  | .pred, k, d => k == .pred && d ≤ 7
  | .vecOrPred w, k, d => (k == .vec && d % w == 0) || (k == .pred && d ≤ 7)
  | .scalOrPred, k, d => (k == .scal && d ≤ 63) || (k == .pred && d ≤ 7)
  | .num, k, _ => k == .vec
  | .addr w, k, d => (k == .vec && d % w == 0) || (k == .scal && d ≤ 63)

/-- The class of an operation, OP[6:4] (R70). -/
def Op.cls : Op → Nat
  | .iadd | .isub | .ineg | .iabs | .imin | .imax | .iclamp | .imul | .imad | .isad | .idot | .icdot | .icmp | .isel
  | .iaddr => 0
  | .and | .or | .xor | .andn | .orn | .not | .tlog | .shl | .shr | .rot | .bit | .bfld | .mov | .plog | .pcvt | .vote => 1
  | .sadd | .ssub | .smul | .smin | .smax | .slog | .sshl | .sshr | .scmp | .ssel | .smov | .cbase | .sbit => 2
  | .fadd | .fsub | .fmul | .ffma | .fmin | .fmax | .fcmp | .fsel | .fclass | .frnd | .fldexp | .ffrexp | .fdiv
  | .fsqrt => 3
  | .fexp2 | .flog2 | .fsin | .fcos | .ftanh | .flogi | .frcp | .frsqrt | .cvt | .bquant | .bdequant | .pack | .unpack
  | .srseed => 4
  | .ld | .st | .lda | .stl | .atom | .cas | .fence | .marm | .mwait | .bar | .push | .pop => 5
  | .oload | .mma | .cmma | .mzpc | .aload | .aread | .awrite | .adrain | .semsig | .semwait | .semrd | .post | .collect
  | .amsend | .coll | .oclaim | .orelease | .aclaim | .arelease | .aclear | .mwaitq | .mstat => 6
  | .bra | .call | .brx | .callx | .ret | .join | .exit | .trap | .yield | .nop | .gset | .gclr | .csrRd | .csrWr
  | .tret | .land => 7

/-- The never predicate of the long form (R66). -/
def Fields.never (f : Fields) : Bool := f.pg == 0 && f.pn

/-- The bits of A and B that `plog`, `pcvt` and `vote` do not read are zero (R68, R95, R156). A REP step may carry a predicate field past 7; its low three
bits are read (DEDUCED, log 31). -/
def predOk (o : Op) (f : Fields) : Bool := !(o == .plog || o == .pcvt || o == .vote) || (f.a.num ≤ 7 && f.b.num ≤ 7)

/-- The static checks of CheckInstruction that need no prefix (R66, R68, R46, R52, R55, R91): a short `pop`'s chute and a
far transfer's zero fields included. -/
def fieldsOk (o : Op) (f : Fields) : Bool :=
  match shape o f with
  | none => false
  | some s =>
    srcOk s.a f.a && srcOk s.b f.b && srcOk s.c f.c && dstOk s.d f.kd f.d && !f.never
      && (s.pred || (f.pg == 0 && !f.pn))
      && (o.cls != 2 || !(laneSrc f.a || laneSrc f.b || laneSrc f.c)) && predOk o f

/-- Raw fields that the row's `Fields` does not keep must be zero (R68): the short form's A where a scalar row takes its
source in B, a single-source short row's B, and the first word of a long-immediate. -/
def rawOk (i : Instr) : Bool :=
  match i with
  | .iaddI32Limm f | .iaddI64Limm f | .imulI24Limm f | .icmpEqI32Limm f | .icmpLtI32Limm f | .icmpLtUi32Limm f
  | .iaddrUi32Limm f | .andB32Limm f | .orB32Limm f | .xorB32Limm f | .faddF32Limm f | .fmulF32Limm f | .fmaxF32Limm f
  | .fminF32Limm f | .ldStackB32Limm f | .ldTeamB32Limm f | .ldScrB32Limm f | .ldScrB64Limm f | .ldScrB128Limm f
  | .ldPeerB32Limm f => f.b == ⟨.lit, 0⟩
  | .movB32Limm f | .movB64Limm f | .smovB64Limm f | .cbaseLimm f | .joinLimm f => f.b == ⟨.lit, 0⟩ && f.a == 0
  | .braFar f => f.d == 0 && f.a == 0 && f.b == ⟨.vec, 0⟩
  | .callFar f => f.b.kind != .lit
  | _ => true

/-- A far `call` keeps D, A and B for the INV case (R235); every other row is checked as its operation says. -/
def Instr.wf (i : Instr) : Bool :=
  rawOk i &&
    match i with
    | .callFar _ => true
    | _ =>
      match i.core with
      | some (_, o, f) => fieldsOk o f
      | none => false

/-- MOD properties of an operation (R92, R94 to R100). -/
structure Marks where
  r : Bool := false
  s : Bool := false
  p : Bool := false
  f : Bool := false
  z : Bool := false
  g : Bool := false
  deriving DecidableEq, Repr

/-- The Marks column of the opcode map. -/
def Op.marks : Op → Marks
  | .iadd | .isub | .ineg | .iabs | .imad | .idot | .icdot | .sadd | .ssub => { s := true }
  | .fadd | .fsub | .fmul | .ffma | .fldexp | .fdiv | .fsqrt => { r := true, z := true }
  | .fmin | .fmax | .fcmp | .frnd | .ffrexp => { z := true }
  | .fexp2 | .flog2 | .fsin | .fcos | .ftanh | .flogi | .frcp | .frsqrt | .unpack => { z := true }
  | .cvt => { r := true, s := true, p := true, f := true, z := true }
  | .bquant => { r := true, p := true, f := true, z := true }
  | .bdequant => { p := true, f := true, z := true }
  | .pack => { r := true, s := true, p := true, z := true }
  | .st => { g := true }
  | .oload => { f := true, g := true }
  | .mma => { s := true, f := true, z := true, g := true }
  | .cmma => { s := true, g := true }
  | .mzpc | .aload | .awrite | .aclear => { g := true }
  | .adrain => { r := true, p := true, f := true, g := true }
  | _ => {}

/-- CanModify of R81: by form and operation alone (R79). -/
def canModMod (o : Op) : Bool := let m := o.marks; m.r || m.s || m.p || m.f || m.z
def canModRoute (o : Op) : Bool := o.cls ≤ 6
def canModRep (o : Op) : Bool := o.cls == 0 || o.cls == 1 || o.cls == 3 || o.cls == 4
def canModInv (fm : Form) (o : Op) : Bool := fm == .limm && o == .call
/-- GUARD modifies what carries the G mark in some form (R79) (DEDUCED, log 29). -/
def canModGuard (o : Op) : Bool := o.marks.g

/-- The MOD checks of CheckInstruction (R73, R94) (DEDUCED, log 31). -/
def modOk (o : Op) (f : Fields) (m : ModP) : Bool :=
  let k := o.marks
  (m.rnd == 0 || k.r) && (!m.sat || (k.s && !((o == .iadd || o == .isub) && 2 ≤ f.v.toNat) && !(o == .imad && f.v == 1)))
    && (!m.pe || k.p) && (!m.se || k.f) && (!m.fz || k.z)

/-- One operand's ROUTE check (R60). -/
def routeOk1 (cls : Nat) (u : Use) (s : Src) (r : BitVec 8) : Bool :=
  r == 0 || (cls != 2 && (match s with | .vec _ => true | _ => false) && u != .unused && u != .num)

/-- The register step of a REP step code (R179). -/
def stepOf (c : BitVec 2) : Nat :=
  match c.toNat with
  | 0 => 0 | 1 => 1 | 2 => 2 | _ => 4

/-- One source's REP check (R180). -/
def repSrcOk (u : Use) (s : Src) (st n : Nat) : Bool :=
  st == 0 ||
    match u, s with
    | .unused, _ | .litOnly, _ | _, .lit _ | _, .lit32 _ => false
    | .num, .vec _ => true
    | .any w, .vec k | .vecOnly w, .vec k => (k % w == 0) && (w ≤ 1 || n ≤ 1 || st % w == 0)
    | _, .scal k => k + (n - 1) * st ≤ 63
    | _, .cons k => k + (n - 1) * st ≤ 127
    | _, _ => false

/-- D's REP check (R180). -/
def repDstOk (u : DUse) (k : DKind) (d st n : Nat) : Bool :=
  st == 0 ||
    match u, k with
    | .unused, _ | _, .pred | _, .resv | .num, _ => false
    | _, .scal => d + (n - 1) * st ≤ 63
    | .vec w, .vec | .vecOrPred w, .vec => (d % w == 0) && (w ≤ 1 || n ≤ 1 || st % w == 0)
    | _, .vec => true

/-- The prefix checks of CheckInstruction (R60, R73, R180, R235). -/
def pfxOk (i : Instr) (p : Pfx) : Bool :=
  match i.core with
  | none => false
  | some (_, o, f) =>
    match shape o f, i with
    | _, .callFar g =>
      match p.inv with
      | some _ =>
        let others := match g.b.kind with
          | .vec => g.b.n != g.a && g.b.n != g.d
          | .scal => g.b.n.toNat ≤ 74
          | _ => true
        g.a != g.d && others
      | none => g.d == 0 && g.a == 0 && g.b == ⟨.vec, 0⟩
    | none, _ => false
    | some s, _ =>
      (match p.mod with | some m => modOk o f m | none => true)
        && (match p.route with
            | some r => routeOk1 o.cls s.a f.a r.ra && routeOk1 o.cls s.b f.b r.rb && routeOk1 o.cls s.c f.c r.rc
            | none => true)
        && (match p.rep with
            | some r =>
              let n := r.cnt.toNat + 1
              repSrcOk s.a f.a (stepOf r.sa) n && repSrcOk s.b f.b (stepOf r.sb) n && repSrcOk s.c f.c (stepOf r.sc) n
                && repDstOk s.d f.kd f.d (stepOf r.sd) n
            | none => true)
        && (match p.guard with
            | some _ => o != .st || (f.v == 2 && f.ty == .b128)
            | none => true)

end Sys2Proof
end

