-- ==== Sys2Proof/Decode.lean ====
section
/-!
DEFINITION. Decoding and encoding (04 R62 to R69, R71 to R77, 05 R94 to R104). `decodeWords` reads one instruction from its
one or two words; `decodePfx` reads a prefix word; `encode` writes an instruction's words. Every reserved encoding is
rejected by a named error (R87, R106).
-/

namespace Sys2Proof

/-- Why words are no instruction (R87): all but the last two are the illegal-instruction fates. -/
inductive DecodeError where
  | reservedOp
  | illegalField
  | prefixWord
  | truncated
  deriving DecidableEq, Repr

/-- Bits hi..lo of a word as a Nat-width bit vector: `w` bits from `lo`. -/
abbrev bits (x : BitVec 32) (lo w : Nat) : BitVec w := x.extractLsb' lo w

/-- Tag codes (R54). -/
def Kind.code : Kind → BitVec 2
  | .vec => 0 | .scal => 1 | .cons => 2 | .lit => 3
def Kind.ofCode (c : BitVec 2) : Kind :=
  match c.toNat with | 0 => .vec | 1 => .scal | 2 => .cons | _ => .lit
def DKind.code : DKind → BitVec 2
  | .vec => 0 | .scal => 1 | .pred => 2 | .resv => 3
def DKind.ofCode (c : BitVec 2) : DKind :=
  match c.toNat with | 0 => .vec | 1 => .scal | 2 => .pred | _ => .resv

/-- The length selector and the OP of a first word (R62, R65). -/
def wordLs (w : BitVec 32) : BitVec 2 := bits w 0 2
def wordOp (w : BitVec 32) : BitVec 7 := bits w 2 7

/-- The short form's fields (R65). -/
def unpackShort (w0 : BitVec 32) : ShortF := ⟨bits w0 9 7, bits w0 16 7, ⟨Kind.ofCode (bits w0 23 2), bits w0 25 7⟩⟩
/-- The long form's fields (R66). -/
def unpackLong (w0 w1 : BitVec 32) : LongF :=
  { d := bits w0 9 7
    kd := DKind.ofCode (bits w1 2 2)
    a := ⟨Kind.ofCode (bits w1 0 2), bits w0 16 7⟩
    b := ⟨Kind.ofCode (bits w0 23 2), bits w0 25 7⟩
    c := ⟨Kind.ofCode (bits w1 11 2), bits w1 4 7⟩
    pg := bits w1 13 3
    pn := bits w1 16 1 == 1
    v := bits w1 22 3
    ty := Ty.ofCode (bits w1 17 5)
    x := bits w1 25 7 }
/-- The long form of a direct transfer (R69): its first word holds the offset. -/
def unpackJump (w0 w1 : BitVec 32) : JumpF :=
  { off := bits w0 9 23
    c := ⟨Kind.ofCode (bits w1 11 2), bits w1 4 7⟩
    pg := bits w1 13 3
    pn := bits w1 16 1 == 1
    v := bits w1 22 3 }
/-- The bits of a long direct transfer's second word that it leaves no field: KA, KD, TY and X (R161). -/
def jumpZeros (w1 : BitVec 32) : Bool := bits w1 0 4 == 0 && bits w1 17 5 == 0 && bits w1 25 7 == 0
/-- The long-immediate form's fields (R67). -/
def unpackLimm (w0 w1 : BitVec 32) : LimmF :=
  ⟨bits w0 9 7, bits w0 16 7, ⟨Kind.ofCode (bits w0 23 2), bits w0 25 7⟩, w1⟩

/-- The short OPs (R102). -/
def shortRow (op : BitVec 7) (f : ShortF) (off : BitVec 23) : Option Instr :=
  match op.toNat with
  | 0x01 => some (.iaddI32Short f)
  | 0x02 => some (.isubI32Short f)
  | 0x03 => some (.iaddI64Short f)
  | 0x04 => some (.iminI32Short f)
  | 0x05 => some (.imaxI32Short f)
  | 0x06 => some (.iminUi32Short f)
  | 0x07 => some (.imaxUi32Short f)
  | 0x08 => some (.imulI24Short f)
  | 0x09 => some (.imulI32Short f)
  | 0x0A => some (.iaddrX4Ui32Short f)
  | 0x0B => some (.icmpEqI32Short f)
  | 0x0C => some (.icmpNeI32Short f)
  | 0x0D => some (.icmpLtI32Short f)
  | 0x0E => some (.icmpLtUi32Short f)
  | 0x0F => some (.icmpGeI32Short f)
  | 0x10 => some (.andB32Short f)
  | 0x11 => some (.orB32Short f)
  | 0x12 => some (.xorB32Short f)
  | 0x13 => some (.andnB32Short f)
  | 0x14 => some (.notB32Short f)
  | 0x15 => some (.shlB32Short f)
  | 0x16 => some (.shrUi32Short f)
  | 0x17 => some (.shrI32Short f)
  | 0x18 => some (.rotLB32Short f)
  | 0x19 => some (.bitPopcB32Short f)
  | 0x1A => some (.bitClzB32Short f)
  | 0x1B => some (.movB32Short f)
  | 0x1C => some (.movB64Short f)
  | 0x1D => some (.shlB64Short f)
  | 0x1E => some (.shrUi64Short f)
  | 0x1F => some (.bfldByteB32Short f)
  | 0x20 => some (.smovB64Short f)
  | 0x21 => some (.cbaseShort f)
  | 0x30 => some (.faddF32Short f)
  | 0x31 => some (.fsubF32Short f)
  | 0x32 => some (.fmulF32Short f)
  | 0x33 => some (.fminF32Short f)
  | 0x34 => some (.fmaxF32Short f)
  | 0x35 => some (.fminNanF32Short f)
  | 0x36 => some (.fmaxNanF32Short f)
  | 0x37 => some (.faddF16x2Short f)
  | 0x38 => some (.fmulF16x2Short f)
  | 0x39 => some (.faddBf16x2Short f)
  | 0x3A => some (.fmulBf16x2Short f)
  | 0x3B => some (.fcmpLtF32Short f)
  | 0x3C => some (.fcmpLeF32Short f)
  | 0x3D => some (.fcmpEqF32Short f)
  | 0x3E => some (.fldexpF32Short f)
  | 0x3F => some (.frndRneF32Short f)
  | 0x40 => some (.fexp2F32Short f)
  | 0x41 => some (.flog2F32Short f)
  | 0x42 => some (.fsinF32Short f)
  | 0x43 => some (.fcosF32Short f)
  | 0x44 => some (.ftanhF32Short f)
  | 0x45 => some (.flogiF32Short f)
  | 0x46 => some (.frcpF32Short f)
  | 0x47 => some (.frsqrtF32Short f)
  | 0x48 => some (.cvtF32I32Short f)
  | 0x49 => some (.cvtI32F32Short f)
  | 0x4A => some (.cvtF16F32Short f)
  | 0x4B => some (.cvtF32F16Short f)
  | 0x4C => some (.cvtBf16F32Short f)
  | 0x4D => some (.cvtF32Bf16Short f)
  | 0x50 => some (.ldStackB32Short f)
  | 0x51 => some (.ldTeamB32Short f)
  | 0x52 => some (.ldScrB32Short f)
  | 0x53 => some (.ldTeamB64Short f)
  | 0x54 => some (.ldScrB64Short f)
  | 0x55 => some (.ldTeamB128Short f)
  | 0x56 => some (.ldScrB128Short f)
  | 0x57 => some (.ldPeerB32Short f)
  | 0x58 => some (.fenceTeamShort f)
  | 0x59 => some (.fenceDieShort f)
  | 0x5A => some (.fenceModShort f)
  | 0x5B => some (.fenceSysShort f)
  | 0x5C => some (.barShort f)
  | 0x5D => some (.mwaitShort f)
  | 0x5E => some (.popB32Short f)
  | 0x60 => some (.oclaim f)
  | 0x61 => some (.orelease f)
  | 0x62 => some (.aclaim f)
  | 0x63 => some (.arelease f)
  | 0x64 => some (.aclear f)
  | 0x65 => some (.mwaitq f)
  | 0x66 => some (.mstat f)
  | 0x70 => some (.braShort off)
  | 0x71 => some (.callShort off)
  | 0x72 => some (.retShort f)
  | 0x73 => some (.land f)
  | 0x74 => some (.exitShort f)
  | 0x75 => some (.nopShort f)
  | 0x76 => some (.yieldShort f)
  | 0x77 => some (.trapShort f)
  | 0x78 => some (.trapBrkShort f)
  | 0x79 => some (.joinShort f)
  | _ => none

/-- The long OPs (R94 to R101); `csr` is two rows, chosen by V. -/
def longRow (op : BitVec 7) (f : LongF) (j : JumpF) (jz : Bool) : Option Instr :=
  match op.toNat with
  | 0x01 => some (.iadd f)
  | 0x02 => some (.isub f)
  | 0x03 => some (.ineg f)
  | 0x04 => some (.iabs f)
  | 0x05 => some (.imin f)
  | 0x06 => some (.imax f)
  | 0x07 => some (.iclamp f)
  | 0x08 => some (.imul f)
  | 0x09 => some (.imad f)
  | 0x0A => some (.isad f)
  | 0x0B => some (.idot f)
  | 0x0C => some (.icdot f)
  | 0x0D => some (.icmp f)
  | 0x0E => some (.isel f)
  | 0x0F => some (.iaddr f)
  | 0x10 => some (.and f)
  | 0x11 => some (.or f)
  | 0x12 => some (.xor f)
  | 0x13 => some (.andn f)
  | 0x14 => some (.orn f)
  | 0x15 => some (.not f)
  | 0x16 => some (.tlog f)
  | 0x17 => some (.shl f)
  | 0x18 => some (.shr f)
  | 0x19 => some (.rot f)
  | 0x1A => some (.bit f)
  | 0x1B => some (.bfld f)
  | 0x1C => some (.mov f)
  | 0x1D => some (.plog f)
  | 0x1E => some (.pcvt f)
  | 0x1F => some (.vote f)
  | 0x20 => some (.sadd f)
  | 0x21 => some (.ssub f)
  | 0x22 => some (.smul f)
  | 0x23 => some (.smin f)
  | 0x24 => some (.smax f)
  | 0x25 => some (.slog f)
  | 0x26 => some (.sshl f)
  | 0x27 => some (.sshr f)
  | 0x28 => some (.scmp f)
  | 0x29 => some (.ssel f)
  | 0x2A => some (.smov f)
  | 0x2B => some (.cbase f)
  | 0x2C => some (.sbit f)
  | 0x30 => some (.fadd f)
  | 0x31 => some (.fsub f)
  | 0x32 => some (.fmul f)
  | 0x33 => some (.ffma f)
  | 0x34 => some (.fmin f)
  | 0x35 => some (.fmax f)
  | 0x36 => some (.fcmp f)
  | 0x37 => some (.fsel f)
  | 0x38 => some (.fclass f)
  | 0x39 => some (.frnd f)
  | 0x3A => some (.fldexp f)
  | 0x3B => some (.ffrexp f)
  | 0x3C => some (.fdiv f)
  | 0x3D => some (.fsqrt f)
  | 0x40 => some (.fexp2 f)
  | 0x41 => some (.flog2 f)
  | 0x42 => some (.fsin f)
  | 0x43 => some (.fcos f)
  | 0x44 => some (.ftanh f)
  | 0x45 => some (.flogi f)
  | 0x46 => some (.frcp f)
  | 0x47 => some (.frsqrt f)
  | 0x48 => some (.cvt f)
  | 0x49 => some (.bquant f)
  | 0x4A => some (.bdequant f)
  | 0x4B => some (.pack f)
  | 0x4C => some (.unpack f)
  | 0x4D => some (.srseed f)
  | 0x50 => some (.ld f)
  | 0x51 => some (.st f)
  | 0x52 => some (.lda f)
  | 0x53 => some (.stl f)
  | 0x54 => some (.atom f)
  | 0x55 => some (.cas f)
  | 0x56 => some (.fence f)
  | 0x57 => some (.marm f)
  | 0x58 => some (.mwait f)
  | 0x59 => some (.bar f)
  | 0x5A => some (.push f)
  | 0x5B => some (.pop f)
  | 0x60 => some (.oload f)
  | 0x61 => some (.mma f)
  | 0x62 => some (.cmma f)
  | 0x63 => some (.mzpc f)
  | 0x64 => some (.aload f)
  | 0x65 => some (.aread f)
  | 0x66 => some (.awrite f)
  | 0x67 => some (.adrain f)
  | 0x68 => some (.semsig f)
  | 0x69 => some (.semwait f)
  | 0x6A => some (.semrd f)
  | 0x6B => some (.post f)
  | 0x6C => some (.collect f)
  | 0x6D => some (.amsend f)
  | 0x6E => some (.coll f)
  | 0x70 => if jz then some (.bra j) else none
  | 0x71 => if jz then some (.call j) else none
  | 0x72 => some (.brx f)
  | 0x73 => some (.callx f)
  | 0x74 => some (.ret f)
  | 0x75 => some (.join f)
  | 0x76 => some (.exit f)
  | 0x77 => some (.trap f)
  | 0x78 => some (.yield f)
  | 0x79 => some (.nop f)
  | 0x7A => some (.gset f)
  | 0x7B => some (.gclr f)
  | 0x7C => if f.v = 0 then some (.csrRd f) else if f.v = 1 then some (.csrWr f) else none
  | 0x7D => some (.tret f)
  | _ => none

/-- The long-immediate OPs (R104). -/
def limmRow (op : BitVec 7) (f : LimmF) : Option Instr :=
  match op.toNat with
  | 0x01 => some (.iaddI32Limm f)
  | 0x02 => some (.iaddI64Limm f)
  | 0x03 => some (.imulI24Limm f)
  | 0x04 => some (.icmpEqI32Limm f)
  | 0x05 => some (.icmpLtI32Limm f)
  | 0x06 => some (.icmpLtUi32Limm f)
  | 0x07 => some (.iaddrUi32Limm f)
  | 0x10 => some (.andB32Limm f)
  | 0x11 => some (.orB32Limm f)
  | 0x12 => some (.xorB32Limm f)
  | 0x13 => some (.movB32Limm f)
  | 0x14 => some (.movB64Limm f)
  | 0x20 => some (.smovB64Limm f)
  | 0x21 => some (.cbaseLimm f)
  | 0x30 => some (.faddF32Limm f)
  | 0x31 => some (.fmulF32Limm f)
  | 0x32 => some (.fmaxF32Limm f)
  | 0x33 => some (.fminF32Limm f)
  | 0x50 => some (.ldStackB32Limm f)
  | 0x51 => some (.ldTeamB32Limm f)
  | 0x52 => some (.ldScrB32Limm f)
  | 0x53 => some (.ldScrB64Limm f)
  | 0x54 => some (.ldScrB128Limm f)
  | 0x55 => some (.ldPeerB32Limm f)
  | 0x70 => some (.braFar f)
  | 0x71 => some (.callFar f)
  | 0x72 => some (.joinLimm f)
  | _ => none

/-- The row of a first word that is no prefix, before its fields are checked. -/
def rowOf (w0 w1 : BitVec 32) : Option Instr :=
  match (wordLs w0).toNat with
  | 0 => shortRow (wordOp w0) (unpackShort w0) (bits w0 9 23)
  | 1 => longRow (wordOp w0) (unpackLong w0 w1) (unpackJump w0 w1) (jumpZeros w1)
  | 3 => limmRow (wordOp w0) (unpackLimm w0 w1)
  | _ => none

/-- The length of an instruction in bytes, from its length selector (R62). -/
def wordLen (w0 : BitVec 32) : Nat := if wordLs w0 = 0 || wordLs w0 = 2 then 4 else 8

/-- Decode one instruction from its first word and the word after it. A far `call` outside an INV unit has zero fields; the
unit decoder checks that (R104, R235). -/
def decodeWords (w0 w1 : BitVec 32) : Except DecodeError Instr :=
  if wordLs w0 = 2 then .error .prefixWord
  else
    match rowOf w0 w1 with
    | none => .error .reservedOp
    | some i => if i.wf then .ok i else .error .illegalField

/-- The operation of a first word by form and OP alone (R81, CanModify): none where the OP is unassigned (DEDUCED, log 30). -/
def opOfWord (w0 : BitVec 32) : Option (Form × Op) :=
  let fl : LongF := unpackLong 0 0
  let r := match (wordLs w0).toNat with
    | 0 => shortRow (wordOp w0) (unpackShort 0) 0
    | 1 => longRow (wordOp w0) fl (unpackJump 0 0) true
    | 3 => limmRow (wordOp w0) (unpackLimm 0 0)
    | _ => none
  match r with
  | some i => (i.core).map fun q => (q.1, q.2.1)
  | none => none

/-- A decoded prefix word (R71 to R77). -/
inductive PfxWord where
  | mod (m : ModP)
  | route (r : RouteP)
  | rep (r : RepP)
  | inv (i : InvP)
  | guard (g : GuardP)
  deriving DecidableEq, Repr

/-- The kind of a prefix word, PK (R71). -/
def pfxKind (w : BitVec 32) : BitVec 4 := bits w 2 4

/-- Decode a prefix word of kind 0 to 4; none for a reserved field value or a nonzero reserved bit (R71). -/
def decodePfx (w : BitVec 32) : Option PfxWord :=
  match (pfxKind w).toNat with
  | 0 =>
    if bits w 24 8 = 0 && bits w 6 3 != 7 then
      some (.mod ⟨bits w 6 3, bits w 9 1 == 1, bits w 10 1 == 1, bits w 11 8, bits w 19 1 == 1, bits w 20 3, bits w 23 1 == 1⟩)
    else none
  | 1 => some (.route ⟨bits w 8 8, bits w 16 8, bits w 24 8, bits w 6 2⟩)
  | 2 => if bits w 20 12 = 0 then some (.rep ⟨bits w 6 6, bits w 12 2, bits w 14 2, bits w 16 2, bits w 18 2⟩) else none
  | 3 =>
    if bits w 28 4 = 0 && bits w 27 1 = 0 && bits w 25 1 = 0 then
      some (.inv ⟨bits w 6 1 == 1, bits w 7 2, bits w 9 8, bits w 17 6, bits w 23 2, bits w 26 1 == 1⟩)
    else none
  | 4 => if bits w 11 21 = 0 then some (.guard ⟨bits w 6 4, bits w 10 1 == 1⟩) else none
  | _ => none

/-- One bit. -/
def bit1 (b : Bool) : BitVec 1 := if b then 1 else 0

/-- Words of the three forms (R65 to R67, R69). -/
def packShort (op : BitVec 7) (f : ShortF) : BitVec 32 := f.b.n ++ f.b.kind.code ++ f.a ++ f.d ++ op ++ (0 : BitVec 2)
def packShortJump (op : BitVec 7) (off : BitVec 23) : BitVec 32 := off ++ op ++ (0 : BitVec 2)
def packLong (op : BitVec 7) (f : LongF) : BitVec 32 × BitVec 32 :=
  (f.b.n ++ f.b.kind.code ++ f.a.n ++ f.d ++ op ++ (1 : BitVec 2),
   f.x ++ f.v ++ f.ty.code ++ bit1 f.pn ++ f.pg ++ f.c.kind.code ++ f.c.n ++ f.kd.code ++ f.a.kind.code)
def packJump (op : BitVec 7) (f : JumpF) : BitVec 32 × BitVec 32 :=
  (f.off ++ op ++ (1 : BitVec 2),
   (0 : BitVec 7) ++ f.v ++ (0 : BitVec 5) ++ bit1 f.pn ++ f.pg ++ f.c.kind.code ++ f.c.n ++ (0 : BitVec 4))
def packLimm (op : BitVec 7) (f : LimmF) : BitVec 32 × BitVec 32 :=
  (f.b.n ++ f.b.kind.code ++ f.a ++ f.d ++ op ++ (3 : BitVec 2), f.w)

/-- A short instruction's words: one. -/
def one (w : BitVec 32) : Option (List (BitVec 32)) := some [w]
/-- A long or long-immediate instruction's words: two. -/
def two (p : BitVec 32 × BitVec 32) : Option (List (BitVec 32)) := some [p.1, p.2]

/-- The words of an encodable row (R65 to R69, R94 to R104); none for an event. -/
def encode : Instr → Option (List (BitVec 32))
  | .iadd f => two (packLong 0x01 f)
  | .isub f => two (packLong 0x02 f)
  | .ineg f => two (packLong 0x03 f)
  | .iabs f => two (packLong 0x04 f)
  | .imin f => two (packLong 0x05 f)
  | .imax f => two (packLong 0x06 f)
  | .iclamp f => two (packLong 0x07 f)
  | .imul f => two (packLong 0x08 f)
  | .imad f => two (packLong 0x09 f)
  | .isad f => two (packLong 0x0A f)
  | .idot f => two (packLong 0x0B f)
  | .icdot f => two (packLong 0x0C f)
  | .icmp f => two (packLong 0x0D f)
  | .isel f => two (packLong 0x0E f)
  | .iaddr f => two (packLong 0x0F f)
  | .and f => two (packLong 0x10 f)
  | .or f => two (packLong 0x11 f)
  | .xor f => two (packLong 0x12 f)
  | .andn f => two (packLong 0x13 f)
  | .orn f => two (packLong 0x14 f)
  | .not f => two (packLong 0x15 f)
  | .tlog f => two (packLong 0x16 f)
  | .shl f => two (packLong 0x17 f)
  | .shr f => two (packLong 0x18 f)
  | .rot f => two (packLong 0x19 f)
  | .bit f => two (packLong 0x1A f)
  | .bfld f => two (packLong 0x1B f)
  | .mov f => two (packLong 0x1C f)
  | .plog f => two (packLong 0x1D f)
  | .pcvt f => two (packLong 0x1E f)
  | .vote f => two (packLong 0x1F f)
  | .sadd f => two (packLong 0x20 f)
  | .ssub f => two (packLong 0x21 f)
  | .smul f => two (packLong 0x22 f)
  | .smin f => two (packLong 0x23 f)
  | .smax f => two (packLong 0x24 f)
  | .slog f => two (packLong 0x25 f)
  | .sshl f => two (packLong 0x26 f)
  | .sshr f => two (packLong 0x27 f)
  | .scmp f => two (packLong 0x28 f)
  | .ssel f => two (packLong 0x29 f)
  | .smov f => two (packLong 0x2A f)
  | .cbase f => two (packLong 0x2B f)
  | .sbit f => two (packLong 0x2C f)
  | .fadd f => two (packLong 0x30 f)
  | .fsub f => two (packLong 0x31 f)
  | .fmul f => two (packLong 0x32 f)
  | .ffma f => two (packLong 0x33 f)
  | .fmin f => two (packLong 0x34 f)
  | .fmax f => two (packLong 0x35 f)
  | .fcmp f => two (packLong 0x36 f)
  | .fsel f => two (packLong 0x37 f)
  | .fclass f => two (packLong 0x38 f)
  | .frnd f => two (packLong 0x39 f)
  | .fldexp f => two (packLong 0x3A f)
  | .ffrexp f => two (packLong 0x3B f)
  | .fdiv f => two (packLong 0x3C f)
  | .fsqrt f => two (packLong 0x3D f)
  | .fexp2 f => two (packLong 0x40 f)
  | .flog2 f => two (packLong 0x41 f)
  | .fsin f => two (packLong 0x42 f)
  | .fcos f => two (packLong 0x43 f)
  | .ftanh f => two (packLong 0x44 f)
  | .flogi f => two (packLong 0x45 f)
  | .frcp f => two (packLong 0x46 f)
  | .frsqrt f => two (packLong 0x47 f)
  | .cvt f => two (packLong 0x48 f)
  | .bquant f => two (packLong 0x49 f)
  | .bdequant f => two (packLong 0x4A f)
  | .pack f => two (packLong 0x4B f)
  | .unpack f => two (packLong 0x4C f)
  | .srseed f => two (packLong 0x4D f)
  | .ld f => two (packLong 0x50 f)
  | .st f => two (packLong 0x51 f)
  | .lda f => two (packLong 0x52 f)
  | .stl f => two (packLong 0x53 f)
  | .atom f => two (packLong 0x54 f)
  | .cas f => two (packLong 0x55 f)
  | .fence f => two (packLong 0x56 f)
  | .marm f => two (packLong 0x57 f)
  | .mwait f => two (packLong 0x58 f)
  | .bar f => two (packLong 0x59 f)
  | .push f => two (packLong 0x5A f)
  | .pop f => two (packLong 0x5B f)
  | .oload f => two (packLong 0x60 f)
  | .mma f => two (packLong 0x61 f)
  | .cmma f => two (packLong 0x62 f)
  | .mzpc f => two (packLong 0x63 f)
  | .aload f => two (packLong 0x64 f)
  | .aread f => two (packLong 0x65 f)
  | .awrite f => two (packLong 0x66 f)
  | .adrain f => two (packLong 0x67 f)
  | .semsig f => two (packLong 0x68 f)
  | .semwait f => two (packLong 0x69 f)
  | .semrd f => two (packLong 0x6A f)
  | .post f => two (packLong 0x6B f)
  | .collect f => two (packLong 0x6C f)
  | .amsend f => two (packLong 0x6D f)
  | .coll f => two (packLong 0x6E f)
  | .bra f => two (packJump 0x70 f)
  | .call f => two (packJump 0x71 f)
  | .brx f => two (packLong 0x72 f)
  | .callx f => two (packLong 0x73 f)
  | .ret f => two (packLong 0x74 f)
  | .join f => two (packLong 0x75 f)
  | .exit f => two (packLong 0x76 f)
  | .trap f => two (packLong 0x77 f)
  | .yield f => two (packLong 0x78 f)
  | .nop f => two (packLong 0x79 f)
  | .gset f => two (packLong 0x7A f)
  | .gclr f => two (packLong 0x7B f)
  | .csrRd f => two (packLong 0x7C f)
  | .csrWr f => two (packLong 0x7C f)
  | .tret f => two (packLong 0x7D f)
  | .iaddI32Short f => one (packShort 0x01 f)
  | .isubI32Short f => one (packShort 0x02 f)
  | .iaddI64Short f => one (packShort 0x03 f)
  | .iminI32Short f => one (packShort 0x04 f)
  | .imaxI32Short f => one (packShort 0x05 f)
  | .iminUi32Short f => one (packShort 0x06 f)
  | .imaxUi32Short f => one (packShort 0x07 f)
  | .imulI24Short f => one (packShort 0x08 f)
  | .imulI32Short f => one (packShort 0x09 f)
  | .iaddrX4Ui32Short f => one (packShort 0x0A f)
  | .icmpEqI32Short f => one (packShort 0x0B f)
  | .icmpNeI32Short f => one (packShort 0x0C f)
  | .icmpLtI32Short f => one (packShort 0x0D f)
  | .icmpLtUi32Short f => one (packShort 0x0E f)
  | .icmpGeI32Short f => one (packShort 0x0F f)
  | .andB32Short f => one (packShort 0x10 f)
  | .orB32Short f => one (packShort 0x11 f)
  | .xorB32Short f => one (packShort 0x12 f)
  | .andnB32Short f => one (packShort 0x13 f)
  | .notB32Short f => one (packShort 0x14 f)
  | .shlB32Short f => one (packShort 0x15 f)
  | .shrUi32Short f => one (packShort 0x16 f)
  | .shrI32Short f => one (packShort 0x17 f)
  | .rotLB32Short f => one (packShort 0x18 f)
  | .bitPopcB32Short f => one (packShort 0x19 f)
  | .bitClzB32Short f => one (packShort 0x1A f)
  | .movB32Short f => one (packShort 0x1B f)
  | .movB64Short f => one (packShort 0x1C f)
  | .shlB64Short f => one (packShort 0x1D f)
  | .shrUi64Short f => one (packShort 0x1E f)
  | .bfldByteB32Short f => one (packShort 0x1F f)
  | .smovB64Short f => one (packShort 0x20 f)
  | .cbaseShort f => one (packShort 0x21 f)
  | .faddF32Short f => one (packShort 0x30 f)
  | .fsubF32Short f => one (packShort 0x31 f)
  | .fmulF32Short f => one (packShort 0x32 f)
  | .fminF32Short f => one (packShort 0x33 f)
  | .fmaxF32Short f => one (packShort 0x34 f)
  | .fminNanF32Short f => one (packShort 0x35 f)
  | .fmaxNanF32Short f => one (packShort 0x36 f)
  | .faddF16x2Short f => one (packShort 0x37 f)
  | .fmulF16x2Short f => one (packShort 0x38 f)
  | .faddBf16x2Short f => one (packShort 0x39 f)
  | .fmulBf16x2Short f => one (packShort 0x3A f)
  | .fcmpLtF32Short f => one (packShort 0x3B f)
  | .fcmpLeF32Short f => one (packShort 0x3C f)
  | .fcmpEqF32Short f => one (packShort 0x3D f)
  | .fldexpF32Short f => one (packShort 0x3E f)
  | .frndRneF32Short f => one (packShort 0x3F f)
  | .fexp2F32Short f => one (packShort 0x40 f)
  | .flog2F32Short f => one (packShort 0x41 f)
  | .fsinF32Short f => one (packShort 0x42 f)
  | .fcosF32Short f => one (packShort 0x43 f)
  | .ftanhF32Short f => one (packShort 0x44 f)
  | .flogiF32Short f => one (packShort 0x45 f)
  | .frcpF32Short f => one (packShort 0x46 f)
  | .frsqrtF32Short f => one (packShort 0x47 f)
  | .cvtF32I32Short f => one (packShort 0x48 f)
  | .cvtI32F32Short f => one (packShort 0x49 f)
  | .cvtF16F32Short f => one (packShort 0x4A f)
  | .cvtF32F16Short f => one (packShort 0x4B f)
  | .cvtBf16F32Short f => one (packShort 0x4C f)
  | .cvtF32Bf16Short f => one (packShort 0x4D f)
  | .ldStackB32Short f => one (packShort 0x50 f)
  | .ldTeamB32Short f => one (packShort 0x51 f)
  | .ldScrB32Short f => one (packShort 0x52 f)
  | .ldTeamB64Short f => one (packShort 0x53 f)
  | .ldScrB64Short f => one (packShort 0x54 f)
  | .ldTeamB128Short f => one (packShort 0x55 f)
  | .ldScrB128Short f => one (packShort 0x56 f)
  | .ldPeerB32Short f => one (packShort 0x57 f)
  | .fenceTeamShort f => one (packShort 0x58 f)
  | .fenceDieShort f => one (packShort 0x59 f)
  | .fenceModShort f => one (packShort 0x5A f)
  | .fenceSysShort f => one (packShort 0x5B f)
  | .barShort f => one (packShort 0x5C f)
  | .mwaitShort f => one (packShort 0x5D f)
  | .popB32Short f => one (packShort 0x5E f)
  | .oclaim f => one (packShort 0x60 f)
  | .orelease f => one (packShort 0x61 f)
  | .aclaim f => one (packShort 0x62 f)
  | .arelease f => one (packShort 0x63 f)
  | .aclear f => one (packShort 0x64 f)
  | .mwaitq f => one (packShort 0x65 f)
  | .mstat f => one (packShort 0x66 f)
  | .braShort f => one (packShortJump 0x70 f)
  | .callShort f => one (packShortJump 0x71 f)
  | .retShort f => one (packShort 0x72 f)
  | .land f => one (packShort 0x73 f)
  | .exitShort f => one (packShort 0x74 f)
  | .nopShort f => one (packShort 0x75 f)
  | .yieldShort f => one (packShort 0x76 f)
  | .trapShort f => one (packShort 0x77 f)
  | .trapBrkShort f => one (packShort 0x78 f)
  | .joinShort f => one (packShort 0x79 f)
  | .iaddI32Limm f => two (packLimm 0x01 f)
  | .iaddI64Limm f => two (packLimm 0x02 f)
  | .imulI24Limm f => two (packLimm 0x03 f)
  | .icmpEqI32Limm f => two (packLimm 0x04 f)
  | .icmpLtI32Limm f => two (packLimm 0x05 f)
  | .icmpLtUi32Limm f => two (packLimm 0x06 f)
  | .iaddrUi32Limm f => two (packLimm 0x07 f)
  | .andB32Limm f => two (packLimm 0x10 f)
  | .orB32Limm f => two (packLimm 0x11 f)
  | .xorB32Limm f => two (packLimm 0x12 f)
  | .movB32Limm f => two (packLimm 0x13 f)
  | .movB64Limm f => two (packLimm 0x14 f)
  | .smovB64Limm f => two (packLimm 0x20 f)
  | .cbaseLimm f => two (packLimm 0x21 f)
  | .faddF32Limm f => two (packLimm 0x30 f)
  | .fmulF32Limm f => two (packLimm 0x31 f)
  | .fmaxF32Limm f => two (packLimm 0x32 f)
  | .fminF32Limm f => two (packLimm 0x33 f)
  | .ldStackB32Limm f => two (packLimm 0x50 f)
  | .ldTeamB32Limm f => two (packLimm 0x51 f)
  | .ldScrB32Limm f => two (packLimm 0x52 f)
  | .ldScrB64Limm f => two (packLimm 0x53 f)
  | .ldScrB128Limm f => two (packLimm 0x54 f)
  | .ldPeerB32Limm f => two (packLimm 0x55 f)
  | .braFar f => two (packLimm 0x70 f)
  | .callFar f => two (packLimm 0x71 f)
  | .joinLimm f => two (packLimm 0x72 f)
  | .repRepetition => none
  | .invIteration _ _ => none
  | .joinRelease _ _ => none
  | .spinForce _ _ => none
  | .yieldExpiry _ _ => none
  | .contextFree _ _ => none
  | .groupRetire _ => none
  | .launchComplete _ => none
  | .teamAdmit _ _ => none
  | .messageWhole _ => none
  | .handlerStart _ => none
  | .storeAck _ _ _ => none
  | .accessPerform _ _ _ => none
  | .faultService _ _ _ => none
  | .tableChange _ _ => none
  | .passGrant _ => none
  | .passComplete _ => none
  | .priorityRise _ _ => none
  | .oloadComplete _ _ => none
  | .aloadComplete _ _ => none
  | .areadComplete _ _ => none
  | .drainComplete _ _ => none
  | .copyAccept _ _ _ => none
  | .copyBegin _ _ => none
  | .checksumRecord _ _ _ => none
  | .postmark _ _ _ => none
  | .copyIncrement _ _ _ => none
  | .drainLimit _ => none
  | .dealerStart _ _ _ => none
  | .mopHalt _ => none
  | .mopGet _ => none
  | .mopGets _ => none
  | .mopPutm _ => none
  | .mopPut _ => none
  | .mopExpand _ => none
  | .mopCvtn _ => none
  | .mopCvtw _ => none
  | .mopTr8 _ => none
  | .mopCopy _ => none
  | .mopMovi _ => none
  | .mopAddi _ => none
  | .mopLdk _ => none
  | .mopLoop _ => none
  | .mopJmp _ => none
  | .mopSemw _ => none
  | .mopSig _ => none
  | .mopFence _ => none
  | .collectiveComplete _ _ _ => none
  | .linkTraining _ _ _ => none
  | .flitReceive _ _ _ => none
  | .replayRequest _ _ => none
  | .linkReplayTimeout _ => none
  | .keyExhausted _ => none
  | .detourInstall _ _ => none
  | .requestResend _ _ _ => none
  | .requestArrive _ => none
  | .responseArrive _ _ _ _ => none
  | .windowChange _ _ => none
  | .tailPointerWrite _ _ _ => none
  | .msixIncrement _ _ _ => none
  | .atsTranslationRequest _ _ _ _ => none
  | .pageRequest _ _ _ _ _ _ => none
  | .pageRequestService => none
  | .pageResponse => none
  | .stopMarker _ _ => none
  | .endpointRequest _ => none
  | .bridgeRequest _ _ _ _ _ => none
  | .functionFailure _ _ => none
  | .invalidateTimeout _ => none
  | .hotAdd _ _ _ _ _ _ => none
  | .frameReceive _ _ _ => none
  | .producerWrite _ _ => none
  | .ingestIncrement _ _ => none
  | .pausePoll _ _ => none
  | .pauseRepeat _ _ => none
  | .wakeFilterMatch _ _ => none
  | .heldFrameReplay => none
  | .loadObject _ => none
  | .unloadObject _ => none
  | .unloadEffect _ => none
  | .runGraph _ => none
  | .openQueue _ => none
  | .openRing _ => none
  | .closeRing _ => none
  | .unknownCommand _ => none
  | .runBegin _ => none
  | .quantumBoundary => none
  | .queueLevelRise _ => none
  | .admissionWaitLimit _ _ => none
  | .preempt _ => none
  | .teamResume _ => none
  | .haltRequest _ => none
  | .stepAll _ => none
  | .stepOne _ => none
  | .debugResume _ => none
  | .debugStateRead _ _ => none
  | .debugStateWrite _ _ _ => none
  | .letterSend _ _ _ _ => none
  | .letterArrival _ _ => none
  | .letterboxRefusedClear _ _ => none
  | .powerOn _ _ => none
  | .bootFailBlink => none
  | .attestationRequest _ => none
  | .planSelect _ => none
  | .clockRelock _ => none
  | .powerSample _ => none
  | .wearSample _ _ => none
  | .healthReport => none
  | .systemCoreGate _ => none
  | .illegalInstruction _ _ => none
  | .itemWritten _ _ => none
  | .powerLoss => none

/-- A word's bytes, little-endian (R62). -/
def wordBytes (w : BitVec 32) : List Byte := [bits w 0 8, bits w 8 8, bits w 16 8, bits w 24 8]

/-- The word of the first four bytes of a list, little-endian. -/
def bytesWord? : List Byte → Option (BitVec 32 × List Byte)
  | b0 :: b1 :: b2 :: b3 :: r => some (b3 ++ b2 ++ b1 ++ b0, r)
  | _ => none

/-- Decode the instruction at the head of a byte list, and the rest of the list. -/
def decodeBytes (bs : List Byte) : Except DecodeError (Instr × List Byte) :=
  match bytesWord? bs with
  | none => .error .truncated
  | some (w0, r) =>
    if wordLen w0 = 4 then
      match decodeWords w0 0 with
      | .ok i => .ok (i, r)
      | .error e => .error e
    else
      match bytesWord? r with
      | none => .error .truncated
      | some (w1, r') =>
        match decodeWords w0 w1 with
        | .ok i => .ok (i, r')
        | .error e => .error e

/-- The bytes of an instruction numbered as the opcode table numbers its bits, every bit above `nbits` zero, up to the longest
instruction, eight bytes. -/
def tableBytes (nbits w : Nat) : List Byte :=
  let x := BitVec.ofNat 64 (w % 2 ^ nbits)
  wordBytes (x.extractLsb' 0 32) ++ wordBytes (x.extractLsb' 32 32)

/-- The instruction that the decoder reads from a word of the opcode table. -/
def decodeTableWord (nbits w : Nat) : Option Instr :=
  match decodeBytes (tableBytes nbits w) with
  | .ok (i, _) => some i
  | .error _ => none

/-- Where and why a unit fails to decode (R81): the trap code of R439 and the faulting word's offset. -/
structure UnitError where
  cause : BitVec 16
  word : BitVec 32
  deriving DecidableEq, Repr

/-- A decoded unit: its instruction, the instruction's own offset, the offset after the unit, and its prefixes. -/
structure DUnit where
  ins : Instr
  ipc : BitVec 32
  npc : BitVec 32
  pfx : Pfx
  deriving DecidableEq, Repr

/-- The offset of a prefix already in the chain, by kind. -/
def findPfx (k : BitVec 4) : List (BitVec 4 × BitVec 32) → Option (BitVec 32)
  | [] => none
  | (k', a) :: r => if k' = k then some a else findPfx k r

/-- CanModify of R81 for the word that follows the prefixes, by prefix kind. A ROUTE or REP before an unassigned OP is
judged by OP[6:4] (R81). -/
def canModify (k : BitVec 4) (w0 : BitVec 32) : Bool :=
  let cls := (bits w0 6 3).toNat
  match k.toNat with
  | 0 => match opOfWord w0 with | some (_, o) => canModMod o | none => false
  | 1 => cls ≤ 6
  | 2 => cls == 0 || cls == 1 || cls == 3 || cls == 4
  | 3 => match opOfWord w0 with | some (fm, o) => canModInv fm o | none => false
  | 4 => match opOfWord w0 with | some (_, o) => canModGuard o | none => false
  | _ => false

/-- The first prefix of the chain that cannot modify the word, in ascending offset (R81). -/
def firstOrphan (w0 : BitVec 32) : List (BitVec 4 × BitVec 32) → Option (BitVec 32)
  | [] => none
  | (k, a) :: r => if canModify k w0 then firstOrphan w0 r else some a

/-- GUARD can modify no store but `st.scr.b128` (R79, and the opcode map's mark): before another it is orphaned (R80). The
first word does not show which store it is, so this is found once the whole word is read. -/
def guardOrphan (i : Instr) (chain : List (BitVec 4 × BitVec 32)) : Option (BitVec 32) :=
  match i.core with
  | some (_, .st, f) => if f.v == 2 && f.ty == .b128 then none else findPfx 4 chain
  | _ => none

/-- Add a decoded prefix to the unit's prefixes. -/
def Pfx.add (p : Pfx) : PfxWord → Pfx
  | .mod m => { p with mod := some m }
  | .route r => { p with route := some r }
  | .rep r => { p with rep := some r }
  | .inv i => { p with inv := some i }
  | .guard g => { p with guard := some g }

/-- DecodeUnit of R81, over a function that reads the text's words (zero outside the text), from offset `a`, with `chain`
the prefixes seen so far in ascending offset. At most six prefix words are read before a kind repeats, so `fuel` six
suffices. -/
def decodeUnitFrom (rd : BitVec 32 → BitVec 32) (textEnd : Nat) : Nat → BitVec 32 → List (BitVec 4 × BitVec 32) → Pfx →
    Except UnitError DUnit
  | 0, a, _, _ => .error ⟨0x0012, a⟩
  | fuel + 1, a, chain, p =>
    let w0 := rd a
    if wordLs w0 = 2 then
      if 5 ≤ (pfxKind w0).toNat then .error ⟨0x0011, a⟩
      else
        match decodePfx w0 with
        | none => .error ⟨0x0010, a⟩
        | some pw =>
          match findPfx (pfxKind w0) chain with
          | some a' => .error ⟨0x0012, a'⟩
          | none =>
            if textEnd ≤ a.toNat + 4 then .error ⟨0x0012, a⟩
            else decodeUnitFrom rd textEnd fuel (a + 4) (chain ++ [(pfxKind w0, a)]) (p.add pw)
    else if wordLen w0 = 8 && a.toNat % 64 == 60 then .error ⟨0x0010, a⟩
    else
      match firstOrphan w0 chain with
      | some a' => .error ⟨0x0012, a'⟩
      | none =>
        match decodeWords w0 (rd (a + 4)) with
        | .error _ => .error ⟨0x0010, a⟩
        | .ok i =>
          match guardOrphan i chain with
          | some a' => .error ⟨0x0012, a'⟩
          | none =>
            if pfxOk i p then .ok ⟨i, a, a + BitVec.ofNat 32 (wordLen w0), p⟩ else .error ⟨0x0010, a⟩

/-- DecodeUnit of R81. -/
def decodeUnit (rd : BitVec 32 → BitVec 32) (textEnd : Nat) (pc : BitVec 32) : Except UnitError DUnit :=
  decodeUnitFrom rd textEnd 6 pc [] {}

/-- The marks of a word (R84): tail, shadow. A block is decoded from its first word; `k` words of it remain before the
target, `a` is the offset of the word now decoded, `shadow` whether the decoded word before it was a prefix. -/
def marksFrom (rd : BitVec 32 → BitVec 32) (target : Nat) : Nat → Nat → Bool → Bool × Bool
  | 0, _, _ => (false, false)
  | k + 1, a, sh =>
    if a = target then (false, sh)
    else
      let w0 := rd (BitVec.ofNat 32 a)
      let isP := wordLs w0 = 2
      if wordLen w0 = 8 && a % 64 != 60 then
        if a + 4 = target then (true, false) else marksFrom rd target k (a + 8) isP
      else marksFrom rd target k (a + 4) isP

/-- Tail and shadow of the word at a 4-byte-aligned text offset (R84). The first word of a block takes its shadow from the
last word of the block before it, when that is a decoded prefix and not a tail. -/
def wordMarks (rd : BitVec 32 → BitVec 32) (target : BitVec 32) : Bool × Bool :=
  let t := target.toNat
  if t % 64 = 0 then
    if t = 0 then (false, false)
    else
      let last := t - 4
      let m := marksFrom rd last 17 (last - last % 64) false
      (false, !m.1 && wordLs (rd (BitVec.ofNat 32 last)) = 2)
  else marksFrom rd t 17 (t - t % 64) false

/-- Is a word `land` (R85)? -/
def isLand (w : BitVec 32) : Bool := w == 0x000001CC

end Sys2Proof
end

