-- ==== Sys2Proof/Machine/State.lean ====
section
/-!
DEFINITION. The state of one NZ12 module, as plain data: everything the spec gives the machine (INVENTORY.md, State), and the
model's own fields, which are marked. Reset values that the spec does not give are named in the assumption log.
-/

namespace Sys2Proof.Machine

/-- Memory: address and byte pairs in canonical form. An unlisted byte reads zero (DESIGN CHOICE, log 1). -/
abbrev Memory := List Host.Cell

/-- A table by number; a number not listed holds the default that its reader names. -/
abbrev Tab (α : Type) := List (Nat × α)

/-- A bracket register (R48): state 00 unvalued, 01 valued, 10 converged, 11 unconverged, and four ordinals. -/
structure Bracket where
  st : BitVec 2
  fhi : Word
  flo : Word
  hi : Word
  lo : Word
  deriving DecidableEq, Repr

/-- Where a translated access goes: a physical address (R297), team memory of a team's even or odd core (R19), a semaphore by
4,096 die + number or a pigeonhole of a launch, or a peer module's window with the token that names it (R302). -/
inductive Place where
  | phys (pa : Nat)
  | team (tuid half off : Nat)
  | sync (n : Nat)
  | hole (lid n : Nat)
  | peer (module : Nat) (idx : Nat) (token : Dword) (off : Nat)
  deriving DecidableEq, Repr

/-- What a pending access does when it is performed (R313): a plain or acquire load into registers from `d`, a store, a
read-modify-write, a monitor arm; a semaphore increment or a posted item that waits for its release (R35, R350). -/
inductive AccOp where
  | load (d : Nat) (ty : Ty)
  | store (bytes : List Byte)
  | atom (d : Nat) (v : BitVec 3) (ty : Ty) (b : Dword)
  | cas (d : Nat) (ty : Ty) (old new : Dword)
  | arm
  | sig (inc : Word)
  | item (x : Dword)
  deriving DecidableEq, Repr

/-- A trap as it is raised in a thread: R439's code and trapinfo, and the fields of the record entry (R441). -/
structure TrapInfo where
  cause : BitVec 16
  info : Dword
  reason : BitVec 8 := 0
  flags : BitVec 8 := 0
  word : Word := 0
  address : Dword := 0
  detailA : Dword := 0
  detailB : Dword := 0
  deriving DecidableEq, Repr

/-- A pending access named through the module: group, %tid, and the thread's number of it. -/
structure AccRef where
  gid : Nat
  tid : Nat
  seq : Nat
  deriving DecidableEq, Repr

/-- What a peer access's one response brought (R343, R391): a performed access's registers, an arm's pair and sequence number, or its
rejection. -/
inductive Reply where
  | got (ws : List Word)
  | armed (pair : Nat) (seq : Word)
  | rejected (e : TrapInfo)
  deriving DecidableEq, Repr

/-- An access of a thread that is issued and not performed (R309, R313). `waits` are the accesses that must be
performed before it; `trick` names the issue whose accesses to one location stand together (R341); `guard` is an undecided
GUARD of a copy start; `rel` is a release's scope (R314); `queued` says that a peer access has been sent (R391), `reply` what its
response brought while others of its unit are awaited (R347), `late` that its thread had parked with it (R57), `woken` that the word which
wakes a peer arm came before the arm's unit was complete (R348). -/
structure Access where
  seq : Nat
  trick : Nat
  place : Place
  va : Dword
  size : Nat
  op : AccOp
  waits : List AccRef
  guard : Option GuardP
  rel : Option Nat
  queued : Bool
  reply : Option Reply
  late : Bool := false
  woken : Bool := false
  deriving DecidableEq, Repr

/-- An ordering operation of a thread that holds later accesses (R314, R317): later accesses whose location lies in the reach
wait for `before`, accesses of the thread or, at a join or a barrier, of the threads released with it. `die` is the die on which it
was issued, whose locations a die's reach names also after a migration (R337). -/
structure Hold where
  reach : Nat
  die : Nat
  before : List AccRef
  deriving DecidableEq, Repr

/-- The unit that a core is issuing: who issues it, the decoded unit's offsets, its prefixes, and the repetition number of a
REP unit (R78, R179). `trick` lists, for each group represented in ascending base lane, its threads in ascending %tid. In a replay
`only` names the threads that replay; the others of the trick supply their operands and have gone on (R306). -/
structure Issue where
  core : Nat
  lid : Nat
  upc : Word
  ipc : Word
  npc : Word
  pfx : Pfx
  rep : Nat
  id : Nat
  trick : List (Nat × List Nat)
  only : Option (List (Nat × Nat)) := none
  deriving DecidableEq, Repr

/-- A unit that reads memory for an engine or a vector operation, parked as a whole (R306): the issue, the operation and fields, and
its operands as its group held them: scalar registers, guard slots, constant window, and each thread's vector registers and
predicates. -/
structure Replay where
  issue : Issue
  o : Op
  f : Fields
  s : List Dword
  g : List (BitVec 2)
  window : BitVec 9
  v : List (List Word)
  p : List (BitVec 8)
  deriving DecidableEq, Repr

/-- What a blocked thread waits for (R15); a `pop`, a `collect` and a `post` with their issue (R57, R354). -/
inductive Wait where
  | pop (ch d trick : Nat)
  | push (ch : Nat) (w : Word)
  | collect (hole d p trick : Nat)
  | post (hole : Nat) (item : Dword) (trick : Nat)
  | amsend (m : Msg) (module : Nat)
  | sem (n : Nat) (th : Word)
  | mwait
  | bar (n : Nat)
  | tret
  deriving DecidableEq, Repr

/-- A memory request of a thread as its unit formed it (R339, R347): the space, the address, what it does, its order code (0
relaxed, 1 acquire, 2 release, 3 both), its scope, an undecided GUARD. A parked request replays with the same operands
(R306); `unit` holds those of a unit that replays as a whole. `guarded` says that a store carried a GUARD prefix, `drop` that it was
decided false (R79, R178), `late` that its thread has parked with it (R57). -/
structure MemReq where
  space : Nat
  va : Dword
  size : Nat
  op : AccOp
  order : Nat
  scope : Nat
  guard : Option GuardP
  trick : Nat
  unit : Option Replay := none
  guarded : Bool := false
  drop : Bool := false
  late : Bool := false
  deriving DecidableEq, Repr

/-- A thread's state of R15; `npc` is where it goes on. `storeFull` waits for an entry of its store-buffer share (R342). `halted` is its group's (R440, R451). `access` waits for its own access to be performed, `mq` for
matrix commands, `held` for the accesses of its group's threads that must be performed before its unit can execute, which it then does
anew or, when it replays, with the operands of `again`. -/
inductive Status where
  | ready
  | access (seq : Nat) (npc : Word)
  | storeFull (req : MemReq) (npc : Word)
  | matrix (cids : List Nat) (npc : Word)
  | held (ops : List AccRef) (again : Option MemReq)
  | join (adr : Word) (mask : Dword) (npc : Word)
  | blocked (w : Wait) (npc : Word)
  | parked (page : Nat) (req : MemReq) (npc : Word)
  | exited
  deriving DecidableEq, Repr

/-- The phase of a bisection (R237): evaluating f(lo), f(hi) or f(mid). -/
inductive InvPhase where
  | endLo | endHi | mid
  deriving DecidableEq, Repr

/-- An evaluation in progress (R237 to R241): the issue it came from, the unit, its INV prefix and fields, y's ordinal, the argument
at the unit's start, the phase, the ordinal under trial, f(lo) when it is known, the routine instructions executed, and whether
its `ret` has been reached. -/
structure InvEval where
  id : Nat
  upc : Word
  ipc : Word
  npc : Word
  pfx : InvP
  d : Nat
  a : Nat
  b : Src
  start : Word
  y : Int
  arg0 : Word
  lo : Int
  hi : Int
  trial : Int
  flo : Int
  phase : InvPhase
  count : Nat
  done : Bool
  deriving DecidableEq, Repr

/-- A thread's monitor (R318, R348): the armed 8 bytes, whether a store has been performed at them since, and for a peer arm its
pair and sequence number. -/
structure Monitor where
  place : Place
  hit : Bool
  remote : Option (Nat × Word)
  deriving DecidableEq, Repr

/-- Who armed an entry of a bank's monitor table: a thread of this module, or a peer's request (R318, R348). -/
inductive Armed where
  | thread (gid tid : Nat)
  | peer (module die : Nat) (seq : Word) (pa : Nat)
  deriving DecidableEq, Repr

/-- An entry of a bank's monitor table. -/
structure MonEntry where
  bank : Nat
  who : Armed
  deriving DecidableEq, Repr

/-- A thread's context (R12 to R15). `region` is the idempotent region that it is in and its return-stack depth when it entered it
(R446); `valued` are the brackets that a stopped or abandoned bisection left valued, each with its unit and whether a handler's thread
ran it (R240). `pendV` are registers that wait for the thread's own
results, `pendT` those that wait, with their trick, for the results of its group's threads there (R57); predicate n stands among them as
256 + n. -/
structure Thread where
  lane : Nat
  pc : Word
  v : List Word
  p : BitVec 8
  b : List Bracket
  ret : List Word
  repctr : Nat
  lfsr : Word
  ops : List Access
  seq : Nat
  unacked : Nat
  holds : List Hold
  tag : Nat
  spinAdr : Word
  spin : Nat
  forced : Option Nat
  stamp : Nat
  lastIssue : Nat
  yieldUntil : Option Nat
  monitor : Option Monitor
  status : Status
  pendV : List Nat
  pendT : List (Nat × Nat)
  inv : Option InvEval
  valued : List (Word × Nat × Bool)
  region : Option (Word × Nat)
  stack : Memory
  inHandler : Bool
  held : Bool
  freed : Bool
  deriving DecidableEq, Repr

/-- One trapped thread of a trap: %tid, restart offset, and its record's fields. -/
structure Trapped where
  tid : Nat
  restart : Word
  data : TrapInfo
  deriving DecidableEq, Repr

/-- A trap of a group: code, trapinfo and the trapped threads (R440). -/
structure GroupTrap where
  cause : BitVec 16
  info : Dword
  threads : List Trapped
  deriving DecidableEq, Repr

/-- A group (R16, R17, R45, R182). `pages` are its stack pages with the scratchpad frames that hold them (R295), `asid` the address space
through which its stores went, some of which its launch does not outlive (R33, R308), `haltRecord` the code of the `trap.brk` that halted it and the
restart offsets of the threads that executed it (R453). -/
structure Group where
  gid : Nat
  tuid : Nat
  lid : Nat
  asid : Nat
  number : Nat
  team : Word
  width : Nat
  base : Nat
  ctx : Nat
  regBase : Nat
  nregs : Nat
  die : Nat
  core : Nat
  s : List Dword
  g : List (BitVec 2)
  window : BitVec 9
  trapbase : Word
  trapcause : Word
  trapepc : Word
  epcWritten : Bool
  trapinfo : Dword
  trapmask : Dword
  handler : Bool
  attached : Bool
  halting : Bool
  halted : Bool
  stepping : List (List Nat)
  haltRecord : Option (BitVec 16 × List (Nat × Word))
  heldTraps : List GroupTrap
  entering : Option GroupTrap
  entryId : Nat
  pages : List (Nat × Nat)
  isHandler : Bool
  retired : Bool
  threads : List Thread
  deriving DecidableEq, Repr

/-- An element of the matrix engine's cell array (R250). -/
structure Cell where
  val : BitVec 96
  nan : Bool
  ps : Bool
  ns : Bool
  inexact : Bool
  deriving DecidableEq, Repr

/-- An operand slot (R249): its data, and its record in its holder's view (R253). -/
structure Slot where
  rows : List (List Byte)
  scales : List (List Byte)
  sums : List Int
  ts : Word
  fmt : BitVec 8
  block : BitVec 2
  bscale : BitVec 2
  nrows : Nat
  filled : Bool
  holder : Option Nat
  deriving DecidableEq, Repr

/-- An accumulator tile (R250): its cells by 64 i + j, and its record in its holder's view. -/
structure Tile where
  cells : Tab Cell
  tsB : Word
  tsA : Word
  anchor : Int
  aslot : Nat
  tsset : Bool
  mode : BitVec 2
  n : Nat
  holder : Option Nat
  deriving DecidableEq, Repr

/-- The operand pair of a pass (R274, R277). -/
inductive PassKind where
  | int (sat : Bool)
  | float (fz : Bool)
  | cplx (conj sat : Bool)
  deriving DecidableEq, Repr

/-- One part of a cell (R279). -/
inductive CellPart where
  | lo | mid | hi | flg
  deriving DecidableEq, Repr

/-- How a drain converts (R281, R282): destination type, and the slot's format when it is fmtN; mode and policy; FZ; the per-column table of `cm`; the requantising
form's shift, zero point and multipliers; the owning threads' generators as they stood when the drain was decided (R209); and the tile's
N at issue. -/
structure DrainSpec where
  ty : Ty
  fmt : BitVec 8
  mode : BitVec 3
  policy : BitVec 8
  fz : Bool
  rq : Bool
  table : List (Word × Word)
  shift : Nat
  zo : Int
  mult : List Int
  seeds : List (Nat × Word)
  cols : Nat
  deriving DecidableEq, Repr

/-- What a matrix command does (15, 16). Data read from memory or registers is read at issue. -/
inductive MatOp where
  | claimTile (t n : Nat)
  | claimSlot (o : Nat)
  | release (h : Nat)
  | clear (t : Nat) (mode : BitVec 2) (anchor : Int) (aslot : Nat)
  | oload (o : Nat) (rows scales : List (List Byte)) (ts : Word) (fmt : BitVec 8) (block bscale : BitVec 2)
  | pass (k : PassKind) (t a b : Nat)
  | zpc (t a : Nat) (zp : Int)
  | aload (t : Nat) (rows : List (Nat × List Cell))
  | aread (t : Nat) (part : CellPart) (cols : List (Nat × Nat)) (d : Nat)
  | awrite (t : Nat) (part : CellPart) (vals : List (Nat × Nat × Word))
  | drain (t d : Nat) (spec : DrainSpec)
  deriving DecidableEq, Repr

/-- A matrix command in flight (R246, R256, R259): its group and the issue it came from, the threads whose rows it touches, the
handles it names (R267 codes), an undecided guard, and its reservation-table state: when it entered, its priority and the levels
it has risen, and its place in the order of grants. -/
structure MatCmd where
  cid : Nat
  gid : Nat
  id : Nat
  op : MatOp
  tids : List Nat
  handles : List Nat
  guard : Option GuardP
  entered : Nat
  prio : Nat
  rises : Nat
  granted : Option Nat
  deriving DecidableEq, Repr

/-- A quad's matrix engine (R249 to R256). -/
structure Quad where
  slots : Tab Slot
  tiles : Tab Tile
  cmds : List MatCmd
  deriving DecidableEq, Repr

/-- Where a copy stands (R365, R373): queued; begun, its payload not yet written; payload under way or done, with a status; record done;
postmark done. -/
inductive CopyPhase where
  | queued
  | reading
  | payload (status : BitVec 8)
  | record (status : BitVec 8)
  | mark (status : BitVec 8)
  deriving DecidableEq, Repr

/-- A peer request of an engine, formed and not yet sent: its module, token, window offset, length and what it does (R372, R398). -/
structure PeerAsk where
  module : Nat
  token : Dword
  off : Nat
  len : Nat
  op : PeerOp
  deriving DecidableEq, Repr

/-- A copy of a channel (R291, R364, R365). `image` is its template as it was when the copy began (R366). `got` are the source bytes that
peers have returned, by virtual address, and `ask` the source read that is out; `toSend` are its peer writes not yet sent, `outstanding`
those not yet acknowledged (R373). -/
structure Copy where
  cid : Nat
  lid : Nat
  tuid : Nat
  asid : Nat
  template : Nat
  flags : BitVec 16
  srcOff : Word
  dstOff : Word
  guard : Option GuardP
  gid : Nat
  number : Option (BitVec 48)
  image : List Byte
  squashed : Bool
  phase : CopyPhase
  crc : Word
  count : Nat
  got : List (Nat × List Byte)
  ask : Option (Nat × Nat)
  toSend : List PeerAsk
  outstanding : Nat
  deriving DecidableEq, Repr

/-- A copy channel (R362, R365). -/
structure Channel where
  owner : Option Nat
  seqno : BitVec 48
  queue : List Copy
  deriving DecidableEq, Repr

/-- A chute of a core (R356). -/
abbrev Chute := List (List Word)

/-- The dealer slot of a core (R376 to R382). `asked`: the peer read of its micro-operation that is out, its address and the number of that ask; `got`: what
such reads have returned, by address. -/
structure Dealer where
  running : Bool
  lid : Nat
  tuid : Nat
  base : Nat
  idx : Nat
  d : List Dword
  e : List (List Word)
  d0 : Dword
  d1 : Dword
  reason : BitVec 8
  asked : Option (Nat × Nat)
  got : List (Nat × List Byte)
  deriving DecidableEq, Repr

/-- A parked page of a core's fault buffer (R305): address space, page, the access it needs. -/
structure FaultEntry where
  asid : Nat
  page : Nat
  write : Bool
  stackOf : Option Nat
  deriving DecidableEq, Repr

/-- A core (R21, R22, R45, R51, R305, R376). -/
structure Core where
  cycles : Nat
  budget : Nat
  configured : Nat
  faults : List FaultEntry
  chutes : List Chute
  owner : Option Nat
  failed : Bool
  dealer : Dealer
  deriving DecidableEq, Repr

/-- A doorbell word registered with a die's proxy (R402): its physical address, root port, bus address and function; not `live` once
its function has failed (R414). -/
structure Doorbell where
  pa : Nat
  port : Nat
  bus : Dword
  rid : Nat
  live : Bool
  deriving DecidableEq, Repr

/-- A compute die's own units (R42, R310, R349, R362, R375, R402, R460, R463). -/
structure Die where
  channels : Tab Channel
  messages : List Msg
  messageErrors : Nat
  corrected : Nat
  semOverflow : Nat
  drainLimit : Nat
  proxy : List Doorbell
  wear : Nat
  samples : List Nat
  stopped : Bool
  deriving DecidableEq, Repr

/-- A pigeonhole (R34): destination team or any, log2 capacity, items oldest first; undeclared holes hold nothing. -/
structure Hole where
  declared : Bool
  dest : Word
  cap : Nat
  items : List Dword
  deriving DecidableEq, Repr

/-- A launch record (R130), and the handler, pigeonhole, routine and region tables it names (R131). -/
structure Kernel where
  width : Nat
  regs : Nat
  groups : Nat
  energy : Nat
  paired : Bool
  teams : Nat
  teamSize : Nat
  textBase : Nat
  textSize : Nat
  entry : Word
  constBase : Nat
  constCount : Nat
  imageSize : Nat
  imageBase : Nat
  templateBase : Nat
  templateCount : Nat
  handlers : List (Word × Nat × Nat × Bool × Nat)
  holes : List Hole
  routines : List (Word × Nat × Nat)
  regions : List (Word × Word)
  landing : List Word
  slots : List (BitVec 128)
  deriving DecidableEq, Repr

/-- A launch (R20, R33, R34, R429). -/
structure Launch where
  lid : Nat
  run : Nat
  node : Nat
  kernel : Kernel
  home : Nat
  asid : Nat
  dies : BitVec 16
  mask : BitVec 16
  prio : Nat
  order : Nat
  nextTeam : Nat
  waitSince : Nat
  pressing : Bool
  holes : List Hole
  /-- frames of the home die's scratchpad that hold its pigeonholes (R34) -/
  holeFrames : List Nat
  lastPost : Bool
  failed : Bool
  deriving DecidableEq, Repr

/-- Where a team is (R445 to R449). -/
inductive TeamState where
  | resident
  | stopping
  | saved
  | discarded
  deriving DecidableEq, Repr

/-- A team (R18, R19). `drainBy`: while it stops, when its drain limit expires (R375); while it is away, the quantum boundary from which
it may go to another die (R449). Team memory of the even core and, when paired, of core 2k + 1. Saved slots, tiles and matrix commands
are kept with a team saved whole (R448); `copies` are its saved copies with their channel (R375); `dealers` the starts of the
dealers it ran, by half of the team (R382), and `area` the frames of its save area (R448). -/
structure Team where
  tuid : Nat
  lid : Nat
  number : Word
  die : Nat
  core : Nat
  paired : Bool
  size : Nat
  mem : Memory
  mem2 : Memory
  isHandler : Bool
  state : TeamState
  drainBy : Option Nat
  slots : Tab Slot
  tiles : Tab Tile
  cmds : List MatCmd
  copies : List (Nat × Nat × Copy)
  dealers : List (Nat × Dealer)
  area : List Nat
  deriving DecidableEq, Repr

/-- A range of an address space's layout (R465). -/
structure Range where
  lo : Nat
  hi : Nat
  kind : BitVec 3
  r : Bool
  w : Bool
  deriving DecidableEq, Repr

/-- An address space (R300, R465). -/
structure Space where
  asid : Nat
  root : Nat
  tokens : Tab Dword
  layout : List Range
  deriving DecidableEq, Repr

/-- A request of this module that waits for its response (R391): who waits for it. -/
inductive Waiter where
  | thread (gid tid seq : Nat)
  | copy (die chan cid : Nat)
  | dealer (core ask : Nat)
  | message (m : Msg)
  deriving DecidableEq, Repr

/-- A request out, with its sends, the time of the last, and the request itself as every send carries it (R391, R392). -/
structure OutReq where
  seq : Word
  sends : Nat
  last : Nat
  waiter : Waiter
  req : PeerRequest
  deriving DecidableEq, Repr

/-- A message accepted for sending and not yet whole at its target: target module, sending thread, message (R355). -/
structure Outgoing where
  module : Nat
  gid : Nat
  tid : Nat
  m : Msg
  deriving DecidableEq, Repr

/-- The sending side of one die and peer (R391, R393). -/
structure Pair where
  next : Word
  out : List OutReq
  failed : Bool
  deriving DecidableEq, Repr

/-- The target side of one source pair (R392). -/
structure TargetPair where
  done : Word
  kept : List (Word × PeerResponse)
  held : List PeerRequest
  deriving DecidableEq, Repr

/-- What a data flit carries (R386, R391): a request, a response to a die of the peer, or the body of a flit that this module relays
(R390); control flits carry nothing. -/
inductive FlitBody where
  | relayed (bytes : List Byte)
  | request (r : PeerRequest)
  | response (die : Nat) (seq : Word) (r : PeerResponse)
  | control
  deriving DecidableEq, Repr

/-- A flit as it left a port (R386, R388): the fields of its link header, its body, its nonce and the shared secret of the training whose key seals
it. -/
structure Flit where
  seq : BitVec 12
  ack : BitVec 12
  kind : BitVec 4
  body : FlitBody
  nonce : BitVec 96
  secret : Nat
  deriving DecidableEq, Repr

/-- A data flit in a port's replay buffer, with the time of its first send (R387) and the module that it is for. -/
structure SentFlit where
  seq : BitVec 12
  body : FlitBody
  first : Nat
  dest : Nat
  deriving DecidableEq, Repr

/-- A fabric port (R384 to R389): the shared secret that its training agreed, the key generation and flit count of its sending side, the sequence
numbers that it sends and expects next, the partner's generation and the flits of it that have come, the flits not yet acknowledged, the times of
tag failures. -/
structure Port where
  trained : Bool
  secret : Nat
  gen : BitVec 16
  count : Nat
  txSeq : BitVec 12
  rxSeq : BitVec 12
  rxGen : BitVec 16
  rxCount : Nat
  replay : List SentFlit
  tagFails : List Nat
  retrain : Bool
  deriving DecidableEq, Repr

/-- A device function below a root port (R408 to R416); a virtual one names its physical function. -/
structure Func where
  rid : Nat
  port : Nat
  cls : Nat
  pf : Option Nat
  enabled : Bool
  ats : Bool
  pasids : List (Nat × Nat)
  dflt : Option Nat
  groups : List (Nat × Nat)
  failed : Bool
  deriving DecidableEq, Repr

/-- A device queue pair (R412): function, record address and its space, semaphore and die; its doorbell words, and the pages of its rings: their first
and how many. -/
structure QueuePair where
  run : Nat
  rid : Nat
  asid : Nat
  qrecord : Dword
  sem : Nat
  die : Nat
  bells : List Nat
  page : Nat
  pages : Nat
  deriving DecidableEq, Repr

/-- Who has a page of an address space pinned: an ingest ring, a run's queue pair, a window (R396, R412, R419). -/
inductive PinOwner where
  | ring (n : Nat)
  | pair (run : Nat)
  | window (n : Nat)
  deriving DecidableEq, Repr
structure Pin where
  asid : Nat
  page : Nat
  owner : PinOwner
  deriving DecidableEq, Repr

/-- A change of a valid table entry that is not complete (R308, R405, R416): the space, level and address, the new entry, the functions whose answers
to the ATS Invalidate Request it awaits, since when, and the frame that is free with it. -/
structure Shootdown where
  asid : Nat
  level : Nat
  va : Dword
  e : Dword
  awaiting : List Nat
  since : Nat
  frame : Option Nat
  deriving DecidableEq, Repr

/-- A placed expansion range (R410). -/
structure Expansion where
  base : Nat
  size : Nat
  rid : Nat
  present : Bool
  deriving DecidableEq, Repr

/-- What the tree answers a function or a bridge partner: a translation with its page, size, R and W; a PRG response with its group
and code; the completion of a request with its bytes, or Unsupported Request, or poisoned (R405, R411, R415, R416); a write to the partner of a
bridge port, at an offset of its windows (R411); the word that wakes a
peer's arm (R348); what a debugger read (R451); an ATS Invalidate Request for the pages at an address (R405); this end's share in a port's training
(R388). -/
inductive Answer where
  | translation (rid : Nat) (page size : Nat) (r w : Bool)
  | prg (rid grp : Nat) (success : Bool)
  | data (rid : Nat) (bytes : List Byte) (poisoned : Bool)
  | unsupported (rid : Nat)
  | bridge (port : Nat) (bytes : Option (List Byte)) (poisoned : Bool)
  | bridgeWrite (port off : Nat) (bytes : List Byte)
  | peerWake (module die : Nat) (seq : Word)
  | debug (gid : Nat) (value : Dword)
  | invalidate (rid asid : Nat) (va : Dword) (size : Nat)
  | share (port : Nat) (bytes : List Byte)
  deriving DecidableEq, Repr

/-- An ingest ring (R419, R420): its record, producer count, drops, pause and fault state, and where its engine stands: the
slot is written; the producer word is written. -/
structure Ring where
  image : BitVec 256
  p : Nat
  drops : Nat
  paused : Bool
  fault : Bool
  stage : Nat
  lastC : Nat
  deriving DecidableEq, Repr

/-- A letter (R425): kind, sequence and body. -/
structure Letter where
  kind : Nat
  seq : Word
  body : List Byte
  deriving DecidableEq, Repr

/-- A command that waits on a software queue (R426): its 64 bytes, the bytes that follow it, and the session that carried it (R427); and why it has
failed, when the load that it waits for has (R138). -/
structure Command where
  bytes : List Byte
  object : List Byte
  session : Nat
  failed : Option Nat
  deriving DecidableEq, Repr

/-- A software queue (R426, R428, R431 to R433); `waits`: its head is an unload that has not taken effect. -/
structure SwQueue where
  opened : Bool
  base : Nat
  eff : Nat
  lastEnd : Option Nat
  waitFrom : Nat
  heldFrom : Nat
  cmds : List Command
  running : Option Nat
  waits : Bool
  deriving DecidableEq, Repr

/-- A node of a graph (R132). -/
structure Node where
  id : Nat
  preds : Nat
  succs : List Nat
  kernel : Nat
  deriving DecidableEq, Repr

/-- A load that has begun (R138): the queue whose head it is, and the handle that its object is to have. -/
structure Loading where
  queue : Nat
  handle : Nat
  deriving DecidableEq, Repr

/-- A resident object (R137, R138), with the scratchpad frames that hold it and the loaded pages that they stand for. -/
structure Obj where
  handle : Nat
  ident : List Byte
  home : Nat
  kernels : List Kernel
  graphs : List (List Node)
  frames : List Nat
  pages : List Nat
  unloading : Bool
  deriving DecidableEq, Repr

/-- A run instance (R429, R430). -/
structure Run where
  inst : Nat
  queue : Nat
  handle : Nat
  graph : Nat
  cmd : List Byte
  session : Nat
  counts : List (Nat × Nat)
  launched : List Nat
  finished : List Nat
  failed : Bool
  firstFail : Nat
  begun : Bool
  deriving DecidableEq, Repr

/-- A collective started by a group (R358, R359): its descriptor, the group's accesses pending at its start, of which the stores come before
the reading of its source and those to its buffers before its completion (R323); `parked`, the threads and issues of accesses that stood at
their units then; and whether a page of its buffers has been refused. -/
structure Collective where
  uid : Nat
  gid : Nat
  lid : Nat
  die : Nat
  asid : Nat
  header : List Byte
  before : List AccRef
  parked : List (Nat × Nat)
  stopped : Bool
  deriving DecidableEq, Repr

/-- A clock plan as the flash holds it (R458). -/
structure Plan where
  f : Nat
  g : Nat
  bands : List (Nat × Nat)
  wellFormed : Bool
  deriving DecidableEq, Repr

/-- Boot, clocks, power and health (27). `shown` are the codes that the boot-status pins have shown since power came, the last one last; `firmware`
the system cores' images, loaded, and `drivers` whether the image has drivers (R454, R455); `keyDraw` names the draw of the token keys (R395). -/
structure Boot where
  /-- `none` while no image has raised the count that the fuses held at manufacture -/
  rollback : Option Nat
  pins : BitVec 4
  shown : List (BitVec 4)
  reason : BitVec 4
  blinking : Bool
  booted : Bool
  imageHash : List Byte
  firmware : List (List Byte)
  drivers : Bool
  keyDraw : Nat
  hbm : BitVec 24
  keys : List (List Byte)
  n : Nat
  position : Nat
  rootPorts : List Byte
  plans : List Plan
  plan : Nat
  selected : Option Nat
  fMHz : Nat
  gMHz : Nat
  watts : List Nat
  lowPower : Bool
  calmMs : Nat
  deriving DecidableEq, Repr

/-- The module. -/
structure State where
  /-- physical memory by the map of R297: scratchpads, far memory, expansion memory -/
  mem : Memory
  /-- system-die SRAM by offset (R297) -/
  sram : Memory
  /-- words with uncorrectable check bits (R310), by address divided by four -/
  badWords : List Nat
  /-- words with one flipped bit, corrected as they are read (R310) -/
  softWords : List Nat
  /-- the same of team memory: team, half, word -/
  teamBad : List (Nat × Nat × Nat)
  teamSoft : List (Nat × Nat × Nat)
  groups : List Group
  teams : List Team
  launches : List Launch
  cores : Tab Core
  quads : Tab Quad
  dies : Tab Die
  /-- semaphores by 4,096 die + number (R45) -/
  sems : Tab Word
  spaces : List Space
  frames : List Nat
  /-- the pages of resident objects: loaded page number, leaf entry (R137, R304) -/
  pinned : Tab Dword
  /-- pages that rings, queue pairs and windows hold pinned -/
  pins : List Pin
  /-- table changes that are not complete -/
  shootdowns : List Shootdown
  nextTable : Nat
  windows : Tab (BitVec 128)
  tokenClock : Nat
  ports : Tab Port
  /-- flits that have left, by port, oldest first -/
  flitsOut : List (Nat × Flit)
  /-- flits of a die to a peer that wait for a port with room (R387) -/
  fabricWait : List (Nat × Nat × FlitBody)
  /-- flits that a second relay would have had to forward (R390) -/
  relayDrops : Nat
  /-- requests and responses that have come in flits and are not yet performed (R386) -/
  arrived : List PeerRequest
  answered : List (Nat × Nat × Word × PeerResponse)
  /-- the resend time of requests, in nanoseconds (R391) -/
  resendAfter : Nat
  pairs : Tab Pair
  targets : Tab TargetPair
  credits : Tab Nat
  detours : Tab Nat
  monitors : List MonEntry
  messagesOut : List Outgoing
  funcs : List Func
  queuePairs : List QueuePair
  expansion : List Expansion
  bridges : Tab (List BridgeWindow)
  bridgeErrors : Nat
  posted : List (Nat × Dword × Word)
  answers : List Answer
  rings : Tab Ring
  portDrops : Tab Nat
  pauseFrames : List (Nat × Nat × Nat)
  filter : List (BitVec 272)
  armed : Bool
  heldFrame : Option (Nat × List Byte)
  running : BitVec 8
  letters : Tab (List Letter)
  letterSeq : Tab Word
  refused : Tab (BitVec 8)
  irqs : BitVec 8
  queues : Tab SwQueue
  slotsOf : Tab (Nat × Nat)
  objects : List Obj
  /-- loads under way -/
  loads : List Loading
  runs : List Run
  collectives : List Collective
  /-- completions by the transport session that each goes to (R427) -/
  completions : List (Nat × List Byte)
  reports : List (List Byte)
  boot : Boot
  /-- nanoseconds of the system die since reset -/
  now : Nat
  /-- model's own: the unit being issued, the REP units that other cores are in the middle of, the outside's occurrences, free-value counters, fresh names (DESIGN CHOICE, log 3) -/
  issue : Issue
  reps : List Issue
  inputs : List Instr
  choices : Nat
  frees : Nat
  fresh : Nat
  deriving DecidableEq, Repr

/-- Why the machine stops. -/
inductive Fault where
  /-- Raised by `step` alone: the module is without power (R454), nothing is under way and no occurrence of the outside waits, so nothing
  can happen any more. Safe: a module without power does nothing. -/
  | noPower
  deriving DecidableEq, Repr

/-- Why a meaning gives no next state. -/
inductive Refusal where
  /-- an arm of `exec` that has no meaning yet. Safe. -/
  | notModelled (mnemonic : String)
  deriving DecidableEq, Repr

/-- An idle dealer (R377). -/
def Dealer.idle : Dealer := ⟨false, 0, 0, 0, 0, List.replicate 8 0, List.replicate 8 (List.replicate 64 0), 0, 0, 0, none, []⟩

/-- A core at reset: cycle counter zero (R51), default budget 256 (R22) (DESIGN CHOICE, log 2). -/
def Core.reset : Core := ⟨0, 256, 256, [], [[], [], [], []], none, false, Dealer.idle⟩

/-- A die's units at reset: default drain limit 20 us (R375). -/
def Die.reset : Die := ⟨[], [], 0, 0, 0, 20, [], 0, [], false⟩

/-- A quad's matrix engine at reset: all unclaimed (R45). -/
def Quad.reset : Quad := ⟨[], [], []⟩

/-- An unclaimed, unfilled slot (R249). -/
def Slot.reset : Slot := ⟨[], [], [], 0, 0, 0, 0, 0, false, none⟩

/-- An unclaimed tile (R250). -/
def Tile.reset : Tile := ⟨[], 0, 0, 0, 0, false, 0, 0, none⟩

/-- A zero cell (R250). -/
def Cell.zero : Cell := ⟨0, false, false, false, false⟩

/-- A channel assigned to no launch (R362). -/
def Channel.reset : Channel := ⟨none, 0, []⟩

/-- An untrained port (DESIGN CHOICE, log 2). -/
def Port.reset : Port := ⟨false, 0, 0, 0, 0, 0, 0, 0, [], [], false⟩

/-- A pair that has sent nothing. -/
def Pair.reset : Pair := ⟨0, [], false⟩

/-- A target pair that has performed nothing: the first request has sequence 0 (PRESUMED, log 14). -/
def TargetPair.reset : TargetPair := ⟨0xFFFFFFFF, [], []⟩

/-- A closed queue. -/
def SwQueue.reset : SwQueue := ⟨false, 0, 0, none, 0, 0, [], none, false⟩

/-- The record of a ring at reset: class and port read as its position, all else is zero (R419). -/
def ringReset (n : Nat) : BitVec 256 := BitVec.ofNat 256 (n % 8 * 2 ^ 14 + n / 8 * 2 ^ 8)
def Ring.reset (n : Nat) : Ring := ⟨ringReset n, 0, 0, false, false, 0, 0⟩

/-- Nothing is being issued. -/
def Issue.idle : Issue := ⟨0, 0, 0, 0, 0, {}, 0, 0, [], none⟩

/-- The rollback count that the fuses hold (R455). -/
def Boot.count (b : Boot) : Nat := b.rollback.getD Config.fusedRollback

/-- Before the boot ROM runs (R455): only core 0 is out of reset; pins show that copy A is being checked (DESIGN CHOICE, log 2). -/
def Boot.reset : Boot :=
  { rollback := none, pins := 1, shown := [1], reason := 0, blinking := false, booted := false, imageHash := [], firmware := [],
    drivers := false, keyDraw := 0, hbm := BitVec.allOnes 24, keys := [], n := 8, position := 0, rootPorts := List.replicate 8 0, plans := [], plan := 0,
    selected := none, fMHz := 940, gMHz := 1600, watts := [], lowPower := false, calmMs := 0 }

/-- The module right after reset: no object, run or team; every engine idle; the boot ROM about to run. -/
def State.reset : State :=
  { mem := [], sram := [], badWords := [], softWords := [], teamBad := [], teamSoft := [], groups := [], teams := [], launches := [], cores := [], quads := [], dies := [],
    sems := [], spaces := [], frames := [], pinned := [], pins := [], shootdowns := [], nextTable := 0, windows := [], tokenClock := 0, ports := [], flitsOut := [], fabricWait := [], relayDrops := 0, arrived := [], answered := [], resendAfter := 200000, pairs := [],
    targets := [], credits := [], detours := [], monitors := [], messagesOut := [], funcs := [], queuePairs := [],
    expansion := [], bridges := [], bridgeErrors := 0, posted := [], answers := [], rings := [], portDrops := [], pauseFrames := [],
    filter := [], armed := false, heldFrame := none, running := 1, letters := [], letterSeq := [], refused := [],
    irqs := 0, queues := [], slotsOf := [], objects := [], loads := [], runs := [], collectives := [], completions := [],
    reports := [], boot := Boot.reset, now := 0, issue := Issue.idle, reps := [], inputs := [], choices := 0, frees := 0, fresh := 1 }

end Sys2Proof.Machine
end

