-- ==== Sys2Proof/Machine/Numbers.lean ====
section
/-!
DEFINITION. Numbers: exact values, the formats of chapter 11 (R191 to R203), RoundToFormat (R206), flushing (R210), the
conversion policy (R211, R212) and the exact arithmetic behind chapters 13, 15 and 16.
-/

namespace Sys2Proof.Machine

/-- An exact value: NaN, an infinity with its sign, or a signed rational; zero keeps its sign. -/
inductive Val where
  | nan
  | inf (neg : Bool)
  | fin (neg : Bool) (num den : Nat)
  deriving DecidableEq, Repr

/-- A floating format: significand precision P (hidden bit included), exponent bias, and its special codes' family. -/
inductive Fmt where
  /-- an IEEE-style format of `w` bits with `m` trailing significand bits and a bias (R191) -/
  | ieee (w m bias : Nat)
  /-- binary8 with precision P, unsigned or not, with infinities or not (R193) -/
  | b8 (P : Nat) (U I : Bool)
  /-- a two's-complement or unsigned integer of `w` bits (R198) -/
  | int (w : Nat) (signed : Bool)
  deriving DecidableEq, Repr

def Fmt.f32 : Fmt := .ieee 32 23 127
def Fmt.f16 : Fmt := .ieee 16 10 15
def Fmt.bf16 : Fmt := .ieee 16 7 127

/-- 2^e as numerator and denominator. -/
def pow2 (e : Int) : Nat × Nat := if 0 ≤ e then (2 ^ e.toNat, 1) else (1, 2 ^ (-e).toNat)

/-- ± m × 2^e. -/
def Val.scaled (neg : Bool) (m : Nat) (e : Int) : Val := .fin neg (m * (pow2 e).1) (pow2 e).2

/-- The exact value of an integer. -/
def Val.ofInt (i : Int) : Val := .fin (i < 0) i.natAbs 1

/-- Trailing significand bits, bias and code width of a floating format. -/
def Fmt.mant : Fmt → Nat
  | .ieee _ m _ => m
  | .b8 P _ _ => P - 1
  | .int _ _ => 0
def Fmt.bias : Fmt → Nat
  | .ieee _ _ b => b
  | .b8 P U _ => 2 ^ ((if U then 9 - P else 8 - P) - 1)
  | .int _ _ => 0
def Fmt.width : Fmt → Nat
  | .ieee w _ _ => w
  | .b8 _ _ _ => 8
  | .int w _ => w
def Fmt.isInt : Fmt → Bool
  | .int _ _ => true
  | _ => false
def Fmt.unsigned : Fmt → Bool
  | .b8 _ u _ => u
  | .int _ s => !s
  | _ => false

/-- Decode8 (R193) and the IEEE decoding (R191): the exact value of a code. -/
def Fmt.decode (F : Fmt) (code : Nat) : Val :=
  match F with
  | .int w s => if s && 2 ^ (w - 1) ≤ code then Val.ofInt ((code : Int) - 2 ^ w) else Val.ofInt code
  | .ieee w m bias =>
    let neg := 2 ^ (w - 1) ≤ code
    let mag := code % 2 ^ (w - 1)
    let e := mag / 2 ^ m
    let t := mag % 2 ^ m
    let top := 2 ^ (w - 1 - m) - 1
    if e = top then (if t = 0 then .inf neg else .nan)
    else if e = 0 then .scaled neg t (1 - (bias : Int) - m)
    else .scaled neg (2 ^ m + t) ((e : Int) - bias - m)
  | .b8 P U I =>
    if !U && code = 0x80 then .nan
    else if U && code = 0xFF then .nan
    else if !U && I && code = 0x7F then .inf false
    else if !U && I && code = 0xFF then .inf true
    else if U && I && code = 0xFE then .inf false
    else
      let neg := !U && 0x80 ≤ code
      let mag := if U then code else code % 0x80
      let m := P - 1
      let e := mag / 2 ^ m
      let t := mag % 2 ^ m
      let b : Int := (Fmt.b8 P U I).bias
      if e = 0 then .scaled neg t (1 - b - m) else .scaled neg (2 ^ m + t) ((e : Int) - b - m)

/-- floor(log2(num/den)) for a positive rational. -/
def ilog2 (num den : Nat) : Int :=
  let l : Int := (Nat.log2 num : Int) - Nat.log2 den
  if den * (pow2 l).1 ≤ num * (pow2 l).2 then l else l - 1

/-- The exponent of the spacing of F's grid at a positive magnitude (R206, unbounded above). -/
def Fmt.quantum (F : Fmt) (num den : Nat) : Int :=
  match F with
  | .int _ _ => 0
  | _ => max (ilog2 num den) (1 - (F.bias : Int)) - F.mant

/-- Does a tie between neighbours lo = k and hi = k + 1 spacings go to hi under nearest even (R206)? -/
def tieToHi (F : Fmt) (k : Nat) (q : Int) : Bool :=
  match F with
  | .b8 1 U I => if k = 0 then false else Config.tieUp U I q
  | _ => k % 2 = 1

/-- Rounding-mode codes (R72). -/
abbrev Mode := BitVec 3
def rne : Mode := 1
def rtz : Mode := 2
def rdn : Mode := 3
def rup : Mode := 4
def rna : Mode := 5
def msr : Mode := 6

/-- RoundToFormat (R206) on a magnitude: the count of spacings chosen, from floor count k and remainder rem/full of one
spacing. `r` is the stochastic draw. -/
def roundCount (F : Fmt) (mode : Mode) (r : Word) (neg : Bool) (q : Int) (k rem full : Nat) : Nat :=
  if rem = 0 then k
  else
    let up : Bool :=
      match mode.toNat with
      | 2 => false
      | 3 => neg
      | 4 => !neg
      | 5 => full ≤ 2 * rem
      | 6 => r.toNat < rem * 2 ^ 32 / full
      | _ => if 2 * rem < full then false else if full < 2 * rem then true else tieToHi F k q
    if up then k + 1 else k

/-- RoundToFormat (R206): the rounded exact value, range not yet judged. -/
def roundTo (F : Fmt) (mode : Mode) (r : Word) : Val → Val
  | .nan => .nan
  | .inf n => .inf n
  | .fin n num den =>
    if num = 0 then .fin n 0 1
    else
      let q := F.quantum num den
      let a := num * (pow2 q).2
      let b := den * (pow2 q).1
      Val.scaled n (roundCount F mode r n q (a / b) (a % b) b) q

/-- The code of a magnitude on the grid of a floating format, by the monotonic order of codes (R191, R193). -/
def Fmt.magCode (F : Fmt) (num den : Nat) : Nat :=
  if num = 0 then 0
  else
    let q := F.quantum num den
    let k := num * (pow2 q).2 / (den * (pow2 q).1)
    let m := F.mant
    if k < 2 ^ m then k
    else ((q + m + F.bias).toNat) * 2 ^ m + (k - 2 ^ m)

/-- Codes of the largest finite and smallest normal magnitude, infinity and NaN (R192, R194, R195). -/
def Fmt.maxCode : Fmt → Nat
  | .ieee w m _ => (2 ^ (w - 1 - m) - 1) * 2 ^ m - 1
  | .b8 _ U I => (if U then 0xFE else 0x7F) - (if I then 1 else 0)
  | .int w s => if s then 2 ^ (w - 1) - 1 else 2 ^ w - 1
def Fmt.minNormalCode (F : Fmt) : Nat := 2 ^ F.mant
def Fmt.nanCode : Fmt → Nat
  | .ieee w m _ => (2 ^ (w - 1 - m) - 1) * 2 ^ m + 2 ^ (m - 1)
  | .b8 _ U _ => if U then 0xFF else 0x80
  | .int _ _ => 0
def Fmt.infCode? : Fmt → Option Nat
  | .ieee w m _ => some ((2 ^ (w - 1 - m) - 1) * 2 ^ m)
  | .b8 _ U I => if I then some (if U then 0xFE else 0x7F) else none
  | .int _ _ => none

/-- Put a sign on a magnitude code: IEEE keeps −0; binary8 has one zero (R194); an unsigned target's negative side is 0
(R212); integers are two's complement. -/
def Fmt.signCode (F : Fmt) (neg : Bool) (mag : Nat) : Nat :=
  match F with
  | .ieee w _ _ => if neg then 2 ^ (w - 1) + mag else mag
  | .b8 _ U _ => if !neg || mag = 0 then mag else if U then 0 else 0x80 + mag
  | .int w s => if !neg then mag else if s then (2 ^ w - mag) % 2 ^ w else 0

/-- The largest finite value of the element's sign (R212); the lowest integer for a negative side. -/
def Fmt.extreme (F : Fmt) (neg : Bool) : Nat :=
  match F, neg with
  | .int w true, true => 2 ^ (w - 1)
  | _, _ => F.signCode neg F.maxCode

/-- num/den < num'/den'. -/
def ratLt (a b c d : Nat) : Bool := a * d < c * b

/-- Is a magnitude below F's smallest normal? -/
def Fmt.isSub (F : Fmt) (num den : Nat) : Bool :=
  match F with
  | .int _ _ => false
  | _ => num != 0 && ilog2 num den < 1 - (F.bias : Int)

/-- A subnormal input becomes a zero of its own sign under FZ; in a binary8 format that zero is 0x00, of positive sign
(R210). -/
def flushIn (F : Fmt) (fz : Bool) : Val → Val
  | .fin n num den =>
    if fz && F.isSub num den then .fin (match F with | .b8 _ _ _ => false | _ => n) 0 1 else .fin n num den
  | v => v

/-- The special cases of R211, in order of test. -/
inductive PolicyCase where
  | nan | infinity | overflow | underflow
  deriving DecidableEq, Repr

/-- The action code of a case (R212). -/
def actionOf (pol : BitVec 8) : PolicyCase → BitVec 2
  | .nan => pol.extractLsb' 6 2
  | .infinity => pol.extractLsb' 4 2
  | .overflow => pol.extractLsb' 2 2
  | .underflow => pol.extractLsb' 0 2

def PolicyCase.code : PolicyCase → Nat
  | .nan => 0 | .infinity => 1 | .overflow => 2 | .underflow => 3

/-- Overflow under propagate by mode (R212). -/
def overflowCode (F : Fmt) (mode : Mode) (neg : Bool) : Nat :=
  match F.infCode? with
  | none => F.extreme neg
  | some i =>
    let toMax := mode = rtz || (mode = rdn && !neg) || (mode = rup && neg)
    if toMax then F.extreme neg else F.signCode neg i

/-- A special case's result under the policy, or the case itself where the action is fault (R212). -/
def policyResult (F : Fmt) (mode : Mode) (pol : BitVec 8) (fz neg : Bool) (c : PolicyCase) : Except PolicyCase Nat :=
  match (actionOf pol c).toNat with
  | 2 => .ok 0
  | 3 => .error c
  | act =>
    match c with
    | .nan => .ok (if act = 0 then F.nanCode else F.maxCode)
    | .infinity =>
      if act = 0 then
        match F.infCode? with
        | some i => .ok (if F.unsigned && neg then 0 else F.signCode neg i)
        | none => .ok (F.extreme neg)
      else .ok (F.extreme neg)
    | .overflow => .ok (if act = 0 then (if F.unsigned && neg then 0 else overflowCode F mode neg) else F.extreme neg)
    | .underflow =>
      if act = 0 then .ok (F.signCode neg 0)
      else .ok (F.signCode neg (if fz then F.minNormalCode else 1))

/-- The whole conversion of an exact value into F (R206, R210 to R212): a code, or the case that faults. -/
def convert (F : Fmt) (mode : Mode) (pol : BitVec 8) (fz : Bool) (r : Word) (x : Val) : Except PolicyCase Nat :=
  match x with
  | .nan => policyResult F mode pol fz false .nan
  | .inf n => policyResult F mode pol fz n .infinity
  | .fin n num den =>
    match roundTo F mode r (.fin n num den) with
    | .fin _ a b =>
      let lowInt := match F with | .int w true => if n then 2 ^ (w - 1) else 2 ^ (w - 1) - 1 | _ => F.maxCode
      let ovf : Bool :=
        match F with
        | .int _ _ => if F.unsigned && n then a != 0 else ratLt lowInt 1 a b
        | _ =>
          if F.unsigned && n then a != 0
          else match F.decode F.maxCode with
            | .fin _ c d => ratLt c d a b
            | _ => false
      if ovf then policyResult F mode pol fz n .overflow
      else if F.isInt then .ok (F.signCode n (a / b))
      else if a = 0 && num != 0 then policyResult F mode pol fz n .underflow
      else if fz && F.isSub a b then policyResult F mode pol fz n .underflow
      else .ok (F.signCode n (F.magCode a b))
    | _ => .ok F.nanCode

/-- A conversion under policy 0x00 never faults (R217): the code. -/
def convert0 (F : Fmt) (mode : Mode) (fz : Bool) (r : Word) (x : Val) : Nat :=
  match convert F mode 0 fz r x with
  | .ok c => c
  | .error _ => 0

/-- LfsrStep (R208). -/
def lfsrStep (l : Word) : Word := if l.getLsbD 0 then (l >>> 1) ^^^ 0x80200003 else l >>> 1

/-- Negation. -/
def Val.neg : Val → Val
  | .nan => .nan
  | .inf n => .inf (!n)
  | .fin n a b => .fin (!n) a b

/-- Exact product (R219): 0 × ∞ is NaN. -/
def Val.mul : Val → Val → Val
  | .nan, _ | _, .nan => .nan
  | .inf n, .inf m => .inf (n != m)
  | .inf n, .fin m a _ => if a = 0 then .nan else .inf (n != m)
  | .fin n a _, .inf m => if a = 0 then .nan else .inf (n != m)
  | .fin n a b, .fin m c d => .fin (n != m) (a * c) (b * d)

/-- Exact sum (R217): the sign of an exact zero sum depends on the mode. -/
def Val.add (mode : Mode) : Val → Val → Val
  | .nan, _ | _, .nan => .nan
  | .inf n, .inf m => if n = m then .inf n else .nan
  | .inf n, _ => .inf n
  | _, .inf m => .inf m
  | .fin n a b, .fin m c d =>
    if a = 0 && c = 0 then .fin (if n = m then n else mode == rdn) 0 1
    else
      let x : Int := (if n then -1 else 1) * (a * d : Nat)
      let y : Int := (if m then -1 else 1) * (c * b : Nat)
      if x + y = 0 then .fin (mode == rdn) 0 1 else .fin (x + y < 0) (x + y).natAbs (b * d)

/-- Exact quotient (R220). -/
def Val.div : Val → Val → Val
  | .nan, _ | _, .nan => .nan
  | .inf _, .inf _ => .nan
  | .inf n, .fin m _ _ => .inf (n != m)
  | .fin n _ _, .inf m => .fin (n != m) 0 1
  | .fin n a b, .fin m c d =>
    if c = 0 then (if a = 0 then .nan else .inf (n != m)) else .fin (n != m) (a * d) (b * c)

/-- A square root exact to more bits than any rounding reads, with a sticky last bit (R220). -/
def Val.sqrt : Val → Val
  | .nan => .nan
  | .inf n => if n then .nan else .inf false
  | .fin n a b =>
    if a = 0 then .fin n 0 1
    else if n then .nan
    else
      let k := 200 + Nat.log2 b
      let t := a * 4 ^ k / b
      let s := Nat.sqrt t
      if s * s = t && a * 4 ^ k % b = 0 then .fin false s (2 ^ k) else .fin false (2 * s + 1) (2 ^ (k + 1))

/-- Exact comparison of values that are no NaN: −1, 0 or 1; +0 equals −0. -/
def Val.cmp : Val → Val → Int
  | .nan, _ | _, .nan => 0
  | .inf n, .inf m => if n = m then 0 else if n then -1 else 1
  | .inf n, _ => if n then -1 else 1
  | _, .inf m => if m then 1 else -1
  | .fin n a b, .fin m c d =>
    let x : Int := (if n then -1 else 1) * (a * d : Nat)
    let y : Int := (if m then -1 else 1) * (c * b : Nat)
    if x < y then -1 else if y < x then 1 else 0

def Val.isNan : Val → Bool
  | .nan => true
  | _ => false
def Val.isZero : Val → Bool
  | .fin _ 0 _ => true
  | _ => false
def Val.isNeg : Val → Bool
  | .inf n | .fin n _ _ => n
  | .nan => false

/-- The integer that a finite integral value holds. -/
def Val.toInt? : Val → Option Int
  | .fin n a b => if a % b = 0 then some ((if n then -1 else 1) * (a / b : Nat)) else none
  | _ => none

/-- A slot format code (R202): its arithmetic format; none for empty, invalid, ci4 and ci8. -/
def fmtOfCode (c : BitVec 8) : Option Fmt :=
  match c.toNat with
  | 0x01 => some (.int 4 true)
  | 0x02 => some (.int 4 false)
  | 0x03 => some (.int 8 true)
  | 0x04 => some (.int 8 false)
  | 0x05 => some (.int 16 true)
  | 0x08 => some .f16
  | 0x09 => some .bf16
  | 0x0A => some .f32
  | n =>
    if 0x80 ≤ n && n < 0xA0 && n % 8 != 0 then some (.b8 (n % 8) (c.getLsbD 3) (c.getLsbD 4)) else none

def isB8 (c : BitVec 8) : Bool := 0x80 ≤ c.toNat && c.toNat < 0xA0 && c.toNat % 8 != 0

/-- Fields of a slot image (R201). -/
def slotFmt (i : BitVec 128) : BitVec 8 := i.extractLsb' 32 8
def slotTs (i : BitVec 128) : Word := i.extractLsb' 0 32
def slotBlock (i : BitVec 128) : BitVec 2 := i.extractLsb' 40 2
def slotBscale (i : BitVec 128) : BitVec 2 := i.extractLsb' 42 2
def slotRnd (i : BitVec 128) : Mode := i.extractLsb' 44 3
def slotPol (i : BitVec 128) : BitVec 8 := i.extractLsb' 48 8
def slotZp (i : BitVec 128) : Int := (i.extractLsb' 64 16 : BitVec 16).toInt
def slotAnchor (i : BitVec 128) : Int := (i.extractLsb' 80 16 : BitVec 16).toInt
def slotSmooth (i : BitVec 128) : Word := i.extractLsb' 96 32
/-- Elements of a block (R201): 0 for none. -/
def blockSize (b : BitVec 2) : Nat := if b = 1 then 16 else if b = 2 then 32 else 0

/-- A slot image is empty or valid (R203). -/
def slotValid (i : BitVec 128) : Bool :=
  i == 0 ||
    ((fmtOfCode (slotFmt i)).isSome || slotFmt i == 6 || slotFmt i == 7)
      && i.extractLsb' 56 8 == (0 : BitVec 8) && i.extractLsb' 47 1 == (0 : BitVec 1)
      && slotRnd i != 0 && slotRnd i != 7 && slotBscale i == 0 && slotBlock i != 3
      && (slotBlock i == 0 || isB8 (slotFmt i))
      && (match Fmt.f32.decode (slotTs i).toNat with | .fin _ _ _ => true | _ => false)
      && (-128 ≤ slotZp i && slotZp i ≤ 255) && (-1024 ≤ slotAnchor i && slotAnchor i ≤ 1023)
      && (slotSmooth i == 0 || isB8 (slotFmt i) || slotFmt i == 8 || slotFmt i == 9 || slotFmt i == 10)

/-- BlockValue (R197). -/
def blockValue (x : Val) (e : Nat) (ts : Val) : Val :=
  if e = 0xFF then .nan
  else if e = 0 then .fin false 0 1
  else match x with
    | .nan => .nan
    | .inf n => .inf n
    | v => (v.mul (Val.scaled false 1 ((e : Int) - 128))).mul ts

/-- A smoothing divisor is valid when it is a positive finite normal binary32 (R215). -/
def divisorVal (w : Word) : Val :=
  match Fmt.f32.decode w.toNat with
  | .fin false a b => if a = 0 || Fmt.f32.isSub a b then .nan else .fin false a b
  | _ => .nan

/-- The arithmetic format of a floating type. -/
def fmtOfTy : Ty → Fmt
  | .f16 | .f16x2 => .f16
  | .bf16 | .bf16x2 => .bf16
  | _ => .f32

/-- MOD SAT turns every propagate action into saturate (R229, R232). -/
def satPolicy (pol : BitVec 8) : BitVec 8 :=
  let f (b : BitVec 2) : BitVec 2 := if b = 0 then 1 else b
  f (pol.extractLsb' 6 2) ++ f (pol.extractLsb' 4 2) ++ f (pol.extractLsb' 2 2) ++ f (pol.extractLsb' 0 2)

/-- A perfect square's root. -/
def rootNat? (n : Nat) : Option Nat := let s := Nat.sqrt n; if s * s = n then some s else none

/-- The exact and special results of R228; none where only bounds are stated. `out` writes an exact value when it is
representable. -/
def specialExact (o : Op) (F : Fmt) (x : Val) : Option Val :=
  let rep (v : Val) : Option Val :=
    match v with
    | .fin n a b => if F.decode (convert0 F rne false 0 v) = roundTo F rne 0 v && (roundTo F rne 0 v).cmp (.fin n a b) = 0 then some v else none
    | _ => none
  match o, x with
  | _, .nan => some .nan
  | .fexp2, .inf n => some (if n then .fin false 0 1 else .inf false)
  | .fexp2, v => match v.toInt? with
    | some i => if -2000 ≤ i && i ≤ 2000 then rep (Val.scaled false 1 i) else none
    | none => none
  | .flog2, .inf n => some (if n then .nan else .inf false)
  | .flog2, .fin n a b =>
    if a = 0 then some (.inf true)
    else if n then some .nan
    else
      let l := ilog2 a b
      if a * (pow2 l).2 = b * (pow2 l).1 then some (Val.ofInt l) else none
  | .fsin, .inf _ | .fcos, .inf _ => some .nan
  | .fsin, .fin n a _ => if a = 0 then some (.fin n 0 1) else none
  | .ftanh, .inf n => some (.fin n 1 1)
  | .ftanh, .fin n a _ => if a = 0 then some (.fin n 0 1) else none
  | .flogi, .inf n => some (if n then .fin false 0 1 else .fin false 1 1)
  | .frcp, .inf n => some (.fin n 0 1)
  | .frcp, .fin n a b => if a = 0 then some (.inf n) else rep (.fin n b a)
  | .frsqrt, .inf n => some (if n then .nan else .fin false 0 1)
  | .frsqrt, .fin n a b =>
    if a = 0 then some (.inf n)
    else if n then some .nan
    else
      let g := Nat.gcd a b
      match rootNat? (a / g), rootNat? (b / g) with
      | some p, some q => rep (.fin false q p)
      | _, _ => none
  | _, _ => none

end Sys2Proof.Machine
end

