-- ==== Sys2Proof/Machine/Ops.lean ====
section
/-!
DEFINITION. The named operations on the state: memory, tables, groups and threads, letters, semaphores, translation,
fetching, and taking a trap and returning from it (18 R297 to R304, 25 R425, 26 R439 to R444, 09 R185).
-/

namespace Sys2Proof.Machine

/-! ### Memory -/

/-- A byte of memory; an unlisted one reads zero (DESIGN CHOICE, log 1). -/
def rd (m : Memory) (a : Nat) : Byte :=
  match m with
  | [] => 0
  | (k, b) :: r => if k = a then b else rd r a

/-- Write a byte, keeping the canonical form: addresses rising, no entry zero. -/
def wr (m : Memory) (a : Nat) (b : Byte) : Memory :=
  match m with
  | [] => if b = 0 then [] else [(a, b)]
  | (k, c) :: r =>
    if a < k then (if b = 0 then (k, c) :: r else (a, b) :: (k, c) :: r)
    else if a = k then (if b = 0 then r else (a, b) :: r)
    else (k, c) :: wr r a b

/-- The canonical form: every address lies above `lo`, addresses rise, and no byte is zero. -/
def memWfFrom (lo : Nat) : Memory → Bool
  | [] => true
  | (k, b) :: r => lo ≤ k && b != 0 && memWfFrom (k + 1) r
def Memory.wf (m : Memory) : Bool := memWfFrom 0 m

/-- `n` bytes from an address upward. -/
def rdBytes (m : Memory) (a : Nat) : Nat → List Byte
  | 0 => []
  | n + 1 => rd m a :: rdBytes m (a + 1) n

/-- Write bytes from an address upward. -/
def wrBytes (m : Memory) (a : Nat) : List Byte → Memory
  | [] => m
  | b :: r => wrBytes (wr m a b) (a + 1) r

/-- Little-endian value of bytes, and `n` bytes of a value. -/
def leNat : List Byte → Nat
  | [] => 0
  | b :: r => b.toNat + 256 * leNat r
def leBytes (n : Nat) (x : Nat) : List Byte :=
  match n with
  | 0 => []
  | k + 1 => BitVec.ofNat 8 x :: leBytes k (x / 256)

def rdLe (m : Memory) (a n : Nat) : Nat := leNat (rdBytes m a n)

/-! ### Tables and lists -/

def tget {α : Type} (t : Tab α) (k : Nat) (dflt : α) : α :=
  match t with
  | [] => dflt
  | (j, v) :: r => if j = k then v else tget r k dflt

/-- Set an entry, keeping numbers rising. -/
def tset {α : Type} (t : Tab α) (k : Nat) (v : α) : Tab α :=
  match t with
  | [] => [(k, v)]
  | (j, w) :: r => if k < j then (k, v) :: (j, w) :: r else if j = k then (k, v) :: r else (j, w) :: tset r k v

def tdel {α : Type} (t : Tab α) (k : Nat) : Tab α := t.filter fun e => e.1 != k

/-- Element `k` of a list, or a default; replace element `k`. -/
def nth {α : Type} (l : List α) (k : Nat) (dflt : α) : α := (l[k]?).getD dflt

/-- Bits of a mask as numbers below `n`. -/
def maskBits {w : Nat} (m : BitVec w) (n : Nat) : List Nat := (List.range n).filter fun i => m.getLsbD i

/-! ### Cores, dies, quads -/

def State.core (s : State) (c : Nat) : Core := tget s.cores c Core.reset
def State.setCore (s : State) (c : Nat) (x : Core) : State := { s with cores := tset s.cores c x }
def State.die (s : State) (d : Nat) : Die := tget s.dies d Die.reset
def State.setDie (s : State) (d : Nat) (x : Die) : State := { s with dies := tset s.dies d x }
def State.quad (s : State) (q : Nat) : Quad := tget s.quads q Quad.reset
def State.setQuad (s : State) (q : Nat) (x : Quad) : State := { s with quads := tset s.quads q x }
def Quad.slot (q : Quad) (o : Nat) : Slot := tget q.slots o Slot.reset
def Quad.tile (q : Quad) (t : Nat) : Tile := tget q.tiles t Tile.reset
def Quad.setSlot (q : Quad) (o : Nat) (x : Slot) : Quad := { q with slots := tset q.slots o x }
def Quad.setTile (q : Quad) (t : Nat) (x : Tile) : Quad := { q with tiles := tset q.tiles t x }
def Die.channel (d : Die) (c : Nat) : Channel := tget d.channels c Channel.reset
def Die.setChannel (d : Die) (c : Nat) (x : Channel) : Die := { d with channels := tset d.channels c x }

/-! ### Groups, threads, teams, launches -/

def State.group? (s : State) (gid : Nat) : Option Group := s.groups.find? fun g => g.gid == gid
def State.modGroup (s : State) (gid : Nat) (f : Group → Group) : State :=
  { s with groups := s.groups.map fun g => if g.gid = gid then f g else g }
def Group.modThread (g : Group) (tid : Nat) (f : Thread → Thread) : Group := { g with threads := g.threads.modify tid f }
def State.modThread (s : State) (gid tid : Nat) (f : Thread → Thread) : State := s.modGroup gid fun g => g.modThread tid f
def State.thread? (s : State) (gid tid : Nat) : Option Thread :=
  match s.group? gid with
  | some g => g.threads[tid]?
  | none => none
/-- Apply a function to some threads of a group. -/
def Group.modThreads (g : Group) (tids : List Nat) (f : Thread → Thread) : Group :=
  tids.foldl (fun g t => g.modThread t f) g
def State.team? (s : State) (tuid : Nat) : Option Team := s.teams.find? fun t => t.tuid == tuid
def State.modTeam (s : State) (tuid : Nat) (f : Team → Team) : State :=
  { s with teams := s.teams.map fun t => if t.tuid = tuid then f t else t }
def State.launch? (s : State) (lid : Nat) : Option Launch := s.launches.find? fun l => l.lid == lid
def State.modLaunch (s : State) (lid : Nat) (f : Launch → Launch) : State :=
  { s with launches := s.launches.map fun l => if l.lid = lid then f l else l }
def State.space? (s : State) (asid : Nat) : Option Space := s.spaces.find? fun x => x.asid == asid

/-- The threads of a group with their %tid. -/
def Group.tidsOf (g : Group) : List (Nat × Thread) := (List.range g.threads.length).zip g.threads
/-- The address space of a group (R300). -/
def State.asidOf (s : State) (g : Group) : Nat := match s.launch? g.lid with | some l => l.asid | none => 0

/-- The core a group is on, numbered through the module. -/
def Group.coreNo (g : Group) : Nat := 64 * g.die + g.core
def Group.quadNo (g : Group) : Nat := 16 * g.die + g.core / 4

/-- A fresh name: gids, tags, team uids, command and trick numbers. -/
def State.bump (s : State) : State := { s with fresh := s.fresh + 1 }
/-- The next free value. -/
def State.draw (s : State) : Dword × State := (Config.freeDword s.frees, { s with frees := s.frees + 1 })

def Thread.exited (t : Thread) : Bool :=
  match t.status with
  | .exited => true
  | _ => false
def Thread.ready (t : Thread) : Bool :=
  match t.status with
  | .ready => true
  | _ => false

/-- Read a predicate: p0 is true (R47). -/
def Thread.pred (t : Thread) (n : Nat) : Bool := n == 0 || t.p.getLsbD n
/-- Write a predicate: a write to p0 is discarded (R47). -/
def Thread.setPred (t : Thread) (n : Nat) (b : Bool) : Thread :=
  if n = 0 then t else { t with p := if b then t.p ||| (1 <<< n : BitVec 8) else t.p &&& ~~~(1 <<< n : BitVec 8) }
def Thread.reg (t : Thread) (n : Nat) : Word := nth t.v n 0
def Thread.setReg (t : Thread) (n : Nat) (w : Word) : Thread := { t with v := t.v.set n w }
/-- Write registers from `d` upward. -/
def Thread.setRegs (t : Thread) (d : Nat) : List Word → Thread
  | [] => t
  | w :: r => (t.setReg d w).setRegs (d + 1) r
/-- A register write that the spin detector sees: a changed value clears the count (R28). -/
def Thread.writeReg (t : Thread) (n : Nat) (w : Word) : Thread :=
  let u := t.setReg n w
  if t.reg n = w then u else { u with spin := 0 }
def Thread.writeRegs (t : Thread) (d : Nat) : List Word → Thread
  | [] => t
  | w :: r => (t.writeReg d w).writeRegs (d + 1) r
def Thread.writePred (t : Thread) (n : Nat) (b : Bool) : Thread :=
  let u := t.setPred n b
  if t.pred n = u.pred n then u else { u with spin := 0 }
def Thread.bracket (t : Thread) (n : Nat) : Bracket := nth t.b n ⟨0, 0, 0, 0, 0⟩

/-- A bracket of all zeros, unvalued (R14). -/
def Bracket.zero : Bracket := ⟨0, 0, 0, 0, 0⟩

/-- A cohesion tag of its own for a thread (R25). -/
def State.loneTag (s : State) (gid tid : Nat) : State :=
  s.bump.modThread gid tid fun t => { t with tag := s.fresh }
/-- Does a thread still wait in a unit after which it goes on at an offset? -/
def Thread.waitsTo (npc : Word) (t : Thread) : Bool :=
  match t.status with
  | .blocked _ n => n == npc
  | _ => false
/-- Threads that complete a blocking operation at one time. Where others carry their tag that do not complete with them, they get tags of
their own, as do those of the tag that still wait in the unit, which complete at another time (R25) (DEDUCED, log 37). -/
def State.splitLate (s : State) (done : List (Nat × Nat)) : State :=
  let all := s.groups.flatMap fun g => (g.tidsOf.filter fun u => !u.2.exited).map fun u => (g.gid, u.1, u.2)
  let apart := all.filter fun e => done.contains (e.1, e.2.1) && all.any fun u => u.2.2.tag == e.2.2.tag && !done.contains (u.1, u.2.1)
  let late := all.filter fun u => !done.contains (u.1, u.2.1) && apart.any fun e => u.2.2.tag == e.2.2.tag && u.2.2.waitsTo e.2.2.pc
  (apart ++ late).foldl (fun acc e => acc.loneTag e.1 e.2.1) s

/-- A new thread (R14, R208), at an entry offset, with its first registers. -/
def Thread.new (lane : Nat) (entry : Word) (nregs : Nat) (payload : List Word) (tag stamp : Nat) : Thread :=
  { lane := lane, pc := entry, v := payload ++ List.replicate (nregs - payload.length) 0, p := 1,
    b := List.replicate 4 Bracket.zero, ret := [], repctr := 0, lfsr := BitVec.ofNat 32 ((lane + 1) * 0x00010001), ops := [],
    seq := 0, unacked := 0, holds := [], tag := tag, spinAdr := 0, spin := 0, forced := none, stamp := stamp,
    lastIssue := stamp, yieldUntil := none, monitor := none, status := .ready, pendV := [], pendT := [], inv := none, valued := [],
    region := none, stack := [], inHandler := false, held := false, freed := false }

/-- Is the group's issue held by a trap entry or a halt, for this thread (R440, R442, R451)? An evaluation in progress goes on to
its `ret` (R241); in a halted group only a single step has one (R452). -/
def Group.blocks (g : Group) (t : Thread) : Bool :=
  if t.inv.isSome && !t.held then false else g.entering.isSome || t.held || (g.handler && !t.inHandler) || g.halted || g.halting

/-! ### Letters (R425) -/

def boxNo (src dst : Nat) : Nat := 8 * src + dst
/-- A letterbox holds the first 16 letters of its list; later ones are still kept by the sending core. -/
def State.box (s : State) (src dst : Nat) : List Letter := tget s.letters (boxNo src dst) []

/-- The sender's bit of the refused register: did its last send to a core find its letterbox full (DEDUCED, log 33)? -/
def State.setRefused (s : State) (src dst : Nat) (full : Bool) : State :=
  let m : BitVec 8 := 1 <<< dst
  let r := tget s.refused src 0
  if full then { s with refused := tset s.refused src (r ||| m) }
  else if r.getLsbD dst then { s with refused := tset s.refused src (r &&& ~~~m) }
  else s
/-- The body of a letter: the 56 bytes behind its header. -/
def letterBody (b : List Byte) : List Byte := (b ++ List.replicate 56 0).take 56
/-- Send a letter: it takes the pair's next sequence number, interrupts the receiver when its box was empty, and says whether the box
holds 16. -/
def State.send (s : State) (src dst kind : Nat) (body : List Byte) : State :=
  let b := s.box src dst
  let q := tget s.letterSeq (boxNo src dst) 1
  let s1 : State := { s with
    letters := tset s.letters (boxNo src dst) (b ++ [⟨kind, q, letterBody body⟩])
    letterSeq := tset s.letterSeq (boxNo src dst) (q + 1)
    irqs := if b.isEmpty then s.irqs ||| (1 <<< dst : BitVec 8) else s.irqs }
  s1.setRefused src dst (16 ≤ b.length)

/-- Fields of eight bytes by letters, seven to each; at least one letter. -/
def letterParts : Nat → List Nat → List (List Nat)
  | 0, l => [l]
  | n + 1, l => if l.length ≤ 7 then [l] else l.take 7 :: letterParts n (l.drop 7)
/-- Letters of a kind that the spec names no code for, by subject (DESIGN CHOICE, log 12), to the errors core. -/
def State.report (s : State) (src subject : Nat) (fields : List Nat) : State :=
  (letterParts fields.length fields).foldl (fun acc l => acc.send src 6 (Config.letterKind subject) (l.flatMap (leBytes 8))) s

/-- Cores 0 and 7 come back first, then a core that has work (R462); on a module that has not booted none but core 0 runs (R455). -/
def State.restoreCore (s : State) (core : Nat) : State :=
  if s.boot.booted then { s with running := s.running ||| 0x81 ||| (1 <<< core : BitVec 8) } else s

/-! ### Physical map (R297) -/

def dieSpan : Nat := 2 ^ 32
def scratchSize : Nat := 96 * 2 ^ 20
def apertureBase : Nat := 0x1000000000
def farBase : Nat := 0x10000000000
def farSpan : Nat := 0x1800000000
def expansionBase : Nat := 0x100000000000

/-- What a physical address names. -/
inductive Phys where
  | scratch (die : Nat)
  | aperture (die chan off : Nat)
  | far (die : Nat)
  | expansion
  | unmapped
  deriving DecidableEq, Repr

/-- The far memory of a die that is in service (R456). -/
def farInService (hbm : BitVec 24) (d off : Nat) : Bool :=
  match hbm.getLsbD (2 * d), hbm.getLsbD (2 * d + 1) with
  | true, true => off < farSpan
  | false, false => false
  | _, _ => off < farSpan / 2

def State.phys (s : State) (pa : Nat) : Phys :=
  if pa < 12 * dieSpan then (if pa % dieSpan < scratchSize then .scratch (pa / dieSpan) else .unmapped)
  else if apertureBase ≤ pa && pa < apertureBase + 12 * dieSpan then
    let o := (pa - apertureBase) % dieSpan
    if o < 0x40000 then .aperture ((pa - apertureBase) / dieSpan) (o / 4096) (o % 4096) else .unmapped
  else if farBase ≤ pa && pa < farBase + 12 * farSpan then
    let d := (pa - farBase) / farSpan
    if farInService s.boot.hbm d ((pa - farBase) % farSpan) then .far d else .unmapped
  else if s.expansion.any fun e => e.present && e.base ≤ pa && pa < e.base + e.size then .expansion
  else .unmapped

/-- The bridge port beyond which an address of expansion memory lies, and the offset in the partner's windows there (R411). -/
def State.bridgeAt (s : State) (pa : Nat) : Option (Nat × Nat) :=
  if pa < expansionBase then none
  else (s.expansion.find? fun e => e.present && e.base ≤ pa && pa < e.base + e.size).bind fun e =>
    if nth s.boot.rootPorts (e.rid / 8192) 0 = 3 then some (e.rid / 8192, pa - e.base) else none

/-- HomeBank (R298). -/
def homeDie (pa : Nat) : Nat := pa / dieSpan % 16
def homeBank (pa : Nat) : Nat := pa / 64 % 128

/-- HopCount (R298). -/
def hopCount (d1 d2 : Nat) : Nat :=
  let a := d1 % 6
  let b := d2 % 6
  nth [0, 1, 2, 1, 2, 1] (max a b - min a b) 0 + (if d1 / 6 = d2 / 6 then 0 else 1)

/-- Exactly `n` bytes: cut, or followed by zeros. -/
def sized (n : Nat) (bs : List Byte) : List Byte := bs.take n ++ List.replicate (n - bs.length) 0

/-! ### Translation (R301 to R304) -/

/-- A leaf, or why there is none. -/
inductive Tr where
  | notPresent
  | bad
  | leaf (entry : Dword) (off size : Nat)
  deriving DecidableEq, Repr

/-- Entry `i` of the table at an SRAM offset. -/
def State.entry (s : State) (table i : Nat) : Dword := BitVec.ofNat 64 (rdLe s.sram (table + 8 * i) 8)

/-- The page size of a leaf by level (R301). -/
def leafSize (level : Nat) : Nat := if level = 1 then 2 ^ 40 else if level = 2 then 2 ^ 28 else 2 ^ 16

/-- Does a leaf's target fit its type (R302)? -/
def State.leafOk (s : State) (e : Dword) : Bool :=
  let tgt := (e.toNat / 2 ^ 16) * 2 ^ 16
  match (e.extractLsb' 5 3).toNat with
  | 0 | 1 => match s.phys tgt with | .scratch _ => true | _ => false
  | 2 =>
    let page := tgt % dieSpan
    apertureBase ≤ tgt && page < 0x40000
      && (let d := (tgt - apertureBase) / dieSpan; d < 12 || d = 15)
  | 3 => let m := e.toNat / 2 ^ 60; m < s.boot.n && m != s.boot.position
  | 4 => match s.phys tgt with | .far _ => true | _ => false
  | 5 => match s.phys tgt with | .expansion => true | _ => false
  | _ => false

/-- Translate (R301). -/
def State.walk (s : State) (va : Nat) : Nat → Nat → Nat → Tr
  | 0, _, _ => .bad
  | fuel + 1, level, table =>
    let e := s.entry table (va / 2 ^ (52 - 12 * level) % 4096)
    if !e.getLsbD 0 then .notPresent
    else if !e.getLsbD 1 then
      if level = 3 || e.extractLsb' 2 13 != (0 : BitVec 13) || e.extractLsb' 27 37 != (0 : BitVec 37) then .bad
      else s.walk va fuel (level + 1) (e.toNat / 2 ^ 15 * 2 ^ 15)
    else
      let size := leafSize level
      let typ := (e.extractLsb' 5 3).toNat
      if level = 0 || e.extractLsb' 8 8 != (0 : BitVec 8) || (level < 3 && e.toNat / 2 ^ 16 % 2 ^ 24 % (size / 2 ^ 16) != 0)
          || (level < 3 && typ ≤ 2) || !s.leafOk e then .bad
      else .leaf e (va % size) size

def State.translate (s : State) (asid : Nat) (va : Dword) : Tr :=
  match s.space? asid with
  | none => .notPresent
  | some x => s.walk va.toNat 4 0 x.root

/-- The place behind a leaf for an accessor on a die; `token` is the space's token that a peer leaf names (R302). -/
def State.placeOf (s : State) (asid die : Nat) (e : Dword) (off : Nat) : Place :=
  match (e.extractLsb' 5 3).toNat with
  | 3 =>
    let idx := e.toNat / 2 ^ 48 % 4096
    let tok := match s.space? asid with | some x => tget x.tokens idx 0 | none => 0
    .peer (e.toNat / 2 ^ 60) idx tok (e.toNat / 2 ^ 16 % 2 ^ 32 * 2 ^ 16 + off)
  | 2 =>
    let tgt := e.toNat / 2 ^ 16 * 2 ^ 16
    let d := (tgt - apertureBase) / dieSpan
    .phys (apertureBase + (if d = 15 then die else d) * dieSpan + tgt % dieSpan + off)
  | _ => .phys (e.toNat / 2 ^ 16 * 2 ^ 16 + off)

/-- The outcome of an access's translation (R304). -/
inductive Access1 where
  | ok (p : Place)
  | absent
  | deny (reason : Nat)
  deriving DecidableEq, Repr

/-- The leaf of a loaded page (R137): pinned while its object is resident. -/
def State.pinnedLeaf (s : State) (a : Nat) : Dword := tget s.pinned (a / 65536) 0
/-- The physical address behind a loaded address, under a permission bit of its leaf: 4 for a fetch, 2 for a read (R303). -/
def State.loadedAt (s : State) (a bit : Nat) : Option Nat :=
  let e := s.pinnedLeaf a
  if e.getLsbD 0 && e.getLsbD bit && e.extractLsb' 5 3 == (0 : BitVec 3) then some (e.toNat / 2 ^ 16 * 2 ^ 16 + a % 65536) else none
/-- A frame of text or constants of a resident object: the memory core lets no leaf write it, so that no access changes it (R299, R137)
(DEDUCED, log 36). -/
def State.readOnly (s : State) (pa : Nat) : Bool := s.pinned.any fun e => !e.2.getLsbD 3 && e.2.toNat / 65536 == pa / 65536
/-- Does a place exist? A leaf may begin below the far or expansion memory that is in service and reach beyond it (R456). -/
def State.exists (s : State) (p : Place) : Bool :=
  match p with
  | .phys pa => s.phys pa != .unmapped
  | _ => true
/-- Translate and check type and permission (R303): `types` are the leaf type codes the accessor may reach. An aperture leaf
never allows a read (R362). An address that is unmapped behind a leaf fails as a bad entry does (R302, R456, DEDUCED, log 25). -/
def State.access (s : State) (asid die : Nat) (va : Dword) (types : List Nat) (r w : Bool) : Access1 :=
  match s.translate asid va with
  | .notPresent => .absent
  | .bad => .deny 4
  | .leaf e off _ =>
    let typ := (e.extractLsb' 5 3).toNat
    if !types.contains typ then .deny 3
    else if (r && (!e.getLsbD 2 || typ = 2)) || (w && (!e.getLsbD 3 || (typ ≤ 1 && s.readOnly e.toNat))) then .deny 2
    else if !s.exists (s.placeOf asid die e off) then .deny 4
    else .ok (s.placeOf asid die e off)

/-! ### Fabric ports (R384, R385, R387, R390) -/

/-- Ports of a peer in a cluster of `n`: k. -/
def portsPerPeer (n : Nat) : Nat := 48 / (n - 1)
/-- The peer that a port serves; none for a spare port. -/
def State.portPeer (s : State) (p : Nat) : Option Nat :=
  let k := portsPerPeer s.boot.n
  if 48 ≤ p || k * (s.boot.n - 1) ≤ p then none else some ((s.boot.position + p / k + 1) % s.boot.n)
def State.port (s : State) (p : Nat) : Port := tget s.ports p Port.reset
def State.setPort (s : State) (p : Nat) (x : Port) : State := { s with ports := tset s.ports p x }
/-- Ports in service to a peer. -/
def State.portsTo (s : State) (peer : Nat) : List Nat :=
  (List.range 48).filter fun p => s.portPeer p == some peer && (s.port p).trained
/-- Ports that new requests to a peer take: its own, or a relay's (R390). -/
def State.routes (s : State) (peer : Nat) : List Nat :=
  match s.portsTo peer with
  | [] => match s.detours.find? fun e => e.1 == peer with
    | some (_, r) => s.portsTo r
    | none => []
  | l => l
def replayCap : Nat := 1024
/-- The last count that may be sent under a key (R389). -/
def lastCount : Nat := 2 ^ 64 - 2
/-- A port takes a flit when its replay buffer has room and its key has a count left. -/
def Port.room (p : Port) : Bool := p.replay.length < replayCap && p.count ≤ lastCount
/-- Of some ports the nearest to a die, those that have room: a flit enters there, and waits while none has (R385, R387). -/
def State.nearest (s : State) (die : Nat) (l : List Nat) : List Nat :=
  let d := l.foldl (fun m p => min m (hopCount die (p / 4))) 8
  l.filter fun p => hopCount die (p / 4) == d && (s.port p).room
def State.nearPorts (s : State) (die peer : Nat) : List Nat := s.nearest die (s.routes peer)
/-- The ports that a flit to a peer may take: one that has been relayed takes no second relay (R390). -/
def FlitBody.isRelayed : FlitBody → Bool
  | .relayed _ => true
  | _ => false
def State.ways (s : State) (peer : Nat) (b : FlitBody) : List Nat := if b.isRelayed then s.portsTo peer else s.routes peer
/-- The nonce of a port's next flit (R388). -/
def State.flitNonce (s : State) (p : Nat) : BitVec 96 :=
  BitVec.ofNat 4 s.boot.position ++ BitVec.ofNat 4 ((s.portPeer p).getD 0) ++ BitVec.ofNat 8 p ++ (s.port p).gen
    ++ BitVec.ofNat 64 (s.port p).count
/-- A flit leaves a port under the next count of its key, while one is left (R388, R389). It acknowledges what the port has received. -/
def State.emit (s : State) (p : Nat) (kind : BitVec 4) (seq : BitVec 12) (body : FlitBody) : State :=
  let x := s.port p
  if lastCount < x.count then s
  else
    let f : Flit := ⟨seq, x.rxSeq - 1, kind, body, s.flitNonce p, x.secret⟩
    { s.setPort p { x with count := x.count + 1 } with flitsOut := s.flitsOut ++ [(p, f)] }
/-- A data flit for a module leaves a port: it is kept until it is acknowledged (R387). -/
def State.emitData (s : State) (p dest : Nat) (b : FlitBody) : State :=
  let x := s.port p
  (s.setPort p { x with replay := x.replay ++ [⟨x.txSeq, b, s.now, dest⟩], txSeq := x.txSeq + 1 }).emit p 0 x.txSeq b
/-- Send one flit from a die towards a peer through a near port with room: which of equally near ones is free (DESIGN CHOICE, log 4). -/
def State.pushNow (s : State) (die peer : Nat) (b : FlitBody) : Option State :=
  match s.nearest die (s.ways peer b) with
  | [] => none
  | [p] => some (s.emitData p peer b)
  | p :: r =>
    let q := nth (p :: r) (Config.pickPort s.fresh (r.length + 1) % (r.length + 1)) p
    some { s.emitData q peer b with fresh := s.fresh + 1 }
/-- Does end-to-end recovery send a flit again when it is lost (R391, R392)? -/
def FlitBody.recovers : FlitBody → Bool
  | .response _ _ .wake | .response _ _ (.credit _) => false
  | _ => true
/-- Send one flit, or let it wait for a port with room. Where no route reaches the peer, what recovery sends again is dropped, and a flit that would
need a second relay is counted with it (R390). -/
def State.pushTo (s : State) (die peer : Nat) (b : FlitBody) : State :=
  match s.pushNow die peer b with
  | some t => t
  | none =>
    if !(s.ways peer b).isEmpty || !b.recovers then { s with fabricWait := s.fabricWait ++ [(die, peer, b)] }
    else if b.isRelayed then { s with relayDrops := s.relayDrops + 1 }
    else s
/-- Flits that waited leave where a port has room now. -/
def State.drainFabric (s : State) : State := s.fabricWait.foldl (fun acc e => acc.pushTo e.1 e.2.1 e.2.2) { s with fabricWait := [] }

/-! ### Reading and writing by physical address -/

def State.physRead (s : State) (pa n : Nat) : List Byte := rdBytes s.mem pa n

/-- A word is uncorrectable while its mark stands (R310). -/
def State.badAt (s : State) (pa n : Nat) : Bool := s.badWords.any fun w => pa < 4 * w + 4 && 4 * w < pa + n

/-- Is word `w` covered whole by `n` bytes at an address? Does it share a byte with them? -/
def wholeWord (pa n w : Nat) : Bool := pa ≤ 4 * w && 4 * w + 4 ≤ pa + n
def meetsWord (pa n w : Nat) : Bool := pa < 4 * w + 4 && 4 * w < pa + n
/-- The marks after a store: those of the words it covers whole are gone (R310); a narrower store into a marked word is reported. -/
def State.marked (s : State) (pa n : Nat) : State :=
  let s1 := { s with badWords := s.badWords.filter fun w => !wholeWord pa n w, softWords := s.softWords.filter fun w => !wholeWord pa n w }
  if s1.badAt pa n then s1.report 3 1 [pa] else s1
/-- A store. -/
def State.physWrite (s : State) (pa : Nat) (bs : List Byte) : State := ({ s with mem := wrBytes s.mem pa bs } : State).marked pa bs.length
/-- A read corrects the words with one flipped bit: each is written back, counted on its die and reported (R310). -/
def State.scrub (s : State) (pa n : Nat) : State :=
  let l := s.softWords.filter (meetsWord pa n)
  l.foldl (fun acc w => (acc.setDie (homeDie pa) { acc.die (homeDie pa) with corrected := (acc.die (homeDie pa)).corrected + 1 }).report
    3 21 [4 * w]) { s with softWords := s.softWords.filter fun w => !meetsWord pa n w }
/-- The same of team memory (R310). -/
def State.teamBadAt (s : State) (u h off n : Nat) : Bool := s.teamBad.any fun e => e.1 == u && e.2.1 == h && meetsWord off n e.2.2
def State.scrubTeam (s : State) (die u h off n : Nat) : State :=
  let hit (e : Nat × Nat × Nat) : Bool := e.1 == u && e.2.1 == h && meetsWord off n e.2.2
  (s.teamSoft.filter hit).foldl (fun acc e =>
    (acc.setDie die { acc.die die with corrected := (acc.die die).corrected + 1 }).report 3 21 [4 * e.2.2])
    { s with teamSoft := s.teamSoft.filter fun e => !hit e }
/-- The marks of team memory after a store; a narrower store into a marked word is reported. -/
def State.teamStored (s : State) (u h off n : Nat) : State :=
  let keep (e : Nat × Nat × Nat) : Bool := !(e.1 == u && e.2.1 == h && wholeWord off n e.2.2)
  let s1 := { s with teamBad := s.teamBad.filter keep, teamSoft := s.teamSoft.filter keep }
  if s1.teamBadAt u h off n then s1.report 3 1 [off] else s1

/-- Do two runs of bytes share one? -/
def Place.overlap (p : Place) (n : Nat) (q : Place) (m : Nat) : Bool :=
  match p, q with
  | .phys a, .phys b => a < b + m && b < a + n
  | .team t h a, .team u k b => t == u && h == k && a < b + m && b < a + n
  | .peer x i _ a, .peer y j _ b => x == y && i == j && a < b + m && b < a + n
  | .sync a, .sync b => a == b
  | .hole l a, .hole k b => l == k && a == b
  | _, _ => false

/-- Wake threads: a monitored store marks the monitor, and ends a blocked `mwait`, which consumes the arm (R318, R348). -/
def Thread.monitorHit (t : Thread) (now : Nat) : Thread :=
  match t.status with
  | .blocked .mwait npc => { t with monitor := none, status := .ready, pc := npc, stamp := now }
  | _ => { t with monitor := t.monitor.map fun m => { m with hit := true } }
def Thread.watches (t : Thread) (p : Place) (n : Nat) : Bool :=
  match t.monitor with
  | some m => m.place.overlap 8 p n
  | none => false
def Thread.inMwait (t : Thread) : Bool :=
  match t.status with
  | .blocked .mwait _ => true
  | _ => false
def Thread.storedAt (p : Place) (n now : Nat) (t : Thread) : Thread := if t.watches p n then t.monitorHit now else t
def State.wakeThreads (s : State) (p : Place) (n : Nat) : State :=
  let done := s.groups.flatMap fun g => (g.tidsOf.filter fun e => e.2.watches p n && e.2.inMwait).map fun e => (g.gid, e.1)
  let gs := s.groups.map fun g => { g with threads := g.threads.map (Thread.storedAt p n (s.core g.coreNo).cycles) }
  ({ s with groups := gs } : State).splitLate done
/-- An entry of a bank's table stands while its thread's arm is there: an arm that `mwait` consumed, or that another arm replaced, has left
it (R318, R348). -/
def State.armStands (s : State) (m : MonEntry) : Bool :=
  match m.who with
  | .peer _ _ _ _ => true
  | .thread gid tid => match (s.thread? gid tid).bind (·.monitor) with
    | some ⟨.phys pa, _, none⟩ => 128 * homeDie pa + homeBank pa == m.bank
    | _ => false
def State.tidyArms (s : State) : State := { s with monitors := s.monitors.filter s.armStands }
def MonEntry.die (m : MonEntry) : Nat := m.bank / 128
/-- A peer's arm is told once, and leaves its table. -/
def MonEntry.sees (m : MonEntry) (p : Place) (n : Nat) : Bool :=
  match m.who with
  | .peer _ _ _ pa => (Place.phys pa).overlap 8 p n
  | .thread _ _ => false
def MonEntry.tell (m : MonEntry) (s : State) : State :=
  match m.who with
  | .peer k d q _ =>
    let t := s.pushTo m.die k (.response d q .wake)
    { t with answers := t.answers ++ [.peerWake k d q] }
  | .thread _ _ => s
def State.wake (s : State) (p : Place) (n : Nat) : State :=
  let s1 := (s.wakeThreads p n).tidyArms
  let l := s1.monitors.filter fun m => m.sees p n
  if l.isEmpty then s1
  else l.foldl (fun acc m => m.tell acc) { s1 with monitors := s1.monitors.filter fun m => !m.sees p n }

/-- A store or atomic performed by a thread, device or engine, with its monitor effects (R318). -/
def State.perform (s : State) (pa : Nat) (bs : List Byte) : State := (s.physWrite pa bs).wake (.phys pa) bs.length

/-! ### Text and constants -/

/-- A word at a loaded address; zero where its leaf does not allow the access. -/
def State.loadedWord (s : State) (a bit : Nat) : Word :=
  match s.loadedAt a bit with
  | some pa => BitVec.ofNat 32 (rdLe s.mem pa 4)
  | none => 0
/-- Bytes at loaded addresses. -/
def State.loadedBytes (s : State) (a n : Nat) : List Byte :=
  (List.range n).map fun i => match s.loadedAt (a + i) 2 with
    | some pa => rd s.mem pa
    | none => 0

/-- A word of a launch's text, zero outside it (DEDUCED, log 36). -/
def State.textWord (s : State) (l : Launch) (off : Word) : Word :=
  if off.toNat + 4 ≤ l.kernel.textSize then s.loadedWord (l.kernel.textBase + off.toNat) 4 else 0

/-- A constant-bank word (R53). -/
def State.constWord (s : State) (l : Launch) (n : Nat) : Word := s.loadedWord (l.kernel.constBase + 4 * n) 2

/-- Is a constant-bank word uncorrectable (R310)? -/
def State.constBad (s : State) (l : Launch) (n : Nat) : Bool :=
  match s.loadedAt (l.kernel.constBase + 4 * n) 2 with
  | some pa => s.badAt pa 4
  | none => false

/-- The checks on a transfer's target (R84 to R86): the first that fails. -/
def State.targetCause (s : State) (l : Launch) (target : Word) (indirect : Bool) : Option (BitVec 16) :=
  if l.kernel.textSize ≤ target.toNat then some 0x0016
  else if target.toNat % 4 != 0 then some 0x0014
  else
    let m := wordMarks (s.textWord l) target
    if m.1 then some 0x0014
    else if m.2 then some 0x0013
    else if indirect && !isLand (s.textWord l target) then some 0x0015
    else none

/-! ### Exit (R31, R173) -/

/-- A thread ends: it discards its return stack, repeat counter and brackets. -/
def Thread.exit (t : Thread) : Thread :=
  { t with status := .exited, ret := [], repctr := 0, b := List.replicate 4 Bracket.zero, inv := none, valued := [],
           monitor := none, forced := none, yieldUntil := none, spin := 0, held := false }

/-! ### Taking a trap (R440 to R444) -/

/-- The pages of a group's stack (R295): thread `tid` owns bytes 5,120 tid to 5,120 tid + 5,119. -/
def stackPage (tid : Nat) (off : Nat) : Nat := (5120 * tid + off) / 65536
def Group.stackUp (g : Group) (tid off : Nat) : Bool := g.pages.any fun e => e.1 == stackPage tid off
/-- The physical address of a thread's stack byte, in the frame that holds it. -/
def Group.stackPa (g : Group) (tid off : Nat) : Option Nat :=
  (g.pages.find? fun e => e.1 == stackPage tid off).map fun e => 65536 * e.2 + (5120 * tid + off) % 65536
/-- The words of a thread's stack that a read meets: uncorrectable ones, and those that it corrects; and those that a store rewrites (R310). -/
def State.stackBad (s : State) (g : Group) (tid off n : Nat) : Bool := (g.stackPa tid off).any fun a => s.badAt a n
def State.stackRead (s : State) (g : Group) (tid off n : Nat) : State := match g.stackPa tid off with | some a => s.scrub a n | none => s
def State.stackWritten (s : State) (g : Group) (tid off n : Nat) : State := match g.stackPa tid off with | some a => s.marked a n | none => s

/-- The page number of a stack page in the group's address space, beyond the numbers that accesses by virtual address name (R295: the
layout is not visible to programs) (DESIGN CHOICE, log 43). -/
def stackEntry (gid pg : Nat) : Nat := 2 ^ 48 + 16 * gid + pg
def isStackEntry (page : Nat) : Bool := 2 ^ 48 ≤ page
def stackOwner (page : Nat) : Nat := (page - 2 ^ 48) / 16

/-- The record entry of a trapped thread (R441). -/
def Trapped.entry (x : Trapped) : List Byte :=
  leBytes 2 x.data.cause.toNat ++ leBytes 1 x.data.reason.toNat ++ leBytes 1 x.data.flags.toNat ++ leBytes 4 x.tid
    ++ leBytes 4 x.restart.toNat ++ leBytes 4 x.data.word.toNat ++ leBytes 8 x.data.address.toNat
    ++ leBytes 8 x.data.detailA.toNat ++ leBytes 8 x.data.detailB.toNat ++ leBytes 24 0

/-- The stack offset of the record entry. -/
def recordOff : Nat := 0x0FC0

/-- A group that fails (R444): the letter, the exits, and the launch's mark. -/
def State.failGroup (s : State) (gid : Nat) (t : GroupTrap) (cause : BitVec 16) (info : Dword) : State :=
  match s.group? gid with
  | none => s
  | some g =>
    let first := match t.threads with | x :: _ => x.entry.take 16 | [] => List.replicate 16 0
    let body := leBytes 4 g.lid ++ leBytes 4 g.team.toNat ++ leBytes 4 g.number ++ leBytes 4 cause.toNat
      ++ leBytes 4 g.trapepc.toNat ++ leBytes 4 0 ++ leBytes 8 info.toNat ++ leBytes 8 g.trapmask.toNat ++ first
    let s1 := s.send 2 6 0x61 body
    let s2 := s1.modGroup gid fun g => { g with threads := g.threads.map Thread.exit, entering := none, handler := false,
                                                heldTraps := [] }
    s2.modLaunch g.lid fun l => { l with failed := true }

/-- Steps 4 and 5 of R440, once every record's page is present. -/
def State.finishEntry (s : State) (gid : Nat) (t : GroupTrap) : State :=
  match s.group? gid with
  | none => s
  | some g =>
    let s0 := t.threads.foldl (fun a x => a.stackWritten g x.tid recordOff x.entry.length) s
    let s1 := s0.modGroup gid fun g =>
      { t.threads.foldl (fun g x => g.modThread x.tid fun th => { th with stack := wrBytes th.stack recordOff x.entry }) g with
        entering := none }
    let ok := match s1.launch? g.lid with
      | some l => g.trapbase != 0 && g.trapbase.toNat < l.kernel.textSize && g.trapbase.toNat % 4 == 0
          && isLand (s1.textWord l g.trapbase) && wordMarks (s1.textWord l) g.trapbase == (false, false)
      | none => false
    if ok then
      let tag := s1.fresh
      let now := (s1.core g.coreNo).cycles
      s1.bump.modGroup gid fun g =>
        { t.threads.foldl (fun g x => g.modThread x.tid fun th =>
            { th with pc := g.trapbase, tag := tag, status := .ready, inHandler := true, stamp := now }) g with
          handler := true }
    else s1.failGroup gid t t.cause t.info

/-- A bracket that a unit leaves valued, and one that it leaves otherwise (R240). -/
def Thread.leavesValued (t : Thread) (upc : Word) (br : Nat) (keep : Bool) : Thread :=
  let rest := t.valued.filter fun e => e.2.1 != br
  { t with valued := if keep then (upc, br, t.inHandler) :: rest else rest }
/-- A thread that traps inside an evaluation abandons it (R240): it stands at the unit, and its argument is written back
when the bracket was not valued; a valued bracket stays, with the unit that left it. -/
def Thread.abandon (t : Thread) : Thread :=
  match t.inv with
  | none => t
  | some e =>
    let keep := (t.bracket e.pfx.br.toNat).st == 1
    { (if keep then t else t.setReg e.a e.arg0).leavesValued e.upc e.pfx.br.toNat keep with inv := none, pc := e.upc }
def Trapped.abandon (g : Group) (x : Trapped) : Trapped :=
  match (g.threads[x.tid]?).bind (·.inv) with
  | some e => { x with restart := e.upc }
  | none => x

/-- A thread that goes on at an offset: brackets that other units left valued become unvalued (R240). `own` says that only those count
which it left in the mode that it is in: a handler's thread that is moved within its handler keeps what the interrupted unit left. -/
def Thread.leaveUnit (t : Thread) (pc : Word) (own : Bool) : Thread :=
  let out := t.valued.filter fun e => e.1 != pc && (!own || e.2.2 == t.inHandler)
  { out.foldl (fun t e => { t with b := t.b.modify e.2.1 fun x => { x with st := 0 } }) t with
    valued := t.valued.filter fun e => !out.contains e }

/-- Enter a page in a core's fault buffer: shared when it is there, left out while 64 entries are held; a new entry sends a
letter to the memory core (R305). -/
def State.faultEntry (s : State) (core : Nat) (e : FaultEntry) : State :=
  let c := s.core core
  if c.faults.any fun x => x.asid == e.asid && x.page == e.page then s
  else if 64 ≤ c.faults.length then s
  else
    (s.setCore core { c with faults := c.faults ++ [e] }).send 2 3 (Config.letterKind 20)
      ([core, e.asid, e.page, if e.write then 1 else 0].flatMap (leBytes 8))

/-- Ask for the record pages of a group's trap entry that are absent (R441). -/
def State.askRecords (s : State) (g : Group) (t : GroupTrap) : State :=
  let missing := t.threads.filterMap fun x => if g.stackUp x.tid recordOff then none else some (stackPage x.tid recordOff)
  missing.eraseDups.foldl (fun acc pg => acc.faultEntry g.coreNo ⟨s.asidOf g, stackEntry g.gid pg, true, some g.gid⟩) s

/-- Entry of a trap (R440): registers, then the records once their pages are present. -/
def State.enterTrap (s : State) (gid : Nat) (t0 : GroupTrap) : State :=
  match s.group? gid with
  | none => s
  | some g =>
    let t := { t0 with threads := t0.threads.map (Trapped.abandon g) }
    let mask : Dword := t.threads.foldl (fun m x => m ||| (1 <<< x.tid : BitVec 64)) 0
    let epc := match t.threads with | x :: _ => x.restart | [] => 0
    let s1 := s.modGroup gid fun g =>
      { t.threads.foldl (fun g x => g.modThread x.tid Thread.abandon) g with
        trapcause := t.cause.setWidth 32, trapinfo := t.info, trapmask := mask, trapepc := epc, epcWritten := false,
        entering := some t, entryId := s.fresh }
    if t.threads.all fun x => g.stackUp x.tid recordOff then s1.bump.finishEntry gid t else s1.bump.askRecords g t

/-- A trap is raised in a group, at a unit of issue `id` (0 for a trap at no unit): entered; held while the group is in handler mode (R442)
or halted, until the debugger lets it go (R453); its threads stand at their units then, their evaluations abandoned (R240). At a unit that a
handler's thread issued after entry the group fails (R443). -/
def State.raise (s : State) (gid id : Nat) (t : GroupTrap) : State :=
  match s.group? gid with
  | none => s
  | some g =>
    if g.handler || g.entering.isSome || g.halted then
      if g.handler && g.entryId ≤ id && t.threads.any fun x => ((g.threads[x.tid]?).map (·.inHandler)).getD false then
        s.failGroup gid t 0x00FF (t.cause.setWidth 64)
      else s.modGroup gid fun g =>
        { t.threads.foldl (fun g x => g.modThread x.tid fun th => { th.abandon with held := true }) g with
          heldTraps := g.heldTraps ++ [{ t with threads := t.threads.map (Trapped.abandon g) }] }
    else s.enterTrap gid t

/-- The issue that a trap of waiting threads counts as (R443): after entry where a handler's thread waits among them, else before it. -/
def State.waitId (s : State) (g : Group) (tids : List Nat) : Nat :=
  if tids.any fun i => ((g.threads[i]?).map (·.inHandler)).getD false then s.fresh else 0
/-- Return from a trap (R185) once every thread of trapmask waits at `tret` or has exited: resume offsets, their checks, the
resumption, the end of handler mode, and a held trap's entry (R442). -/
def Thread.resumeAt (t : Thread) (pc : Word) (tag now : Nat) : Thread :=
  { t.leaveUnit pc false with pc := pc, tag := tag, status := .ready, inHandler := false, stamp := now }

def Group.tretWaiting (g : Group) (tid : Nat) : Bool :=
  match g.threads[tid]? with
  | some t => (match t.status with | .blocked .tret _ => true | _ => false)
  | none => false

def State.resumeOff (g : Group) (tid : Nat) : Word :=
  if g.epcWritten then g.trapepc
  else match g.threads[tid]? with
    | some t => BitVec.ofNat 32 (rdLe t.stack (recordOff + 8) 4)
    | none => 0

/-- The threads of a group that a trap or a debugger held become ready with its end (R15). -/
def Group.letGo (g : Group) (now : Nat) : Group :=
  { g with threads := g.threads.map fun t => if t.ready then { t with stamp := now } else t }
def State.tretRelease (s : State) (gid : Nat) : State :=
  match s.group? gid with
  | none => s
  | some g =>
    let tids := (List.range g.threads.length).filter g.tretWaiting
    let all := (maskBits g.trapmask g.threads.length).all fun i =>
      g.tretWaiting i || ((g.threads[i]?).map (·.exited)).getD true
    if !g.handler || !all then s
    else match s.launch? g.lid with
      | none => s
      | some l =>
        match tids.filterMap fun i => (s.targetCause l (State.resumeOff g i) false).map fun c => (i, c) with
        | (i, c) :: r =>
          -- the checks raise their trap at the `tret`, where every waiting thread stands
          let at_ (k : Nat) : Word := match g.threads[k]? with | some t => t.pc | none => 0
          let entry (k : Nat) : Trapped :=
            let e := ((i, c) :: r).find? fun x => x.1 == k
            ⟨k, at_ k, { cause := (e.map (·.2)).getD c, info := (State.resumeOff g i).setWidth 64, flags := if e.isSome then 1 else 0,
                         word := State.resumeOff g k }⟩
          s.failGroup gid ⟨c, (State.resumeOff g i).setWidth 64, tids.map entry⟩ 0x00FF (c.setWidth 64)
        | [] =>
          let now := (s.core g.coreNo).cycles
          -- threads that resume at one offset share one new tag
          let tagOf (pc : Word) : Nat :=
            s.fresh + ((tids.map (State.resumeOff g)).eraseDups.idxOf pc)
          let s1 := { s with fresh := s.fresh + tids.length }
          let s2 := s1.modGroup gid fun g' =>
            { tids.foldl (fun x i => x.modThread i fun t => t.resumeAt (State.resumeOff g i) (tagOf (State.resumeOff g i)) now)
                (g'.letGo now) with
              handler := false }
          match g.heldTraps with
          | [] => s2
          | t :: r =>
            (s2.modGroup gid fun g' =>
              { t.threads.foldl (fun x y => x.modThread y.tid fun th => { th with held := false }) g' with heldTraps := r }).enterTrap
              gid t

/-! ### Parking (R305, R306) -/

/-- Codes of `MemReq.space`: the four spaces, and a unit that executes again as a whole from its own operands, parked on a
scratchpad page (4) or on a stack page (5). -/
def retryScr : Nat := 4
def retryStack : Nat := 5
def MemReq.stackPage (r : MemReq) : Bool := r.space == 0 || r.space == retryStack
def MemReq.retry (r : MemReq) : Bool := r.unit.isSome

/-- A request that executes a whole unit again, with its operands as they were (R306). -/
def retryReq (space : Nat) (va : Dword) (write : Bool) (x : Replay) : MemReq :=
  ⟨space, va, 0, if write then .store [] else .load 0 .b32, 0, 0, none, x.issue.id, some x, false, false, false⟩
def AccOp.writes : AccOp → Bool
  | .load _ _ | .arm => false
  | _ => true

/-- Park a thread on a page (R305); off the stack it leaves its cohesion tag (R25). A thread may wait for a stack page of another group
of its trick (R296). -/
def State.park (s : State) (gid tid asid page : Nat) (req : MemReq) (npc : Word) : State :=
  match s.group? gid with
  | none => s
  | some g =>
    let s1 := s.faultEntry g.coreNo ⟨asid, page, req.op.writes, if isStackEntry page then some (stackOwner page) else none⟩
    let s2 := s1.modThread gid tid fun t => { t with status := .parked page { req with late := true } npc }
    if isStackEntry page then s2 else s2.loneTag gid tid

/-! ### Semaphores (R349, R350) -/

def State.sem (s : State) (die n : Nat) : Word := tget s.sems (4096 * die + n) 0

/-- Threads of a die blocked on a semaphore whose threshold is met go on together (R350). -/
def Thread.semMet (n : Nat) (val : Word) (t : Thread) : Bool :=
  match t.status with
  | .blocked (.sem m th) _ => m == n && th.toNat ≤ val.toNat
  | _ => false
/-- A blocked thread's event occurs: it is ready after its unit. -/
def Thread.wakeUp (t : Thread) (now : Nat) : Thread :=
  match t.status with
  | .blocked _ npc => { t with status := .ready, pc := npc, stamp := now }
  | _ => t
def Thread.semWake (n : Nat) (val : Word) (now : Nat) (t : Thread) : Thread := if t.semMet n val then t.wakeUp now else t

/-- An increment: unsigned, saturating, with the overflow counter and letter (R349). -/
def State.semAdd (s : State) (die n : Nat) (inc : Nat) : State :=
  let old := (s.sem die n).toNat
  let ovf := 2 ^ 32 ≤ old + inc
  let val : Word := if ovf then 0xFFFFFFFF else BitVec.ofNat 32 (old + inc)
  let done := (s.groups.filter fun g => g.die == die).flatMap fun g => (g.tidsOf.filter fun e => e.2.semMet n val).map fun e => (g.gid, e.1)
  let gs := s.groups.map fun g =>
    if g.die = die then { g with threads := g.threads.map (Thread.semWake n val (s.core g.coreNo).cycles) } else g
  let s1 := ({ s with sems := tset s.sems (4096 * die + n) val, groups := gs } : State).splitLate done
  if ovf then (s1.setDie die { s1.die die with semOverflow := (s1.die die).semOverflow + 1 }).report 2 2 [die, n] else s1

/-! ### Time -/

/-- Time passes on the system die; the token clock counts its cores' cycles (R395). -/
def State.pass (s : State) (ns : Nat) : State :=
  { s with now := s.now + ns, tokenClock := s.tokenClock + ((s.now + ns) * s.boot.gMHz / 1000 - s.now * s.boot.gMHz / 1000) }
def State.atLeast (s : State) (t : Nat) : State := s.pass (t - s.now)

end Sys2Proof.Machine
end

