-- ==== Sys2Proof/Machine/Operands.lean ====
section
/-!
DEFINITION. Operands and the execution of one unit over a trick (03 R46, R50 to R60, 04 R73, 08 R140, R156, R158, 09 R163,
R179, 11 R204, R205, 13 R216): every operand form, routing, repetition, the trap of a group that fails, and the advance of
its threads.
-/

namespace Sys2Proof.Machine

/-- A meaning's answer. -/
abbrev Out := Host.Outcome State Fault Refusal

/-- How a literal or constant is widened (R54, R216): as an integer, as bits, or converted to a format, in both halves when
packed. -/
inductive LitKind where
  | int
  | bits
  | flt (F : Fmt) (two : Bool)
  deriving DecidableEq, Repr

/-- What one group's execution of a unit reads: the state before the unit, the launch, the group and its threads of the
trick in ascending %tid, and the fields of this repetition. -/
structure Ctx where
  s : State
  l : Launch
  g : Group
  tids : List Nat
  f : Fields
  deriving DecidableEq, Repr

/-- A source field stepped by a REP prefix (R179). -/
def Src.step (x : Src) (n : Nat) : Src :=
  match x with
  | .vec k => .vec (k + n)
  | .scal k => .scal (k + n)
  | .cons k => .cons (k + n)
  | y => y

/-- The fields of repetition `r` (R179). -/
def stepFields (f : Fields) (p : RepP) (r : Nat) : Fields :=
  { f with d := f.d + r * stepOf p.sd, a := Src.step f.a (r * stepOf p.sa), b := Src.step f.b (r * stepOf p.sb),
           c := Src.step f.c (r * stepOf p.sc) }

/-- The fields that the unit being issued executes: stepped under REP. -/
def State.fieldsNow (s : State) (f : Fields) : Fields :=
  match s.issue.pfx.rep with
  | some p => stepFields f p s.issue.rep
  | none => f

/-- The read context of one group of the trick. -/
def State.ctx? (s : State) (f : Fields) (gid : Nat) (tids : List Nat) : Option Ctx :=
  match s.group? gid with
  | none => none
  | some g =>
    match s.launch? g.lid with
    | none => none
    | some l => some ⟨s, l, g, tids, s.fieldsNow f⟩

def deadThread : Thread := (Thread.new 0 0 0 [] 0 0).exit
def Ctx.th (c : Ctx) (tid : Nat) : Thread := nth c.g.threads tid deadThread
def Ctx.now (c : Ctx) : Nat := (c.s.core c.g.coreNo).cycles

/-- In a replay only the threads that replay act and move (R306). -/
def Issue.goes (i : Issue) (gid tid : Nat) : Bool := match i.only with | some l => l.contains (gid, tid) | none => true
/-- A group's operands as they are now, for a replay of its unit (R306). -/
def Ctx.snapshot (c : Ctx) (o : Op) : Replay :=
  ⟨c.s.issue, o, c.f, c.g.s, c.g.g, c.g.window, c.g.threads.map (·.v), c.g.threads.map (·.p)⟩

/-- Does a thread of the trick execute the unit: its predicate holds (R66), and under REP its counter has not passed this
repetition (R179)? -/
def Ctx.executes (c : Ctx) (tid : Nat) : Bool :=
  let t := c.th tid
  (t.pred c.f.pg.toNat != c.f.pn) && (c.s.issue.pfx.rep.isNone || t.repctr ≤ c.s.issue.rep) && c.s.issue.goes c.g.gid tid
def Ctx.exec (c : Ctx) : List Nat := c.tids.filter c.executes

/-- MOD properties of the unit; neutral without a prefix (R73). -/
def Ctx.mod (c : Ctx) : ModP := (c.s.issue.pfx.mod).getD ⟨0, false, false, 0, false, 0, false⟩

/-- A trap at the unit's instruction, with its word (R439, R441). -/
def Ctx.trapAt (c : Ctx) (cause : BitVec 16) (info : Dword) : TrapInfo :=
  { cause := cause, info := info, word := c.s.issue.ipc }
/-- A trap whose trapinfo is the faulting word's offset. -/
def Ctx.trapHere (c : Ctx) (cause : BitVec 16) : TrapInfo := c.trapAt cause (c.s.issue.ipc.setWidth 64)

/-- The illegal-instruction trap of a rule checked during execution. -/
def Ctx.illegal (c : Ctx) : TrapInfo := c.trapHere 0x0010

/-! ### Sources -/

/-- A special value (R50). -/
def Ctx.special (c : Ctx) (tid n : Nat) : Dword :=
  match n with
  | 64 => BitVec.ofNat 64 (c.g.base + tid)
  | 65 => BitVec.ofNat 64 tid
  | 66 => BitVec.ofNat 64 c.g.number
  | 67 => c.g.team.setWidth 64
  | 68 => BitVec.ofNat 64 c.g.lid
  | 69 => BitVec.ofNat 64 c.g.core
  | 70 => BitVec.ofNat 64 (c.g.core / 4)
  | 71 => BitVec.ofNat 64 c.g.die
  | 72 => BitVec.ofNat 64 c.s.boot.position
  | 73 => BitVec.ofNat 64 c.g.width
  | 74 => BitVec.ofNat 64 c.now
  | _ => 0

/-- The pair at an even register, or one register zero-extended (R46). -/
def Thread.pair (t : Thread) (n w : Nat) : Dword :=
  if w = 2 then (t.reg (n + 1) ++ t.reg n : BitVec 64) else (t.reg n).setWidth 64

/-- A 32-bit literal or constant word widened to an operand of `w` words (R54): sign-extended as an integer, zero-extended as bits. A
64-bit base, descriptor or item is neither: its readers take it as an integer (DESIGN CHOICE, log 45). -/
def widen32 (k : LitKind) (w : Nat) (x : Word) : Dword :=
  match k with
  | .int => if w = 2 then x.signExtend 64 else x.setWidth 64
  | _ => x.setWidth 64

/-- A 7-bit literal (R54, R216). -/
def widen7 (k : LitKind) (w : Nat) (x : BitVec 7) : Dword :=
  match k with
  | .flt F two =>
    let code := convert0 F rne false 0 (Val.ofInt x.toInt)
    BitVec.ofNat 64 (if two then code * 65536 + code else code)
  | _ => if w = 2 then x.signExtend 64 else (x.signExtend 32).setWidth 64

/-- An unrouted operand of one thread (R54): a constant beyond the bank raises the constant-bounds trap (R53). -/
def Ctx.raw (c : Ctx) (k : LitKind) (w tid : Nat) (x : Src) : Except TrapInfo Dword :=
  match x with
  | .vec n => .ok ((c.th tid).pair n w)
  | .scal n =>
    let v := if n < 64 then nth c.g.s n 0 else c.special tid n
    .ok (if w = 2 then v else (v.setWidth 32).setWidth 64)
  | .cons n =>
    let i := 128 * c.g.window.toNat + n
    if c.l.kernel.constCount ≤ i then .error (c.trapAt 0x0043 (BitVec.ofNat 64 i))
    else .ok (widen32 k w (c.s.constWord c.l i))
  | .lit v => .ok (widen7 k w v)
  | .lit32 v => .ok (widen32 k w v)

/-- The route byte of operand 0, 1 or 2 (R74). -/
def Ctx.routeByte (c : Ctx) (i : Nat) : BitVec 8 :=
  match c.s.issue.pfx.route with
  | none => 0
  | some r => match i with | 0 => r.ra | 1 => r.rb | _ => r.rc
def Ctx.fill (c : Ctx) : BitVec 2 := match c.s.issue.pfx.route with | none => 0 | some r => r.fill

/-- The source %tid of a route byte (R58); none when unrouted. -/
def Ctx.routeSrc (c : Ctx) (i tid : Nat) : Option Nat :=
  let r := c.routeByte i
  let v := r.toNat % 64
  let w := c.g.width
  if r = 0 then none
  else
    match r.toNat / 64 with
    | 0 => some ((tid + v) % w)
    | 1 => some (v % w)
    | 2 => some (tid ^^^ (v % w))
    | _ => some (((c.th tid).reg v).toNat % 64 % w)

/-- RoutedRead (R58): operand `i` of a thread. A miss under fill 11 has been found by `Ctx.misses` before (DEDUCED, log 15). -/
def Ctx.opd (c : Ctx) (k : LitKind) (w i tid : Nat) (x : Src) : Except TrapInfo Dword :=
  match x with
  | .vec _ =>
    match c.routeSrc i tid with
    | none => c.raw k w tid x
    | some src =>
      if c.tids.contains src then c.raw k w src x
      else match c.fill.toNat with
        | 1 => c.raw k w tid x
        | 2 => .ok (if w = 2 then BitVec.allOnes 64 else 0xFFFFFFFF)
        | _ => .ok 0
  | _ => c.raw k w tid x
def Ctx.opdA (c : Ctx) (k : LitKind) (w tid : Nat) : Except TrapInfo Dword := c.opd k w 0 tid c.f.a
def Ctx.opdB (c : Ctx) (k : LitKind) (w tid : Nat) : Except TrapInfo Dword := c.opd k w 1 tid c.f.b
def Ctx.opdC (c : Ctx) (k : LitKind) (w tid : Nat) : Except TrapInfo Dword := c.opd k w 2 tid c.f.c

/-- Operands read as integers and as bits. -/
def Ctx.intA (c : Ctx) (w tid : Nat) := c.opdA .int w tid
def Ctx.intB (c : Ctx) (w tid : Nat) := c.opdB .int w tid
def Ctx.intC (c : Ctx) (w tid : Nat) := c.opdC .int w tid
def Ctx.bitA (c : Ctx) (w tid : Nat) := c.opdA .bits w tid
def Ctx.bitB (c : Ctx) (w tid : Nat) := c.opdB .bits w tid
def Ctx.bitC (c : Ctx) (w tid : Nat) := c.opdC .bits w tid
/-- An operand that is always 32 bits (R139). -/
def Ctx.ctlB (c : Ctx) (tid : Nat) : Except TrapInfo Word := (c.opdB .int 1 tid).map (·.setWidth 32)
def Ctx.ctlC (c : Ctx) (tid : Nat) : Except TrapInfo Word := (c.opdC .int 1 tid).map (·.setWidth 32)

/-! ### Checks before execution -/

/-- The register runs that a use names. -/
def useRange (u : Use) (x : Src) : List (Nat × Nat) :=
  match u, x with
  | .any w, .vec n | .vecOnly w, .vec n => [(n, w)]
  | _, _ => []
def dstRange (u : DUse) (k : DKind) (d : Nat) : List (Nat × Nat) :=
  match u, k with
  | .vec w, .vec | .vecOrPred w, .vec | .addr w, .vec => [(d, w)]
  | _, _ => []

/-- The register-range check (R46) of a thread's unit: every register that D, A, B, C and a register-indexed route name. -/
def Ctx.rangeOk (c : Ctx) (sh : Shape) : Bool :=
  let runs := dstRange sh.d c.f.kd c.f.d ++ useRange sh.a c.f.a ++ useRange sh.b c.f.b ++ useRange sh.c c.f.c
  let idx := [0, 1, 2].filterMap fun i =>
    let r := (c.routeByte i).toNat
    if r / 64 = 3 then some (r % 64, 1) else none
  (runs ++ idx).all fun e => e.1 + e.2 ≤ c.g.nregs

/-- The sources missing under fill 11 (R59): for A, B and C. -/
def Ctx.misses (c : Ctx) (tid : Nat) : List (Option Nat) :=
  [(0, c.f.a), (1, c.f.b), (2, c.f.c)].map fun e =>
    match e.2 with
    | .vec _ => match c.routeSrc e.1 tid with
      | some src => if c.fill = 3 && !c.tids.contains src then some src else none
      | none => none
    | _ => none

/-- The routing-miss trap of a thread with a missing source (R59, R441). -/
def Ctx.missTrap (c : Ctx) (ms : List (Option Nat)) : TrapInfo :=
  let byte (i : Nat) : Nat := match nth ms i none with | some n => n | none => 0xFF
  let first : Nat := match nth ms 0 none, nth ms 1 none with | some _, _ => 0 | none, some _ => 1 | _, _ => 2
  { c.trapHere 0x0021 with flags := 2, detailA := BitVec.ofNat 64 (byte 0 + 256 * byte 1 + 65536 * byte 2),
                           detailB := BitVec.ofNat 64 first }

/-- The unit's registers lie in range. -/
def Ctx.ranged (c : Ctx) (o : Op) : Except TrapInfo Unit :=
  match shape o c.f with
  | none => .error c.illegal
  | some sh => if c.rangeOk sh then .ok () else .error (c.trapHere 0x0020)
/-- The checks that precede a vector unit's execution in a thread. -/
def Ctx.precheck (c : Ctx) (o : Op) (tid : Nat) : Except TrapInfo Unit :=
  (c.ranged o).bind fun _ =>
    let ms := c.misses tid
    if ms.any (·.isSome) then .error (c.missTrap ms) else .ok ()

/-! ### Traps of a group at a unit, and the advance of its threads -/

/-- The trap of a group whose executing threads are `ex` and failing ones `errs`: its code is that of the lowest failing
%tid, and every executing thread gets an entry (R163, R440). -/
def Ctx.groupTrap (c : Ctx) (ex : List Nat) (errs : List (Nat × TrapInfo)) : GroupTrap :=
  let d := match errs with | (_, e) :: _ => e | [] => c.illegal
  let entry (tid : Nat) : Trapped :=
    match errs.find? (fun e => e.1 == tid) with
    | some (_, e) => ⟨tid, c.s.issue.upc, { e with flags := e.flags ||| 1 }⟩
    | none => ⟨tid, c.s.issue.upc, { cause := d.cause, info := d.info, word := c.s.issue.ipc }⟩
  ⟨d.cause, d.info, ex.map entry⟩

/-- Take threads of a group out of the trick being issued. -/
def State.dropFromTrick (s : State) (gid : Nat) (tids : List Nat) : State :=
  { s with issue := { s.issue with trick := s.issue.trick.map fun e =>
      if e.1 = gid then (e.1, e.2.filter fun t => !tids.contains t) else e } }

/-- A thread goes on at an offset: it becomes ready there (R23). -/
def Thread.goto (t : Thread) (pc : Word) (now : Nat) : Thread := { t with pc := pc, stamp := now }

/-- Threads of a group complete the unit: they go on at the word after it. Under REP the end of the repetition moves them
(R179). -/
def State.advance (s : State) (gid : Nat) (tids : List Nat) : State :=
  if s.issue.pfx.rep.isSome then s
  else
    let npc := s.issue.npc
    s.modGroup gid fun g =>
      g.modThreads (tids.filter (s.issue.goes gid)) fun t => t.goto npc (s.core (64 * g.die + g.core)).cycles

/-- The unit traps in a group: the executing threads are trapped, the others of the trick complete it. -/
def State.unitTrap (s : State) (c : Ctx) (ex : List Nat) (errs : List (Nat × TrapInfo)) : State :=
  let s1 := s.advance c.g.gid (c.tids.filter fun t => !ex.contains t)
  (s1.dropFromTrick c.g.gid ex).raise c.g.gid s.issue.id (c.groupTrap ex errs)

/-- Results of threads: the failing ones. -/
def failures {α : Type} (l : List (Nat × Except TrapInfo α)) : List (Nat × TrapInfo) :=
  l.filterMap fun e => match e.2 with | .error x => some (e.1, x) | .ok _ => none
def successes {α : Type} (l : List (Nat × Except TrapInfo α)) : List (Nat × α) :=
  l.filterMap fun e => match e.2 with | .ok x => some (e.1, x) | .error _ => none

/-- Run `k` for each group of the trick in ascending base lane, on the state that the groups before left; the context is read
from the state before the unit (R24, R57). -/
def State.perGroup (s : State) (f : Fields) (k : Ctx → State → State) : State :=
  s.issue.trick.foldl (fun acc e => match s.ctx? f e.1 e.2 with | none => acc | some c => k c acc) s

/-! ### Vector units -/

/-- What one thread writes: registers, predicates, and its generator. -/
structure VecOut where
  regs : List (Nat × Word) := []
  preds : List (Nat × Bool) := []
  lfsr : Option Word := none
  deriving DecidableEq, Repr

def Thread.apply (t : Thread) (o : VecOut) : Thread :=
  let t1 := o.regs.foldl (fun t e => t.writeReg e.1 e.2) t
  let t2 := o.preds.foldl (fun t e => t.writePred e.1 e.2) t1
  match o.lfsr with
  | some l => { t2 with lfsr := l }
  | none => t2

/-- A vector destination of one word or a pair (R46). -/
def VecOut.word (d : Nat) (w : Word) : VecOut := { regs := [(d, w)] }
def VecOut.wide (d w : Nat) (v : Dword) : VecOut :=
  if w = 2 then { regs := [(d, v.setWidth 32), (d + 1, v.extractLsb' 32 32)] } else { regs := [(d, v.setWidth 32)] }
def VecOut.pred (d : Nat) (b : Bool) : VecOut := { preds := [(d, b)] }

/-- One group's execution of a vector unit: when any executing thread fails, the group traps and nothing is written;
otherwise every executing thread writes its results, and all threads of the trick go on (R24, R57, R140). -/
def Ctx.runVec (c : Ctx) (o : Op) (body : Ctx → Nat → Except TrapInfo VecOut) (s : State) : State :=
  let res := c.exec.map fun t => (t, (c.precheck o t).bind fun _ => body c t)
  match failures res with
  | [] =>
    let s1 := s.modGroup c.g.gid fun g => (successes res).foldl (fun g e => g.modThread e.1 fun t => t.apply e.2) g
    s1.advance c.g.gid c.tids
  | errs => s.unitTrap c c.exec errs

/-- A vector unit over its trick. -/
def vecUnit (o : Op) (f : Fields) (s : State) (body : Ctx → Nat → Except TrapInfo VecOut) : Out :=
  .next (s.perGroup f fun c acc => c.runVec o body acc)

/-! ### Units that act per executing thread, in lane order -/

/-- A unit that acts per executing thread in ascending lane: `pre` makes every thread's operands or its trap, any trap is the whole
group's, and `act` carries out each thread on the state that those before it left, and moves it on. -/
def eachUnit {α : Type} (o : Op) (f : Fields) (s : State) (pre : Ctx → Nat → Except TrapInfo α) (act : Ctx → Nat → α → State → State) :
    State :=
  s.perGroup f fun c acc =>
    let res := c.exec.map fun t => (t, (c.precheck o t).bind fun _ => pre c t)
    match failures res with
    | [] =>
      let s1 := acc.advance c.g.gid (c.tids.filter fun t => !c.exec.contains t)
      (successes res).foldl (fun a e => act c e.1 e.2 a) s1
    | errs => acc.unitTrap c c.exec errs

/-- One thread completes its unit. -/
def Ctx.goOn (c : Ctx) (tid : Nat) (s : State) : State := s.modThread c.g.gid tid fun t => t.goto c.s.issue.npc c.now
/-- One thread blocks. -/
def Ctx.block (c : Ctx) (tid : Nat) (w : Wait) (s : State) : State :=
  s.modThread c.g.gid tid fun t => { t with status := .blocked w c.s.issue.npc }

/-! ### Scalar units (R158) -/

/-- Write a scalar register of a group: a changed value clears the spin count of the group's threads in the trick (R28). -/
def Group.writeS (g : Group) (tids : List Nat) (d : Nat) (v : Dword) : Group :=
  let g1 := { g with s := g.s.set d v }
  if nth g.s d 0 = v then g1 else g1.modThreads tids fun t => { t with spin := 0 }

/-- A unit that acts once per group in every thread of the trick: `body` gives the group's change, or a trap of all of them. -/
def Ctx.runGroup (c : Ctx) (o : Op) (body : Ctx → Except TrapInfo (Group → Group)) (s : State) : State :=
  let first := nth c.tids 0 0
  match (c.precheck o first).bind fun _ => body c with
  | .ok h => (s.modGroup c.g.gid h).advance c.g.gid c.tids
  | .error e => s.unitTrap c c.tids (c.tids.map fun t => (t, e))
def groupUnit (o : Op) (f : Fields) (s : State) (body : Ctx → Except TrapInfo (Group → Group)) : Out :=
  .next (s.perGroup f fun c acc => c.runGroup o body acc)

/-- A class 2 unit: `body` gives the value of s[D]. -/
def sclUnit (o : Op) (f : Fields) (s : State) (body : Ctx → Except TrapInfo Dword) : Out :=
  groupUnit o f s fun c => (body c).map fun v => fun g => g.writeS c.tids c.f.d v

/-- The thread whose %lane and %tid a unit that acts once per group reads: the lowest executing one of the trick (DESIGN CHOICE,
log 45). -/
def Ctx.lead (c : Ctx) : Nat := nth c.exec 0 (nth c.tids 0 0)
/-- A scalar operand (R139): read once per group. -/
def Ctx.sA (c : Ctx) (k : LitKind) (w : Nat) : Except TrapInfo Dword := c.raw k w c.lead c.f.a
def Ctx.sB (c : Ctx) (k : LitKind) (w : Nat) : Except TrapInfo Dword := c.raw k w c.lead c.f.b
def Ctx.sC (c : Ctx) (k : LitKind) (w : Nat) : Except TrapInfo Dword := c.raw k w c.lead c.f.c

/-! ### Format slots (R204, R205) -/

/-- The slot that a slot index names: MOD SE replaces every index (R72). -/
def Ctx.slotNo (c : Ctx) (n : Nat) : Nat := if c.mod.se then c.mod.slot.toNat else n
def Ctx.slotImg (c : Ctx) (n : Nat) : BitVec 128 := nth c.l.kernel.slots (c.slotNo n) 0

/-- The format-slot trap (R205, R441). -/
def Ctx.slotTrap (c : Ctx) (n : Nat) : TrapInfo :=
  { c.trapAt 0x0050 (BitVec.ofNat 64 (c.slotNo n)) with
    detailA := BitVec.ofNat 64 (c.slotNo n), detailB := (slotFmt (c.slotImg n)).setWidth 64 }

/-- Rounding mode: MOD, else the slot's, else nearest even (R207). -/
def Ctx.mode (c : Ctx) (slot : Option (BitVec 128)) : Mode :=
  if c.mod.rnd != 0 then c.mod.rnd else match slot with | some i => slotRnd i | none => rne
/-- Policy: MOD with PE, else the slot's, else 0x00 (R212). -/
def Ctx.policy (c : Ctx) (slot : Option (BitVec 128)) : BitVec 8 :=
  if c.mod.pe then c.mod.pol else match slot with | some i => slotPol i | none => 0

/-- The conversion-fault trap (R213, R441): element index and case. -/
def Ctx.convTrap (c : Ctx) (elem : Nat) (p : PolicyCase) : TrapInfo :=
  { c.trapHere 0x0051 with detailA := BitVec.ofNat 64 elem, detailB := BitVec.ofNat 64 p.code }

/-- One draw of a thread's generator when the mode is stochastic (R208): the draw, and the new generator. -/
def drawFor (mode : Mode) (l : Word) : Word := if mode = msr then lfsrStep l else l

end Sys2Proof.Machine
end

