-- ==== Sys2Proof/Machine/Flags.lean ====
section
/-!
DEFINITION. Integer arithmetic and its flags (08 R139, R143 to R153): extension, wrapping, saturation, carry, borrow,
comparison, shifts, bit counts and fields. The machine's flags are predicates; each is computed here once.
-/

namespace Sys2Proof.Machine

/-- Width(T) of R139. -/
def Ty.width : Ty → Nat
  | .i64 | .ui64 | .b64 => 64
  | .i24 | .ui24 => 24
  | .i16 | .ui16 | .b16 | .f16 | .bf16 => 16
  | .i8 | .ui8 | .b8 | .ci8 => 8
  | .i4 | .ui4 | .ci4 => 4
  | _ => 32
/-- IsSigned(T) of R139. -/
def Ty.signed : Ty → Bool
  | .i64 | .i32 | .i24 | .i16 | .i8 | .i4 => true
  | _ => false

/-- Ext(x, T) of R139 on an n-bit pattern. -/
def ext (x : Dword) (w : Nat) (signed : Bool) : Int :=
  let u := x.toNat % 2 ^ w
  if signed && 2 ^ (w - 1) ≤ u then (u : Int) - 2 ^ w else u
def extT (t : Ty) (x : Dword) : Int := ext x (Ty.width t) (Ty.signed t)

/-- WrapTo(v, n) of R139. -/
def wrapTo (v : Int) (n : Nat) : Nat := (v % (2 ^ n : Nat)).toNat

/-- The bounds of SatTo (R139). -/
def satLo (w : Nat) (signed : Bool) : Int := if signed then -(2 ^ (w - 1) : Nat) else 0
def satHi (w : Nat) (signed : Bool) : Int := if signed then (2 ^ (w - 1) : Nat) - 1 else (2 ^ w : Nat) - 1
/-- SatTo(v, T) of R139. -/
def satTo (v : Int) (w : Nat) (signed : Bool) : Int := max (satLo w signed) (min (satHi w signed) v)

/-- A result pattern: saturated or wrapped. -/
def narrow (sat : Bool) (v : Int) (w : Nat) (signed : Bool) : Dword :=
  BitVec.ofNat 64 (wrapTo (if sat then satTo v w signed else v) w)

/-- A carry-out: bit w of the unsigned sum (R143). -/
def carryOut (a b cin w : Nat) : Bool := 2 ^ w ≤ a + b + cin
/-- A borrow-out: the unsigned difference is negative (R143). -/
def borrowOut (a b bin : Nat) : Bool := a < b + bin

/-- Compare codes (R144). -/
def cmpCode (v : Nat) (a b : Int) : Bool :=
  match v with
  | 0 => a == b
  | 1 => a != b
  | 2 => a < b
  | 3 => a ≤ b
  | 4 => b < a
  | _ => b ≤ a

/-- Shifts (R151). -/
def shlBits (a s w : Nat) : Nat := if s < w then a * 2 ^ s % 2 ^ w else 0
def shrBits (a : Int) (signed : Bool) (s w : Nat) : Int :=
  if signed then a / (2 ^ min s (w - 1) : Nat) else if s < w then a / (2 ^ s : Nat) else 0
def rotl (a s w : Nat) : Nat :=
  let k := s % w
  (a * 2 ^ k % 2 ^ w) + a / 2 ^ (w - k)
def rotr (a s w : Nat) : Nat := rotl a (w - s % w) w
def funnelL (a b s w : Nat) : Nat := (a * 2 ^ w + b) * 2 ^ (s % w) % 2 ^ (2 * w) / 2 ^ w
def funnelR (a b s w : Nat) : Nat := (a * 2 ^ w + b) / 2 ^ (s % w) % 2 ^ w

/-- Bit counts (R152) of a w-bit value. -/
def popc (a : Nat) (w : Nat) : Nat := ((List.range w).filter fun i => a.testBit i).length
def clz (a : Nat) (w : Nat) : Nat := if a = 0 then w else w - 1 - Nat.log2 a
def ctz (a : Nat) (w : Nat) : Nat := ((List.range w).takeWhile fun i => !a.testBit i).length
def brev (a : Nat) (w : Nat) : Nat := (List.range w).foldl (fun r i => if a.testBit i then r + 2 ^ (w - 1 - i) else r) 0
def bitOp (v a w : Nat) : Nat :=
  match v with
  | 0 => popc a w
  | 1 => clz a w
  | 2 => ctz a w
  | _ => brev a w

/-- Position and length of a field control (R153). -/
def fieldPos (ctl : Word) (w : Nat) : Nat := min (ctl.toNat % 256) w
def fieldLen (ctl : Word) (w : Nat) : Nat := min (ctl.toNat / 256 % 256) (w - fieldPos ctl w)
/-- `bfld.ext` and `bfld.ins` (R153). -/
def fieldExt (a : Nat) (ctl : Word) (w : Nat) (signed : Bool) : Nat :=
  let len := fieldLen ctl w
  if len = 0 then 0
  else
    let x := a / 2 ^ fieldPos ctl w % 2 ^ len
    if signed && 2 ^ (len - 1) ≤ x then x + (2 ^ w - 2 ^ len) else x
def fieldIns (a b : Nat) (ctl : Word) (w : Nat) : Nat :=
  let len := fieldLen ctl w
  let pos := fieldPos ctl w
  if len = 0 then a
  else a % 2 ^ pos + b % 2 ^ len * 2 ^ pos + a / 2 ^ (pos + len) * 2 ^ (pos + len)

/-- One result byte of `bfld.byte` (R153). -/
def byteSel (a : Word) (s : Nat) : Nat :=
  if s / 4 % 2 = 1 then 0
  else
    let x := a.toNat / 2 ^ (8 * (s % 4)) % 256
    if s / 8 % 2 = 1 then (if 128 ≤ x then 255 else 0) else x

/-- Bitwise operations (R150, R159): and, or, xor, andn, orn, not of B. -/
def logicOp (v : Nat) (a b : Dword) : Dword :=
  match v with
  | 0 => a &&& b
  | 1 => a ||| b
  | 2 => a ^^^ b
  | 3 => a &&& ~~~b
  | 4 => a ||| ~~~b
  | _ => ~~~b

/-- `tlog` (R150): the map's bit at each position. -/
def tlogBits (m : BitVec 8) (a b c : Dword) : Dword :=
  let row (i : Nat) : Dword :=
    if m.getLsbD i then
      (if i % 2 = 1 then a else ~~~a) &&& (if i / 2 % 2 = 1 then b else ~~~b) &&& (if i / 4 = 1 then c else ~~~c)
    else 0
  row 0 ||| row 1 ||| row 2 ||| row 3 ||| row 4 ||| row 5 ||| row 6 ||| row 7

/-- Signed packed elements of a word (R147). -/
def packedElem (x : Word) (k bits : Nat) (signed : Bool) : Int := ext ((x.setWidth 64 : Dword) >>> (k * bits)) bits signed

end Sys2Proof.Machine
end

