-- ==== Sys2Proof/Machine/Issue.lean ====
section
/-!
DEFINITION. The grouping stage (02 R23 to R25, R28 to R30), fetching and decoding a unit (04 R81, R82, R86), and what is
checked before a unit of a routine under evaluation executes (13 R239).
-/

namespace Sys2Proof.Machine

/-- A ready thread as the grouping stage sees it. -/
structure Cand where
  g : Group
  tid : Nat
  th : Thread
  deriving DecidableEq, Repr

/-- Predicate `n` in the scoreboard, beyond the vector registers (R57). -/
def predReg (n : Nat) : Nat := 256 + n
/-- The predicates that an operation reads or writes (R57): the guarding one, a predicate destination, and those that its fields name. -/
def opPreds (o : Op) (f : Fields) : List Nat :=
  let named := match o with
    | .iadd | .isub => if f.v == 0 || f.v == 1 then [] else [f.x.toNat % 8]
    | .isel | .fsel => [f.x.toNat % 8]
    | .plog => [f.a.num % 8, f.b.num % 8]
    | .pcvt => if f.v == 0 then [f.a.num % 8] else List.range 8
    | .vote => [f.a.num % 8]
    | .collect => [f.c.num % 8]
    | _ => []
  (f.pg.toNat :: (if f.kd == .pred then [f.d % 8] else []) ++ named).map predReg
/-- The registers and predicates that a unit reads or writes, over its repetitions (R57). -/
def unitRegs (u : DUnit) : List Nat :=
  match u.ins.core with
  | none => []
  | some (_, o, f) =>
    if u.pfx.inv.isSome then f.d :: [f.a, f.b].filterMap fun x => match x with | .vec n => some n | _ => none else
    let reps := match u.pfx.rep with | some r => r.cnt.toNat + 1 | none => 1
    let one (f : Fields) : List (Nat × Nat) :=
      match shape o f with
      | none => [(f.d, 1)] ++ [f.a, f.b].filterMap fun x => match x with | .vec n => some (n, 1) | _ => none
      | some sh =>
        let bw := if o == .amsend then f.c.num else match sh.b with | .vecOnly w => w | _ => 0
        (opPreds o f).map (·, 1) ++ dstRange sh.d f.kd f.d ++ useRange sh.a f.a ++ useRange sh.b f.b ++ useRange sh.c f.c
          ++ (match f.b with | .vec n => [(n, bw)] | _ => [])
    let runs := match u.pfx.rep with
      | some r => (List.range reps).flatMap fun k => one (stepFields f r k)
      | none => one f
    let idx := match u.pfx.route with
      | some r => [r.ra, r.rb, r.rc].filterMap fun b => if b.toNat / 64 = 3 then some (b.toNat % 64, 1) else none
      | none => []
    (runs ++ idx).flatMap fun e => (List.range e.2).map fun i => e.1 + i

/-- The unit at an offset of a launch's text. -/
def State.unitAt (s : State) (l : Launch) (pc : Word) : Except UnitError DUnit :=
  decodeUnit (s.textWord l) l.kernel.textSize pc

/-- A pass takes a reservation-table entry (R256). -/
def isPassOp (o : Op) : Bool := o == .mma || o == .cmma || o == .mzpc
def MatOp.isPass : MatOp → Bool
  | .pass _ _ _ _ | .zpc _ _ _ => true
  | _ => false
/-- Reservation-table entries in use (R256). -/
def Quad.entries (q : Quad) : Nat := (q.cmds.filter fun c => c.op.isPass).length

/-- Does an access write registers? -/
def Access.reads (a : Access) : Bool :=
  match a.op with
  | .load _ _ | .atom _ _ _ _ | .cas _ _ _ _ => true
  | _ => false
/-- Does a thread still owe a trick the result of its unit (R57)? One that parked counts no more. -/
def Thread.owes (trick : Nat) (t : Thread) : Bool :=
  (t.ops.any fun a => a.trick == trick && a.reads && !a.late) || (match t.status with
    | .blocked (.pop _ _ k) _ | .blocked (.collect _ _ _ k) _ => k == trick
    | _ => false)
/-- The registers that an `aread` or `adrain` writes. -/
def MatOp.writes (op : MatOp) : Bool :=
  match op with
  | .aread _ _ _ _ | .drain _ _ _ => true
  | _ => false
/-- Is a result of a group's threads in a trick still to come (R57)? -/
def State.owed (s : State) (g : Group) (trick : Nat) : Bool :=
  g.threads.any (Thread.owes trick) || (s.quad g.quadNo).cmds.any fun c => c.gid == g.gid && c.id == trick && c.op.writes
/-- Registers of a thread that the scoreboard marks pending (R57). -/
def State.pends (s : State) (g : Group) (t : Thread) (r : Nat) : Bool :=
  t.pendV.contains r || t.pendT.any fun e => e.2 == r && s.owed g e.1
/-- The register that the end of an evaluation reads: the argument, at its `ret` (R237). -/
def Thread.retReads (t : Thread) (u : DUnit) : List Nat :=
  match t.inv, u.ins.core with
  | some e, some (_, .ret, _) => [e.a]
  | _, _ => []
/-- Does a thread's next unit name a register of a kind, or is it an operation of a kind? -/
def State.nextUnit (s : State) (g : Group) (t : Thread) (reg : Nat → Bool) (op : Op → Bool) : Bool :=
  match s.launch? g.lid with
  | none => false
  | some l => match s.unitAt l t.pc with
    | .ok u => (unitRegs u ++ t.retReads u).any reg || (match u.ins.core with | some (_, o, _) => op o | none => false)
    | .error _ => false
/-- Is a thread's next unit passed over: one of its registers is pending (R57), or it is a pass and the reservation table is full
(R256)? -/
def State.operandWait (s : State) (g : Group) (t : Thread) : Bool :=
  let full : Bool := 32 ≤ (s.quad g.quadNo).entries
  if t.pendV.isEmpty && t.pendT.isEmpty && !full then false
  else s.nextUnit g t (s.pends g t) fun o => full && isPassOp o

/-- A thread whose operand wait has ended became ready with it (R15, R23) (DEDUCED, log 37). -/
def State.stampReady (s : State) (g : Group) (t u : Thread) : Thread :=
  if t.ready && s.operandWait g t && !s.operandWait g u then { u with stamp := (s.core g.coreNo).cycles } else u
/-- A thread whose trick has all its results (R57): its registers are pending no more; it goes on when its own result had come, and became ready
when its operands waited for nothing else. -/
def State.resultsCome (s : State) (g : Group) (trick : Nat) (t : Thread) : Thread :=
  if t.pendT.any fun e => e.1 == trick then
    let now := (s.core g.coreNo).cycles
    let u := { t with pendT := t.pendT.filter fun e => e.1 != trick }
    match t.status with
    | .access q npc => if t.ops.any fun a => a.seq == q then u else { u with status := .ready, pc := npc, stamp := now }
    | _ =>
      if t.ready && s.nextUnit g t (fun r => t.pendT.any fun e => e.2 == r) (fun _ => false) && !s.operandWait g u then { u with stamp := now } else u
  else t
/-- When a group's threads owe a trick nothing more, its threads become ready together (R57). -/
def State.trickDone (s : State) (gid trick : Nat) : State :=
  match s.group? gid with
  | none => s
  | some g =>
    if s.owed g trick then s else s.modGroup gid fun h => { h with threads := h.threads.map (s.resultsCome g trick) }

/-- A team that is being pre-empted issues only evaluations in progress (R241, R445). -/
def State.teamRuns (s : State) (g : Group) (t : Thread) : Bool :=
  match s.team? g.tuid with
  | some tm => tm.state == .resident || (tm.state == .stopping && t.inv.isSome)
  | none => false

/-- Completions at different times break a tag (R25): other cores' memory, other dies' scratchpad, peer windows. A team that is not paired
has all its memory on its own core (R19). -/
def State.remote (s : State) (p : Place) (g : Group) : Bool :=
  match p with
  | .team u h _ => h != g.core % 2 && (match s.team? u with | some t => t.paired | none => false)
  | .phys pa => homeDie pa != g.die
  | .peer _ _ _ _ => true
  | _ => false

/-- Ready threads of a core (R15), pre-empted teams and blocked groups left out. -/
def State.readyOn (s : State) (core : Nat) : List Cand :=
  (s.groups.filter fun g => g.coreNo == core && !g.retired).flatMap fun g =>
    ((List.range g.threads.length).zip g.threads).filterMap fun e =>
      if e.2.ready && s.teamRuns g e.2 && !g.blocks e.2 && !s.operandWait g e.2
        then some ⟨g, e.1, e.2⟩ else none

def Cand.forced (x : Cand) : Bool := x.th.forced.isSome
def Cand.spinning (x : Cand) : Bool := x.th.spin == 8

/-- Is a thread within the 32 cycles after its `yield` (R171)? -/
def Cand.yielding (now : Nat) (x : Cand) : Bool := match x.th.yieldUntil with | some u => now < u | none => false
/-- Two ready threads of one candidate: one launch, one program counter (R23 step 1). -/
def Cand.same (x y : Cand) : Bool := x.g.lid == y.g.lid && x.th.pc == y.th.pc
/-- Counted threads (R23 step 2, R30, R171): a spinning thread waits for its group's others, a yielding one while another candidate is
ready; a forced one for neither. -/
def counted (now : Nat) (rs : List Cand) : List Cand :=
  rs.filter fun x => x.forced || ((!x.spinning || !(rs.any fun y => y.g.gid == x.g.gid && !y.spinning))
    && !(x.yielding now && rs.any fun y => !x.same y))

/-- Age order (R23 step 3, R30): forced threads first in the order forced, then the oldest stamp, the lower lane, the lower
context. -/
def Cand.before (x y : Cand) : Bool :=
  match x.th.forced, y.th.forced with
  | some a, some b => a < b || (a == b && (x.th.lane < y.th.lane || (x.th.lane == y.th.lane && x.g.ctx < y.g.ctx)))
  | some _, none => true
  | none, some _ => false
  | none, none =>
    x.th.stamp < y.th.stamp || (x.th.stamp == y.th.stamp &&
      (x.th.lane < y.th.lane || (x.th.lane == y.th.lane && x.g.ctx < y.g.ctx)))

/-- The first of a list by an order. -/
def leastBy {α : Type} (lt : α → α → Bool) : List α → Option α
  | [] => none
  | x :: r => match leastBy lt r with
    | none => some x
    | some y => if lt y x then some y else some x

/-- Insert into a list by an order, after none that it does not precede: sorting keeps the order of equal ones. -/
def insertBy {α : Type} (lt : α → α → Bool) (x : α) : List α → List α
  | [] => [x]
  | y :: r => if lt y x then y :: insertBy lt x r else x :: y :: r
def sortBy {α : Type} (lt : α → α → Bool) (l : List α) : List α := l.foldr (insertBy lt) []

/-- Does a ready thread of the chosen candidate stand before another of its lane (R23 step 4): the one with the oldest thread's tag, then
the one whose group has the most ready threads there, then the one at the lower context? -/
def Cand.beats (tag : Nat) (n : Cand → Nat) (x y : Cand) : Bool :=
  match x.th.tag == tag, y.th.tag == tag with
  | true, false => true
  | false, true => false
  | _, _ => n y < n x || (n x == n y && x.g.ctx < y.g.ctx)
/-- The threads of one candidate by cohesion tag, which the grouping stage takes together or not at all (R25). -/
def tagSets (l : List Cand) : List (List Cand) :=
  ((l.map fun x => (x.g.gid, x.th.tag)).eraseDups).map fun k => l.filter fun x => x.g.gid == k.1 && x.th.tag == k.2
def Cand.setBeats (tag : Nat) (n : Cand → Nat) (xs ys : List Cand) : Bool :=
  match xs, ys with
  | x :: _, y :: _ => x.beats tag n y
  | _, _ => false
/-- Does a set enter beside those taken: no other group has one of its lanes, or its base lane, in the trick (R23 step 4, R24)? -/
def fitsTrick (taken xs : List Cand) : Bool :=
  !(taken.any fun y => xs.any fun x => y.g.gid != x.g.gid && (y.th.lane == x.th.lane || y.g.base == x.g.base))
/-- The chosen candidate and its trick on a core (R23): the launch, the program counter, the threads by group in ascending base
lane, at most one thread in each lane. Step 4 is taken for the threads of one tag as a whole, and at one base lane for the group
(R24, R25) (DEDUCED, log 37). -/
def State.pick (s : State) (core : Nat) : Option (Nat × Word × List (Nat × List Nat)) :=
  let rs := s.readyOn core
  let cs := counted (s.core core).cycles rs
  match leastBy Cand.before cs with
  | none => none
  | some o =>
    let same := cs.filter o.same
    let n (x : Cand) : Nat := (rs.filter fun y => y.g.gid == x.g.gid && o.same y).length
    let entered := (sortBy (Cand.setBeats o.th.tag n) (tagSets same)).foldl (fun acc xs => if fitsTrick acc xs then acc ++ xs else acc) []
    let taken := same.filter fun x => entered.any fun y => y.g.gid == x.g.gid && y.tid == x.tid
    let gids := (taken.map fun x => x.g.gid).eraseDups
    let gs := gids.filterMap fun i => (taken.find? fun x => x.g.gid == i).map (·.g)
    some (o.g.lid, o.th.pc, (sortBy (fun g h => g.base < h.base) gs).map fun g =>
      (g.gid, (taken.filter fun x => x.g.gid == g.gid).map (·.tid)))

/-- What a unit of a routine may be (R239): a vector instruction of classes 0, 1, 3 and 4 with a MOD prefix or none, a load of
team memory, the final `ret`. -/
def routineOk (o : Op) (f : Fields) (p : Pfx) : Bool :=
  p.route.isNone && p.rep.isNone && p.inv.isNone && p.guard.isNone
    && (o.cls == 0 || o.cls == 1 || o.cls == 3 || o.cls == 4 || (o == .ld && f.v == 1) || o == .ret)
    && !(f.kd == .scal && o.cls ≤ 1)

/-- Does a unit write a protected register of the evaluation: the call's D, or its vector B (R239)? -/
def routineWrites (o : Op) (f : Fields) (e : InvEval) : Bool :=
  match shape o f with
  | none => false
  | some sh =>
    (dstRange sh.d f.kd f.d).any fun r =>
      let hits (n : Nat) : Bool := r.1 ≤ n && n < r.1 + r.2
      hits e.d || (match e.b with | .vec n => hits n | _ => false)

/-- Does a thread of a group in the trick violate a routine restriction of its evaluation (R239) (DEDUCED, log 38)? -/
def State.restricted (s : State) (u : DUnit) (x : Nat × List Nat) : Bool :=
  match u.ins.core with
  | none => false
  | some (_, o, f) =>
    x.2.any fun tid =>
      match (s.thread? x.1 tid).bind (·.inv) with
      | some e => !routineOk o f u.pfx || routineWrites o f e || 64 ≤ e.count
      | none => false
/-- The restriction's trap in the groups of the trick that violate one: their executing threads, or all where none executes (R239,
R440). The other groups are left to execute the unit. -/
def State.restrictTrap (s : State) (u : DUnit) (cut : List (Nat × List Nat)) : State :=
  let s1 := { s with issue := { s.issue with trick := s.issue.trick.filter fun e => !cut.contains e } }
  let runs (gid tid : Nat) : Bool := match u.ins.core, s.thread? gid tid with
    | some (_, _, f), some t => t.pred f.pg.toNat != f.pn
    | _, _ => true
  cut.foldl (fun acc e =>
    let ex := match e.2.filter (runs e.1) with | [] => e.2 | l => l
    acc.raise e.1 s.issue.id ⟨0x0062, u.ipc.setWidth 64, ex.map fun i =>
      ⟨i, s.issue.upc, { cause := 0x0062, info := u.ipc.setWidth 64, flags := 1, word := u.ipc }⟩⟩) s1

/-- The idempotent region that holds an offset (R122, R446). -/
def Launch.regionAt (l : Launch) (pc : Word) : Option Word :=
  (l.kernel.regions.find? fun r => r.1.toNat ≤ pc.toNat && pc.toNat < r.2.toNat).map (·.1)
/-- The region of a thread that issues at an offset: kept while it stays inside, else entered at its depth now. -/
def Thread.entered (t : Thread) (r : Option Word) : Option (Word × Nat) :=
  match r, t.region with
  | none, _ => none
  | some e, some (e', d) => if e = e' then some (e, d) else some (e, t.ret.length)
  | some e, none => some (e, t.ret.length)

/-- Threads of the trick as they issue (R23, R30, R171, R239): their issue time, their region, and the count of routine
instructions. -/
def Thread.issued (r : Option Word) (now : Nat) (t : Thread) : Thread :=
  { t with lastIssue := now, forced := none, region := t.entered r,
           inv := t.inv.map fun e => { e with count := e.count + 1 } }

/-- The cycle counter of a core moves on by at least one (R51); by how much is free (DESIGN CHOICE, log 5). -/
def State.tick (s : State) (core : Nat) : State :=
  let c := s.core core
  (s.setCore core { c with cycles := c.cycles + 1 + Config.delay s.fresh }).bump

/-- The smallest repeat counter of a trick (R179). -/
def State.firstRep (s : State) (trick : List (Nat × List Nat)) : Nat :=
  let ns := trick.flatMap fun x => x.2.filterMap fun tid => (s.thread? x.1 tid).map (·.repctr)
  match ns with
  | [] => 0
  | n :: r => r.foldl min n

/-- A thread that the spin detector demotes while others of its tag are not demoted leaves the tag (R25). -/
def State.demote (s : State) (core : Nat) : State :=
  let rs := s.readyOn core
  let low := rs.filter fun x => !x.forced && x.spinning && rs.any fun y => y.g.gid == x.g.gid && !y.spinning
  let split := low.filter fun x => x.g.threads.any fun t => t.tag == x.th.tag && t.spin != 8 && !t.exited
  split.foldl (fun acc x => acc.loneTag x.g.gid x.tid) s

/-- Is a REP unit still being issued (R179)? -/
def Issue.repeats (i : Issue) : Bool := i.pfx.rep.isSome && i.trick.any fun x => !x.2.isEmpty
def State.repeating (s : State) : Bool := s.issue.repeats
/-- The threads of a REP unit that still stand at it and may issue: a halt, a trap or a pre-emption stops them between repetitions. -/
def State.standsAt (s : State) (i : Issue) (gid tid : Nat) : Bool :=
  match s.group? gid with
  | none => false
  | some g => g.coreNo == i.core && (match g.threads[tid]? with
    | some t => t.ready && t.pc == i.upc && i.rep ≤ t.repctr && !g.blocks t && s.teamRuns g t && !s.operandWait g t
    | none => false)
def State.live (s : State) (i : Issue) : Issue :=
  { i with trick := (i.trick.map fun e => (e.1, e.2.filter (s.standsAt i e.1))).filter fun e => !e.2.isEmpty }
/-- The REP units that cores are in the middle of. -/
def State.midway (s : State) : List Issue := ((s.issue :: s.reps).map s.live).filter Issue.repeats
/-- Another core begins: the unit of the core before it is set aside when it repeats. -/
def State.setAside (s : State) (core : Nat) : State :=
  { s with issue := Issue.idle, reps := (s.issue :: s.reps).filter fun i => i.core != core && i.repeats }

/-- A REP unit whose trick has no repetition left is complete: counters return to zero, and the threads go on (R179). -/
def State.repOver (s : State) : State :=
  { s.issue.trick.foldl (fun acc e => acc.modGroup e.1 fun g => g.modThreads e.2 fun t =>
      { t.goto s.issue.npc (s.core g.coreNo).cycles with repctr := 0 }) s with issue := { s.issue with trick := [] } }
/-- Are the repetitions of the unit being issued over? -/
def Issue.repDone (i : Issue) : Bool := match i.pfx.rep with | some p => p.cnt.toNat < i.rep | none => false
/-- Begin the issue of a trick at a unit: the issue record, and the instruction that it executes. A unit that does not decode,
or that a routine may not hold, gives its trap code and the faulting word instead (R82, R86, R239). -/
def State.begin (s : State) (core lid : Nat) (pc : Word) (trick : List (Nat × List Nat)) : Except UnitError Instr × State :=
  match s.launch? lid with
  | none => (.error ⟨0x0016, pc⟩, s)
  | some l =>
    let s1 := ((s.setAside core).demote core).tick core
    let now := (s1.core core).cycles
    let s2 := trick.foldl (fun acc x => acc.modGroup x.1 fun g => g.modThreads x.2 (Thread.issued (l.regionAt pc) now)) s1
    let base : Issue := ⟨core, lid, pc, pc, pc, {}, 0, s.fresh, trick, none⟩
    if l.kernel.textSize ≤ pc.toNat then (.error ⟨0x0016, pc⟩, { s2 with issue := base })
    else match s.unitAt l pc with
      | .error e => (.error e, { s2 with issue := base })
      | .ok u =>
        let s3 := { s2 with issue := ⟨core, lid, pc, u.ipc, u.npc, u.pfx, s.firstRep trick, s.fresh, trick, none⟩ }
        (.ok u.ins, if trick.any (s.restricted u) then s3.restrictTrap u (trick.filter (s.restricted u))
          else if s3.issue.repDone then s3.repOver else s3)

/-- The next repetition of a core's REP unit: the same trick, one more cycle of the pipe. -/
def State.again (s : State) (i : Issue) : Except UnitError Instr × State :=
  let s1 := { (s.setAside i.core).tick i.core with issue := { i with id := s.fresh } }
  match s.launch? i.lid with
  | none => (.error ⟨0x0016, i.upc⟩, s1)
  | some l => match s.unitAt l i.upc with
    | .ok u => (.ok u.ins, s1)
    | .error e => (.error e, s1)

end Sys2Proof.Machine
end

