-- ==== Sys2Proof/Machine/Access.lean ====
section
/-!
DEFINITION. Memory accesses of threads: forming, translating, holding, performing and completing them (18 R295, R303 to R310, 19
R312 to R318, 20 R339 to R347, 22 R391).
-/

namespace Sys2Proof.Machine

/-! ### Places -/

/-- A physical address in a copy aperture (R297). -/
def isAperture (pa : Nat) : Bool := apertureBase ≤ pa && pa < apertureBase + 12 * dieSpan

/-- Reaches (R312): codes 0 to 4 are the scopes; 5 is everything. -/
def Place.inReach (p : Place) (die reach : Nat) : Bool :=
  match p with
  | .team _ _ _ => true
  | .phys pa => 3 ≤ reach || (reach == 2 && (if isAperture pa then (pa - apertureBase) / dieSpan else homeDie pa) == die)
  | .sync n => 3 ≤ reach || (reach == 2 && n / 4096 == die)
  | .hole _ _ => 3 ≤ reach
  | .peer _ _ _ _ => 4 ≤ reach

/-- Does an access to a place take an entry of the store-buffer share (R342)? -/
def Place.shared (p : Place) : Bool :=
  match p with
  | .phys _ | .peer _ _ _ _ => true
  | _ => false
def Place.isPeer (p : Place) : Bool :=
  match p with
  | .peer _ _ _ _ => true
  | _ => false
def Place.isTeam (p : Place) : Bool :=
  match p with
  | .team _ _ _ => true
  | _ => false

/-- Team memory of a half (R19). -/
def Team.half (t : Team) (h : Nat) : Memory := if h = 0 then t.mem else t.mem2
def Team.setHalf (t : Team) (h : Nat) (m : Memory) : Team := if h = 0 then { t with mem := m } else { t with mem2 := m }

/-- Bytes at a place. -/
def State.readPlace (s : State) (p : Place) (n : Nat) : List Byte :=
  match p with
  | .phys pa => s.physRead pa n
  | .team u h off => match s.team? u with | some t => rdBytes (t.half h) off n | none => List.replicate n 0
  | _ => List.replicate n 0
/-- Write bytes at a place, with the monitors that see it (R318). -/
def State.writePlace (s : State) (p : Place) (bs : List Byte) : State :=
  match p with
  | .phys pa => s.perform pa bs
  | .team u h off => ((s.modTeam u fun t => t.setHalf h (wrBytes (t.half h) off bs)).teamStored u h off bs.length).wake p bs.length
  | _ => s
/-- A read by a thread or engine corrects one-bit errors (R310). -/
def State.corrects (s : State) (die : Nat) (p : Place) (n : Nat) : State :=
  match p with
  | .phys pa => s.scrub pa n
  | .team u h off => s.scrubTeam die u h off n
  | _ => s
/-- A word of a run of bytes is uncorrectable (R310). -/
def State.badPlace (s : State) (p : Place) (n : Nat) : Bool :=
  match p with
  | .phys pa => s.badAt pa n
  | .team u h off => s.teamBadAt u h off n
  | _ => false
/-- One byte of a place. -/
def Place.plus (p : Place) (i : Nat) : Place :=
  match p with
  | .phys a => .phys (a + i)
  | .team u h o => .team u h (o + i)
  | p => p

/-! ### Operations -/

def AccOp.isStore : AccOp → Bool
  | .store _ => true
  | _ => false
def AccOp.isPlainLoad : AccOp → Bool
  | .load _ _ => true
  | _ => false
/-- A read-modify-write or an arm holds its thread until it is performed (R343, R345). -/
def AccOp.holds : AccOp → Bool
  | .atom _ _ _ _ | .cas _ _ _ _ | .arm => true
  | _ => false

/-- Acquire and release by order code (R344, R345). -/
def isAcq (o : Nat) : Bool := o == 1 || o == 3
def isRel (o : Nat) : Bool := o == 2 || o == 3

/-- Bytes of a memory type (R340). -/
def memBytes (t : Ty) : Nat :=
  match t with
  | .i8 | .ui8 | .b8 => 1
  | .i16 | .ui16 | .b16 => 2
  | .b64 | .i64 | .ui64 => 8
  | .b128 => 16
  | _ => 4
/-- Registers of loaded bytes (R340). -/
def loadWords (t : Ty) (bs : List Byte) : List Word :=
  match t with
  | .i8 => [BitVec.ofInt 32 (ext (BitVec.ofNat 64 (leNat bs)) 8 true)]
  | .i16 => [BitVec.ofInt 32 (ext (BitVec.ofNat 64 (leNat bs)) 16 true)]
  | _ => (List.range t.words).map fun k => BitVec.ofNat 32 (leNat ((bs.drop (4 * k)).take 4))
/-- Registers of a 32-bit or 64-bit value. -/
def valWords (t : Ty) (x : Dword) : List Word :=
  if t.words = 2 then [x.setWidth 32, x.extractLsb' 32 32] else [x.setWidth 32]

/-- The new value of an `atom` (R345). -/
def atomNew (v : Nat) (t : Ty) (old b : Dword) : Dword :=
  let w := 32 * t.words
  let half (i : Nat) : Nat :=
    convert0 .f16 rne false 0 (Val.add rne (Fmt.f16.decode (old.toNat / 2 ^ (16 * i) % 65536)) (Fmt.f16.decode (b.toNat / 2 ^ (16 * i) % 65536)))
  match v with
  | 0 =>
    match t with
    | .f32 => BitVec.ofNat 64 (convert0 .f32 rne false 0 (Val.add rne (Fmt.f32.decode old.toNat) (Fmt.f32.decode b.toNat)))
    | .f16x2 => BitVec.ofNat 64 (half 0 + 65536 * half 1)
    | _ => BitVec.ofNat 64 ((old.toNat + b.toNat) % 2 ^ w)
  | 1 => if extT t old ≤ extT t b then old else b
  | 2 => if extT t old ≤ extT t b then b else old
  | 3 => old &&& b
  | 4 => old ||| b
  | 5 => old ^^^ b
  | _ => b

/-! ### What an access waits for -/

/-- Is an access issued and not performed? -/
def State.isPending (s : State) (r : AccRef) : Bool :=
  match s.thread? r.gid r.tid with
  | some t => t.ops.any fun a => a.seq == r.seq
  | none => false
/-- The pending accesses that an ordering operation of a thread holds a place behind (R317, R318). -/
def State.heldBehind (s : State) (t : Thread) (p : Place) : List AccRef :=
  (t.holds.flatMap fun h => if p.inReach h.die h.reach then h.before else []).filter s.isPending
/-- The accesses that must be performed before one of a thread: its earlier ones to the location, save that a plain load forwards from
stores (R309, R313); those that a fence, an arm, a join or a barrier holds it behind (R314, R317, R318); for a release, the thread's
in its reach (R344); for a copy start, the thread's releases whose reach holds the aperture (R319). -/
def State.waitsFor (s : State) (g : Group) (tid : Nat) (t : Thread) (p : Place) (r : MemReq) : List AccRef :=
  let start := r.op.isStore && (match p with | .phys pa => isAperture pa | _ => false)
  let own := (t.ops.filter fun a =>
    (a.place.overlap a.size p r.size && !(r.op.isPlainLoad && !isAcq r.order && a.op.isStore))
      || (isRel r.order && a.place.inReach g.die r.scope)
      || (start && (match a.rel with | some sc => p.inReach g.die sc | none => false))).map fun a => ⟨g.gid, tid, a.seq⟩
  own ++ (s.heldBehind t p).filter fun x => !own.contains x

/-- Have all of an access's waits been performed? -/
def State.canPerform (s : State) (a : Access) : Bool := !(a.waits.any s.isPending)

/-- Pending accesses of a thread within a reach. -/
def Thread.pendingIn (t : Thread) (gid tid die reach : Nat) : List AccRef :=
  (t.ops.filter fun a => a.place.inReach die reach).map fun a => ⟨gid, tid, a.seq⟩
/-- The pending team-memory accesses of some threads, which a join's release or a barrier's orders before what its threads issue
later (R314). -/
def Group.teamPending (g : Group) (tids : List Nat) : List AccRef :=
  tids.flatMap fun i => match g.threads[i]? with | some t => t.pendingIn g.gid i g.die 1 | none => []
/-- A hold of later team-memory accesses behind some. -/
def Thread.ordered (t : Thread) (l : List AccRef) : Thread := if l.isEmpty then t else { t with holds := t.holds ++ [⟨1, 0, l⟩] }

/-- Stores that fill the thread's share (R342). -/
def Thread.shareUsed (t : Thread) : Nat := (t.ops.filter fun a => a.op.isStore && a.place.shared).length

/-! ### Completing -/

/-- Take an access off its thread's list. -/
def Thread.dropOp (t : Thread) (seq : Nat) : Thread := { t with ops := t.ops.filter fun a => a.seq != seq }
/-- Holds whose accesses have all been performed are over. -/
def State.endHolds (s : State) : State :=
  if s.groups.any fun g => g.threads.any fun t => !t.holds.isEmpty then
    { s with groups := s.groups.map fun g => { g with threads := g.threads.map fun t =>
        { t with holds := t.holds.filter fun h => h.before.any s.isPending } } }
  else s

/-- A thread that waited for an access goes on. -/
def Thread.release (t : Thread) (seq now : Nat) : Thread :=
  match t.status with
  | .access q npc => if q = seq then { t with status := .ready, pc := npc, stamp := now } else t
  | _ => t

/-- Registers stop being pending, each once. -/
def unpend (regs : List Nat) (l : List Nat) : List Nat := regs.foldl (fun l r => l.erase r) l

/-- Results of an access arrive: registers, which stay pending while other threads of its group owe their trick theirs, as the thread itself
waits that holds for it; one that had parked goes on alone (R15, R57). -/
def State.deliver (s : State) (g : Group) (tid : Nat) (a : Access) (d : Nat) (ws : List Word) : State :=
  let now := (s.core g.coreNo).cycles
  let regs := (List.range ws.length).map fun i => d + i
  let s1 := s.modThread g.gid tid fun t =>
    let u := (t.writeRegs d ws).dropOp a.seq
    let v := { u with pendV := unpend regs u.pendV }
    if a.late then s.stampReady g t (v.release a.seq now) else { v with pendT := v.pendT ++ regs.map fun r => (a.trick, r) }
  s1.trickDone g.gid a.trick

/-- The threads of a group that have still to complete an operation of an issue. -/
def Thread.awaits (trick : Nat) (t : Thread) : Bool :=
  (t.ops.any fun a => a.trick == trick && a.reads) || (match t.status with | .parked _ r _ => r.trick == trick | _ => false)
/-- Accesses of a trick have been completed together. Where others of their tag complete theirs at another time, the threads with accesses to
other cores' memory, other dies or peers get tags of their own (R25). -/
def State.splitLoads (s : State) (trick : Nat) (done : List (Nat × Nat × Bool)) : State :=
  let late := s.groups.flatMap fun g => (g.tidsOf.filter fun e => e.2.awaits trick).map fun e =>
    (g.gid, e.1, e.2.ops.any fun a => a.trick == trick && s.remote a.place g)
  let tag (e : Nat × Nat × Bool) : Option Nat := (s.thread? e.1 e.2.1).map (·.tag)
  let apart (l k : List (Nat × Nat × Bool)) : List (Nat × Nat × Bool) := l.filter fun e => e.2.2 && k.any fun x => tag x == tag e
  (apart done late ++ apart late done).foldl (fun acc e => acc.loneTag e.1 e.2.1) s

/-- The bytes a load returns: from the thread's newest pending store that stands before it, else from the place (R309). -/
def State.loadBytes (s : State) (t : Thread) (a : Access) : List Byte :=
  let base := s.readPlace a.place a.size
  (List.range a.size).map fun i =>
    let here := a.place.plus i
    let own := t.ops.foldl (fun r o =>
      if o.seq < a.seq then
        match o.op, o.place, here with
        | .store bs, .phys q, .phys p => if q ≤ p && p < q + bs.length then some (nth bs (p - q) 0) else r
        | .store bs, .team u h q, .team v k p => if u == v && h == k && q ≤ p && p < q + bs.length then some (nth bs (p - q) 0) else r
        | _, _, _ => r
      else r) none
    own.getD (nth base i 0)

/-- A bank's number through the module. -/
def bankNo (pa : Nat) : Nat := 128 * homeDie pa + homeBank pa
/-- The monitor table of a bank holds 64 entries: one more drops the oldest, whose `mwait` returns (R318). -/
def Armed.dropped (w : Armed) (s : State) : State :=
  match w with
  | .thread gid tid =>
    let now := match s.group? gid with | some g => (s.core g.coreNo).cycles | none => 0
    let done := if ((s.thread? gid tid).map Thread.inMwait).getD false then [(gid, tid)] else []
    (s.modThread gid tid fun t => { t.monitorHit now with monitor := none }).splitLate done
  | .peer _ _ _ _ => MonEntry.tell ⟨0, w⟩ s
def State.armTable (s0 : State) (e : MonEntry) : State :=
  let s := s0.tidyArms
  let l := (s.monitors.filter fun m => m.who != e.who) ++ [e]
  let mine := l.filter fun m => m.bank == e.bank
  match mine with
  | old :: _ =>
    if 64 < mine.length then old.who.dropped { s with monitors := l.filter fun m => m != old } else { s with monitors := l }
  | [] => { s with monitors := l }

/-- A thread that waits for accesses of its group before its unit can execute is ready once none is pending (R273); one that replays its
unit goes on with its replay (R306). -/
def Thread.unhold (s : State) (now : Nat) (t : Thread) : Thread :=
  match t.status with
  | .held l none =>
    if l.any s.isPending then t else { t with status := .ready, stamp := now }
  | _ => t

/-- The instruction word of the unit at which a thread stands. -/
def State.wordAt (s : State) (g : Group) (l : Launch) (tid : Nat) : Word :=
  match g.threads[tid]? with
  | some t => match s.unitAt l t.pc with | .ok u => u.ipc | .error _ => t.pc
  | none => 0
def State.faultWord (s : State) (g : Group) (tid : Nat) : Word :=
  match s.launch? g.lid with
  | some l => s.wordAt g l tid
  | none => 0
/-- The access of an issue that its thread waits for at its unit. -/
def Thread.holdsFor (t : Thread) (trick : Nat) : Option Access :=
  match t.status with
  | .access q _ => t.ops.find? fun a => a.seq == q && a.trick == trick
  | _ => none
/-- An access that has no effect leaves its thread at its unit. -/
def Thread.undone (t : Thread) (a : Access) : Thread :=
  let u := t.dropOp a.seq
  { u with status := .ready, unacked := if a.op.isStore && a.place.shared then u.unacked - 1 else u.unacked,
           pendV := match a.op with
             | .load d ty => unpend ((List.range ty.words).map fun i => d + i) u.pendV
             | _ => u.pendV }
/-- A unit has no effect in the threads of a group that still wait for it: they trap together, with the traps of those that failed (R343,
R347). -/
def State.undoUnit (s : State) (gid trick : Nat) (errs : List (Nat × TrapInfo)) : State :=
  match s.group? gid, errs with
  | some g, (_, d) :: _ =>
    let l := g.tidsOf.filterMap fun e => (e.2.holdsFor trick).map fun a => (e.1, e.2.pc, a)
    let s1 := s.modGroup gid fun h => l.foldl (fun h e => h.modThread e.1 fun t => t.undone e.2.2) h
    (s1.trickDone gid trick).raise gid trick ⟨d.cause, d.info, l.map fun e => match errs.find? fun x => x.1 == e.1 with
      | some (_, r) => ⟨e.1, e.2.1, { r with flags := r.flags ||| 1 }⟩
      | none => ⟨e.1, e.2.1, { cause := d.cause, info := d.info, word := d.word }⟩⟩
  | _, _ => s
/-- A read meets an uncorrectable word in a byte that the thread's own pending stores do not give it (R309, R310). -/
def State.readsBad (s : State) (t : Option Thread) (p : Place) (n : Nat) : Bool :=
  s.badPlace p n && (List.range n).any fun i => s.badPlace (p.plus i) 1 && !(match t with
    | some t => t.ops.any fun o => match o.op with | .store bs => o.place.overlap bs.length (p.plus i) 1 | _ => false
    | none => false)
/-- The data error that an access meets as it is performed, in a thread that waits for it at its unit (R310, R347 check 6). -/
def State.dataError (s : State) (g : Group) (tid : Nat) (t : Thread) (a : Access) : Option TrapInfo :=
  match t.holdsFor a.trick with
  | some b =>
    if b.seq = a.seq && a.reads && s.readsBad (some t) a.place a.size then
      some { cause := 0x0045, info := a.va, word := s.faultWord g tid, address := a.va,
             detailA := match a.place with | .phys pa => BitVec.ofNat 64 pa | _ => 0 }
    else none
  | none => none

/-- Perform one access at its place (R309, R313, R345). A store is acknowledged; an atomic is one step. A thread that waits at its unit for
a word that has become uncorrectable traps (R310). -/
def State.performOne (s : State) (gid tid seq : Nat) : State :=
  match s.group? gid with
  | none => s
  | some g =>
    match g.threads[tid]? with
    | none => s
    | some t =>
      match t.ops.find? fun a => a.seq == seq with
      | none => s
      | some a =>
        match s.dataError g tid t a, a.op with
        | some e, _ => s.undoUnit gid a.trick [(tid, e)]
        | none, .load d ty => (s.corrects g.die a.place a.size).deliver g tid a d (loadWords ty (s.loadBytes t a))
        | none, .store bs =>
          let s1 := s.writePlace a.place bs
          let now := (s1.core g.coreNo).cycles
          s1.modThread gid tid fun u =>
            { (u.dropOp seq).release seq now with unacked := if a.place.shared then u.unacked - 1 else u.unacked }
        | none, .atom d v ty b =>
          let old := BitVec.ofNat 64 (leNat (s.readPlace a.place a.size))
          let s1 := (s.corrects g.die a.place a.size).writePlace a.place (leBytes a.size (atomNew v.toNat ty old b).toNat)
          let s2 := s1.deliver g tid a d (valWords ty old)
          s2.modThread gid tid fun u => { u with spin := 0 }
        | none, .cas d ty o n =>
          let old := BitVec.ofNat 64 (leNat (s.readPlace a.place a.size))
          let won := old == o
          let s0 := s.corrects g.die a.place a.size
          let s1 := if won then s0.writePlace a.place (leBytes a.size n.toNat) else s0.wake a.place a.size
          let s2 := s1.deliver g tid a d (valWords ty old)
          if won then s2.modThread gid tid fun u => { u with spin := 0 } else s2
        | none, .arm =>
          let now := (s.core g.coreNo).cycles
          let s1 := s.modThread gid tid fun u => { (u.dropOp seq).release seq now with monitor := some ⟨a.place, false, none⟩ }
          match a.place with
          | .phys pa => s1.armTable ⟨bankNo pa, .thread gid tid⟩
          | _ => s1.tidyArms
        | none, .sig inc =>
          match a.place with
          | .sync n => (s.semAdd (n / 4096) (n % 4096) inc.toNat).modThread gid tid fun u => u.dropOp seq
          | _ => s
        | none, .item _ => s.modThread gid tid fun u => u.dropOp seq

/-- After an access has been performed, what it held is free: holds that are over, threads whose unit waited for it. -/
def State.freed (s : State) : State :=
  let s1 := s.endHolds
  { s1 with groups := s1.groups.map fun g => { g with threads := g.threads.map (Thread.unhold s1 (s.core g.coreNo).cycles) } }
def State.performAcc (s : State) (gid tid seq : Nat) : State := (s.performOne gid tid seq).freed

/-! ### Performing a trick's accesses together (R25, R341) -/

/-- Is a group's team saved or discarded? Its unsent accesses are context (R324). -/
def State.away (s : State) (g : Group) : Bool :=
  match s.team? g.tuid with
  | some t => t.state == .saved || t.state == .discarded
  | none => false

/-- Does an access stand with another of its trick: it meets its bytes, or both are to team memory of their own core, which completes for the
whole trick in one cycle (R25, R341)? -/
def State.standsWith (s : State) (g : Group) (o : Access) (h : Group) (a : Access) : Bool :=
  o.trick == a.trick && (o.place.overlap o.size a.place a.size
    || (o.place.isTeam && a.place.isTeam && !s.remote o.place g && !s.remote a.place h))
/-- The accesses performed with one, in ascending core lane: lane, and name. Those of a team that is away are context (R324). -/
def State.together (s : State) (h : Group) (a : Access) : List (Nat × AccRef) :=
  let l := (s.groups.filter fun g => g.coreNo == h.coreNo && !s.away g).flatMap fun g => g.tidsOf.flatMap fun e =>
    (e.2.ops.filter fun o => s.standsWith g o h a).map fun o => (e.2.lane, ⟨g.gid, e.1, o.seq⟩)
  sortBy (fun x y => x.1 < y.1) l
def State.acc? (s : State) (r : AccRef) : Option Access := (s.thread? r.gid r.tid).bind fun t => t.ops.find? fun a => a.seq == r.seq
def State.canTogether (s : State) (l : List (Nat × AccRef)) : Bool :=
  l.all fun e => match s.acc? e.2 with
    | some a => s.canPerform a
    | none => false

/-! ### Peer requests (R391) -/

def pairNo (die peer : Nat) : Nat := 16 * die + peer
def State.pair (s : State) (die peer : Nat) : Pair := tget s.pairs (pairNo die peer) Pair.reset
def State.setPair (s : State) (die peer : Nat) (p : Pair) : State := { s with pairs := tset s.pairs (pairNo die peer) p }

/-- A pair may send `n` requests: its window of 1,024 has room, and where ports reach the peer one takes flits (R387, R391). -/
def State.pairHas (s : State) (die peer n : Nat) : Bool :=
  (s.pair die peer).out.length + n ≤ 1024 && ((s.routes peer).isEmpty || !(s.nearPorts die peer).isEmpty)
def State.pairRoom (s : State) (die peer : Nat) : Bool := s.pairHas die peer 1
/-- The last request of a pair whose response, with those of all before it, has come (R392). -/
def Pair.acked (p : Pair) : Word := match p.out with | o :: _ => o.seq - 1 | [] => p.next - 1
/-- Send a request: it takes the pair's next sequence number, and says which responses have come. -/
def State.sendReq (s : State) (die peer : Nat) (w : Waiter) (token : Dword) (off len : Nat) (op : PeerOp) : State :=
  let p := s.pair die peer
  let r : PeerRequest := ⟨s.boot.position, die, p.next, p.acked, token, off, len, op⟩
  (s.setPair die peer { p with next := p.next + 1, out := p.out ++ [⟨p.next, 1, s.now, w, r⟩] }).pushTo die peer (.request r)
/-- What a thread's access asks of its target (R398). -/
def AccOp.asks (o : AccOp) : PeerOp :=
  match o with
  | .load _ _ => .load
  | .store bs => .store bs
  | .atom _ v ty b => .atom v ty b
  | .cas _ _ old new => .cas old new
  | _ => .arm

/-- Send a thread's peer access, with those of its trick to the same bytes in ascending core lane, when nothing holds any of them and its pair may
send them all (R341, R391). -/
def State.sendAcc (s : State) (r : AccRef) : State :=
  match s.group? r.gid, s.acc? r with
  | some g, some a =>
    match a.place with
    | .peer m _ _ _ =>
      let l := (s.together g a).filter fun e => match s.acc? e.2 with | some o => !o.queued | none => false
      if a.queued || s.away g || !s.canTogether l || !s.pairHas g.die m l.length then s
      else l.foldl (fun acc e => match s.acc? e.2 with
        | some o => (match o.place with
          | .peer _ _ tok off => (acc.sendReq g.die m (.thread e.2.gid e.2.tid e.2.seq) tok off o.size o.op.asks).modThread e.2.gid e.2.tid fun u =>
              { u with ops := u.ops.map fun x => if x.seq = o.seq then { x with queued := true } else x }
          | _ => acc)
        | none => acc) s
    | _ => s
  | _, _ => s
def State.sendPeers (s : State) : State :=
  (s.groups.flatMap fun g => g.tidsOf.flatMap fun e => (e.2.ops.filter fun a => a.place.isPeer && !a.queued).map fun a =>
    (⟨g.gid, e.1, a.seq⟩ : AccRef)).foldl State.sendAcc s

/-- The doorbell word that an access touches (R402). -/
def State.doorbell? (s : State) (pa n : Nat) : Option Doorbell :=
  (s.die (homeDie pa)).proxy.find? fun d => pa < d.pa + 4 && d.pa < pa + n
/-- A store to a doorbell word that is no tail-pointer write, or that is one no longer (R402, R414). -/
def State.badDoorbell (s : State) (pa : Nat) (op : AccOp) (n : Nat) : Bool :=
  match s.doorbell? pa n, op with
  | some d, .store _ => !(n == 4 && d.pa == pa && d.live)
  | some _, .atom _ _ _ _ | some _, .cas _ _ _ _ => true
  | _, _ => false
/-- A tail-pointer write waits for every earlier near store of its thread (R321, R402). -/
def State.proxyWaits (s : State) (gid tid : Nat) (t : Thread) (p : Place) (r : MemReq) : List AccRef :=
  match p with
  | .phys pa =>
    if r.op.isStore && (s.doorbell? pa r.size).isSome then 
      (t.ops.filter fun a => a.op.isStore && !a.place.isPeer).map (fun a => ⟨gid, tid, a.seq⟩) else []
  | _ => []

/-! ### Issuing -/

/-- Issue a translated access (R342 to R345): a ninth store waits for the share; an acquire, a read-modify-write and a peer access
hold the thread; a plain load leaves its registers pending. -/
def State.issueAcc (s : State) (gid tid : Nat) (r : MemReq) (p : Place) (npc : Word) : State :=
  match s.group? gid with
  | none => s
  | some g =>
    match g.threads[tid]? with
    | none => s
    | some t =>
      let now := (s.core g.coreNo).cycles
      if r.drop then s.modThread gid tid fun u => { u with status := .ready, pc := npc, stamp := now }
      else if r.op.isStore && p.shared && 8 ≤ t.shareUsed then
        s.modThread gid tid fun u => { u with status := .storeFull r npc }
      else
        let hold := isAcq r.order || r.op.holds || p.isPeer
        let a : Access := 
          ⟨t.seq, r.trick, p, r.va, r.size, r.op, s.waitsFor g tid t p r ++ s.proxyWaits gid tid t p r, r.guard,
            if isRel r.order then some r.scope else none, false, none, r.late, false⟩
        let pend := match r.op with
          | .load d ty => (List.range ty.words).map fun i => d + i
          | _ => []
        let s1 := s.modThread gid tid fun u =>
          { u with
            ops := u.ops ++ [a], seq := u.seq + 1,
            unacked := if r.op.isStore && p.shared then u.unacked + 1 else u.unacked,
            spin := if r.op.isStore then 0 else u.spin,
            pendV := u.pendV ++ pend,
            holds := if r.op = .arm then u.holds ++ [⟨5, g.die, [⟨gid, tid, t.seq⟩]⟩] else u.holds,
            status := if hold then .access t.seq npc else .ready,
            pc := if hold then u.pc else npc,
            stamp := now }
        if r.op == .arm && !p.isPeer && a.waits.isEmpty then s1.performAcc gid tid t.seq
        else if p.isPeer then s1.sendPeers
        else s1

/-- Team offsets that exist (R18, R19): the half and the offset in it. -/
def Team.locate (t : Team) (off n : Nat) : Option (Nat × Nat) :=
  if off + n ≤ t.size then some (0, off)
  else if t.paired && 0x40000 ≤ off && off - 0x40000 + n ≤ t.size then some (1, off - 0x40000)
  else none

/-- A request's target: a place; the thread's stack; a page that is absent; a trap. -/
inductive Target where
  | at (p : Place)
  | stack
  | absent (page : Nat)
  | trap (e : TrapInfo)
  deriving DecidableEq, Repr

def trapInfo (ipc : Word) (cause : BitVec 16) (info : Dword) (reason : Nat) (asid : Nat) : TrapInfo :=
  { cause := cause, info := info, reason := BitVec.ofNat 8 reason, word := ipc, address := info, detailA := BitVec.ofNat 64 asid }

/-- The checks on a store to an aperture page (R363), by reason. -/
def copyStartReason (l : Launch) (owner : Option Nat) (off : Nat) (bs : List Byte) : Option Nat :=
  let x := leNat bs
  let deal := x / 2 ^ 19 % 2 = 1
  if owner != some l.run then some 1
  else if bs.length != 16 || off != 0 then some 4
  else if !deal && l.kernel.templateCount ≤ x % 65536 then some 2
  else if x / 2 ^ 20 % 2 ^ 12 != 0 || x / 2 ^ 32 % 2 ^ 32 != 0 || (deal && x / 2 ^ 16 % 8 != 0) then some 3
  else if deal && x % 2 = 1 then some 5
  else none

/-- Decide a guarded start: an undecided guard stays in the request, a decided one leaves it. The checks of a start store are made
whatever the guard decides, before its place is known and after (R79). -/
def MemReq.decided (r : MemReq) (x : Option Bool) : MemReq :=
  match x with
  | some true => { r with guard := none }
  | some false => { r with guard := none, drop := true }
  | none => r
/-- Resolve a request for a thread (R295, R303, R304, R347): bounds, then translation, then data errors. A guarded store that a page or its
permission stops has that trap before the illegal-instruction trap of its place (DESIGN CHOICE, log 46). -/
def State.resolve (s : State) (g : Group) (l : Launch) (tid : Nat) (ipc : Word) (r : MemReq) : Target :=
  match r.space with
  | 0 =>
    if 4096 < r.va.toNat + r.size then .trap (trapInfo ipc 0x0041 r.va 0 0)
    else if !g.stackUp tid r.va.toNat then .absent (stackEntry g.gid (stackPage tid r.va.toNat))
    else if !r.op.isStore && s.stackBad g tid r.va.toNat r.size then
      .trap { (trapInfo ipc 0x0045 r.va 0 0) with detailA := BitVec.ofNat 64 ((g.stackPa tid r.va.toNat).getD 0) }
    else .stack
  | 1 =>
    match s.team? g.tuid with
    | none => .trap (trapInfo ipc 0x0042 r.va 0 0)
    | some t => match t.locate r.va.toNat r.size with
      | some (h, off) =>
        if !r.op.isStore && s.readsBad g.threads[tid]? (.team t.tuid h off) r.size then .trap (trapInfo ipc 0x0045 r.va 0 0)
        else .at (.team t.tuid h off)
      | none => .trap (trapInfo ipc 0x0042 r.va 0 0)
  | sp =>
    let rd := match r.op with | .store _ => false | _ => true
    let wr := match r.op with | .load _ _ | .arm => false | _ => true
    match s.access l.asid g.die r.va (if sp = 3 then [3] else [0, 2]) rd wr with
    | .absent => .absent (r.va.toNat / 65536)
    | .deny n => .trap (trapInfo ipc 0x0044 r.va n l.asid)
    | .ok (.phys pa) =>
      if isAperture pa then
        match r.op with
        | .store bs =>
          let d := (pa - apertureBase) / dieSpan
          let o := (pa - apertureBase) % dieSpan
          match copyStartReason l ((s.die d).channel (o / 4096)).owner (o % 4096) bs with
          | some n => .trap (trapInfo ipc 0x0048 r.va n 0)
          | none => .at (.phys pa)
        | _ => .trap (trapInfo ipc 0x0044 r.va 2 l.asid)
      else if s.badDoorbell pa r.op r.size then .trap (trapInfo ipc 0x0044 r.va 2 l.asid)
      else if r.guarded then .trap { cause := 0x0010, info := ipc.setWidth 64, word := ipc }
      else if rd && s.readsBad g.threads[tid]? (.phys pa) r.size then .trap { (trapInfo ipc 0x0045 r.va 0 0) with detailA := BitVec.ofNat 64 pa }
      else .at (.phys pa)
    | .ok p => .at p

/-- A stack access in one thread: private, performed at once (R295, R342). -/
def State.stackAcc (s : State) (gid tid : Nat) (r : MemReq) (npc : Word) : State :=
  let now := match s.group? gid with | some g => (s.core g.coreNo).cycles | none => 0
  let s0 := match s.group? gid with
    | some g => if r.op.isStore then s.stackWritten g tid r.va.toNat r.size else s.stackRead g tid r.va.toNat r.size
    | none => s
  s0.modThread gid tid fun t =>
    let u := { t with pc := npc, status := .ready, stamp := now }
    match r.op with
    | .load d ty => u.writeRegs d (loadWords ty (rdBytes t.stack r.va.toNat r.size))
    | .store bs => { u with stack := wrBytes t.stack r.va.toNat bs, spin := 0 }
    | _ => u

/-- A bad entry is reported to the errors core as its trap is raised (R304). -/
def State.reportBad (s : State) (e : TrapInfo) : State :=
  if e.cause = 0x0044 && e.reason = 4 then s.report 3 3 [e.address.toNat] else s

/-- A thread's request with its target, or its trap: its checks in the order of R347. -/
def Ctx.resolved (c : Ctx) (o : Op) (form : Ctx → Nat → Except TrapInfo MemReq) (tid : Nat) :
    Except TrapInfo (MemReq × Target) := do
  c.precheck o tid
  let r ← form c tid
  match c.s.resolve c.g c.l tid c.s.issue.ipc r with
  | .trap e => throw e
  | t => return (r, t)

/-- A thread's request with its target. -/
structure Asked where
  c : Ctx
  tid : Nat
  req : MemReq
  target : Target
  deriving DecidableEq, Repr

/-- Carry out one request (R305): its access is issued, or its thread parks. -/
def Asked.run (x : Asked) (s : State) : State :=
  let npc := x.c.s.issue.npc
  match x.target with
  | .at p => s.issueAcc x.c.g.gid x.tid x.req p npc
  | .stack => s.stackAcc x.c.g.gid x.tid x.req npc
  | .absent p => s.park x.c.g.gid x.tid x.c.l.asid p x.req npc
  | .trap _ => s
/-- The stack page that a trick's stack accesses meet absent, if any (R296). -/
def stackMiss (l : List Asked) : Option Nat :=
  l.findSome? fun x => match x.target with
    | .absent p => if x.req.stackPage then some p else none
    | _ => none
/-- The registers that an access writes. -/
def AccOp.writesRegs (o : AccOp) : List Nat :=
  match o with
  | .load d ty | .atom d _ ty _ | .cas d ty _ _ => (List.range ty.words).map fun i => d + i
  | _ => []
/-- The destinations of a group's threads whose predicate is false are pending until the last result of those that execute (R57). -/
def State.pendOthers (s : State) (c : Ctx) (regs : List Nat) : State :=
  let rest := c.tids.filter fun t => !c.exec.contains t
  match s.group? c.g.gid with
  | none => s
  | some g =>
    if rest.isEmpty || regs.isEmpty || !s.owed g c.s.issue.id then s
    else s.modGroup c.g.gid fun g => g.modThreads rest fun t => { t with pendT := t.pendT ++ regs.map fun r => (c.s.issue.id, r) }

/-- The registers that a unit writes late are pending in the threads of its trick whose predicate is false, in each group that owes a result (R57). -/
def State.pendTrick (s s0 : State) (f : Fields) (regs : Ctx → List Nat) : State :=
  s0.issue.trick.foldl (fun acc e => match s0.ctx? f e.1 e.2 with | some c => acc.pendOthers c (regs c) | none => acc) s
/-- Threads of a trick that completed a blocking unit at once while others of their tag wait there: each of both has a tag of its own
(R25) (DEDUCED, log 37). -/
def State.splitEarly (s0 : State) (f : Fields) (s : State) : State :=
  s0.issue.trick.foldl (fun acc e => match s0.ctx? f e.1 e.2 with
    | none => acc
    | some c =>
      let on (i : Nat) : Bool := ((s.thread? c.g.gid i).map (·.ready)).getD false
      (c.exec.filter fun i => c.exec.any fun k => (c.th k).tag == (c.th i).tag && on i != on k).foldl (fun acc i => acc.loneTag c.g.gid i) acc) s

/-! ### Replay (R306) -/

/-- A trap of one thread at its unit, outside an issue: a refused page, a rejected peer access, an error found later. The thread
stands ready at its unit; `id` is the issue of the unit. -/
def State.threadTrap (s : State) (gid tid id : Nat) (e : TrapInfo) : State :=
  match s.thread? gid tid with
  | none => s
  | some t =>
    let s1 := s.modThread gid tid fun u => { u with status := .ready }
    s1.raise gid id ⟨e.cause, e.info, [⟨tid, t.pc, { e with flags := e.flags ||| 1 }⟩]⟩
/-- Execute a parked or waiting request again from translation, with the same operands. -/
def State.replay (s : State) (gid tid : Nat) (r : MemReq) (npc : Word) : State :=
  match s.group? gid with
  | none => s
  | some g =>
    match s.launch? g.lid with
    | none => s
    | some l =>
      match s.resolve g l tid (s.wordAt g l tid) r with
      | .at p => s.issueAcc gid tid r p npc
      | .stack => s.stackAcc gid tid r npc
      | .absent p => s.park gid tid l.asid p r npc
      | .trap e => (s.reportBad e).threadTrap gid tid r.trick e
/-- The stack page that a request of a thread meets absent, if any. -/
def State.stackAbsent (s : State) (gid tid : Nat) (r : MemReq) : Option Nat :=
  match s.group? gid with
  | none => none
  | some g => if g.stackUp tid r.va.toNat then none else some (stackEntry gid (stackPage tid r.va.toNat))
/-- The stack accesses of one trick replay together: all are performed, or all park on the next absent page (R296). -/
def State.replayStack (s : State) (l : List (Nat × Nat × MemReq × Word)) : State :=
  match l.findSome? fun e => s.stackAbsent e.1 e.2.1 e.2.2.1 with
  | some pg => l.foldl (fun acc e => acc.park e.1 e.2.1 (match s.group? e.1 with | some g => s.asidOf g | none => 0) pg e.2.2.1 e.2.2.2) s
  | none => l.foldl (fun acc e => acc.replay e.1 e.2.1 e.2.2.1 e.2.2.2) s

/-- After an entry of its share frees, a thread's waiting store goes on (R342). -/
def State.retryStore (s : State) (gid tid : Nat) : State :=
  match s.thread? gid tid with
  | none => s
  | some t =>
    match t.status with
    | .storeFull r npc => if r.drop || t.shareUsed < 8 then s.replay gid tid r npc else s
    | _ => s

/-- Perform an access and those that stand with it, when all may be performed. -/
def State.performTrick (s : State) (gid tid seq : Nat) : State :=
  match s.group? gid, s.acc? ⟨gid, tid, seq⟩ with
  | some g, some a =>
    let l := s.together g a
    if s.canTogether l && !s.away g then
      let done := l.filterMap fun e => match s.acc? e.2, s.group? e.2.gid with
        | some o, some h => if o.reads then some (e.2.gid, e.2.tid, s.remote o.place h) else none
        | _, _ => none
      ((l.foldl (fun acc e => (acc.performAcc e.2.gid e.2.tid e.2.seq).retryStore e.2.gid e.2.tid) s).splitLoads a.trick done).sendPeers
    else s
  | _, _ => s

/-! ### Reads by an engine or a vector unit (R215, R273, R282) -/

/-- Why a unit that reads memory as a whole does not go on: a trap of all its executing threads, or of some; a page that is absent;
accesses that must be performed first; the reservation table is full, or a destination register is pending. -/
inductive MatStop where
  | all (e : TrapInfo)
  | each (errs : List (Nat × TrapInfo))
  | absent (va : Dword)
  | wait (ops : List AccRef)
  | busy
  deriving DecidableEq, Repr
/-- An operand's trap is the group's. -/
def lift {α : Type} (x : Except TrapInfo α) : Except MatStop α :=
  match x with
  | .ok a => .ok a
  | .error e => .error (.all e)

/-- Cut a run of bytes at a page boundary; in team memory, at the half of a paired team whose halves are whole (R19). -/
def splitPage (va n : Nat) : List (Nat × Nat) :=
  let room := 65536 - va % 65536
  if n ≤ room then [(va, n)] else [(va, room), ((va + room) % 2 ^ 64, n - room)]
def State.splitTeam (s : State) (g : Group) (va n : Nat) : List (Nat × Nat) :=
  let whole := match s.team? g.tuid with | some t => t.paired && t.size == 0x40000 | none => false
  if whole && va < 0x40000 && 0x40000 < va + n then [(va, 0x40000 - va), (0x40000, va + n - 0x40000)] else [(va, n)]

/-- Bytes at a place as some threads see them: with their own pending stores (R309). -/
def State.seenBytes (s : State) (ts : List Thread) (p : Place) (n : Nat) : List Byte :=
  let base := s.readPlace p n
  (List.range n).map fun i =>
    let own := ts.foldl (fun r t => t.ops.foldl (fun r o =>
      match o.op, o.place, p with
      | .store bs, .phys q, .phys a => if q ≤ a + i && a + i < q + bs.length then some (nth bs (a + i - q) 0) else r
      | .store bs, .team u h q, .team v k a =>
        if u == v && h == k && q ≤ a + i && a + i < q + bs.length then some (nth bs (a + i - q) 0) else r
      | _, _, _ => r) r) none
    own.getD (nth base i 0)

/-- The pieces of a read by a unit of a group, each with its target: it reads the pending stores of every thread of `ex`, the last one's first. -/
def Ctx.pieces (c : Ctx) (s : State) (ex : List Nat) (space : Nat) (ps : List (Nat × Nat)) : List (List ((Nat × Nat) × Target)) :=
  let lead := ex.getLast?.getD 0
  let g := c.g.modThread lead fun t => { t with ops := ex.flatMap fun i => (c.th i).ops }
  ps.map fun p => (if space = 1 then s.splitTeam c.g p.1 p.2 else splitPage p.1 p.2).map fun x =>
    (x, s.resolve g c.l lead s.issue.ipc
      { space := space, va := BitVec.ofNat 64 x.1, size := x.2, op := .load 0 .b32, order := 0, scope := 0, guard := none, trick := s.issue.id })
/-- A read by a unit: a trap before an absent page, an absent page before a wait. -/
def Ctx.fetch (c : Ctx) (s : State) (ex : List Nat) (space : Nat) (ps : List (Nat × Nat)) : Except MatStop (List (List Byte)) :=
  let parts := c.pieces s ex space ps
  let all := parts.flatten
  match all.findSome? fun x => (match x.2 with | .trap e => some e | _ => none) with
  | some e => .error (.all e)
  | none =>
    match all.findSome? fun x => (match x.2 with | .absent _ => some x.1.1 | _ => none) with
    | some va => .error (.absent (BitVec.ofNat 64 va))
    | none =>
      let waits := all.flatMap fun x => match x.2 with
        | .at p => ex.flatMap fun i => s.waitsFor c.g i (c.th i) p
            { space := space, va := 0, size := x.1.2, op := .load 0 .b32, order := 0, scope := 0, guard := none, trick := s.issue.id }
        | _ => []
      if waits.isEmpty then
        .ok (parts.map fun l => l.flatMap fun x => match x.2 with
          | .at p => s.seenBytes (ex.map c.th) p x.1.2
          | _ => List.replicate x.1.2 0)
      else .error (.wait waits)
/-- What a read leaves in memory: one-bit errors corrected (R310). -/
def Ctx.readMarks (c : Ctx) (space : Nat) (ps : List (Nat × Nat)) (s : State) : State :=
  (c.pieces s c.exec space ps).flatten.foldl (fun acc x => match x.2 with | .at p => acc.corrects c.g.die p x.1.2 | _ => acc) s

/-- Threads of a group park on a page with their whole unit, operands as they are (R305, R306); `keep` says that they keep their cohesion
tag (R273). -/
def State.parkUnit (s : State) (c : Ctx) (o : Op) (tids : List Nat) (va : Dword) (keep : Bool) : State :=
  let x := c.snapshot o
  let s1 := s.dropFromTrick c.g.gid tids
  let tag (i : Nat) : Nat := (c.th i).tag
  let s2 := tids.foldl (fun acc t => acc.park c.g.gid t c.l.asid (va.toNat / 65536) (retryReq retryScr va false x) s.issue.upc) s1
  if keep then s2.modGroup c.g.gid fun g => tids.foldl (fun g i => g.modThread i fun t => { t with tag := tag i }) g else s2

/-- Threads of a group wait with their unit for accesses that must be performed first; in a replay they keep their operands (R306). -/
def State.holdUnit (s : State) (c : Ctx) (o : Op) (tids : List Nat) (l : List AccRef) : State :=
  let again := if c.s.issue.only.isSome then some (retryReq retryScr 0 false (c.snapshot o)) else none
  s.modGroup c.g.gid fun g => g.modThreads tids fun t => { t with status := .held l again }

/-! ### Memory units -/

/-- The team-memory accesses of an issue on a core. -/
def State.teamOps (s : State) (core trick : Nat) : List AccRef :=
  (s.groups.filter fun g => g.coreNo == core).flatMap fun g => g.tidsOf.flatMap fun e =>
    (e.2.ops.filter fun a => a.trick == trick && a.place.isTeam).map fun a => ⟨g.gid, e.1, a.seq⟩
/-- What a group's part of a memory unit does before its requests are carried out: its threads whose predicate is false go on, or the group
traps (R347). -/
def Ctx.beginMem (c : Ctx) (res : List (Nat × Except TrapInfo (MemReq × Target))) (s : State) : State :=
  match failures res with
  | [] => s.advance c.g.gid (c.tids.filter fun t => !c.exec.contains t)
  | errs => (errs.foldl (fun a e => a.reportBad e.2) s).unitTrap c c.exec errs
/-- Carry out a trick's requests (R296, R305, R341): an absent stack page parks them all; otherwise each access is issued in ascending
lane, or its thread parks (DEDUCED, log 15), and team memory is performed in the cycle of issue (R25, R342). -/
def State.runMem (s : State) (l : List Asked) : State :=
  match stackMiss l with
  | some pg => l.foldl (fun acc x => acc.park x.c.g.gid x.tid x.c.l.asid pg x.req x.c.s.issue.npc) s
  | none =>
    let s1 := l.foldl (fun acc x => x.run acc) s
    let s2 := (s1.teamOps s.issue.core s.issue.id).foldl (fun acc r => acc.performTrick r.gid r.tid r.seq) s1
    l.foldl (fun acc x => if x.c.exec.head? == some x.tid then acc.pendOthers x.c x.req.op.writesRegs else acc) s2
/-- A memory unit: `form` makes each executing thread's request. Any trap is the whole group's (R347). `keep` decides a guarded
start. -/
def memUnit (o : Op) (f : Fields) (s : State) (keep : Ctx → MemReq → MemReq)
    (form : Ctx → Nat → Except TrapInfo MemReq) : Out :=
  let parts := s.issue.trick.filterMap fun e => (s.ctx? f e.1 e.2).map fun c => (c, c.exec.map fun t => (t, c.resolved o form t))
  let asked := parts.flatMap fun p =>
    if (failures p.2).isEmpty then (successes p.2).map fun e => ⟨p.1, e.1, keep p.1 e.2.1, e.2.2⟩ else []
  .next ((parts.foldl (fun acc p => p.1.beginMem p.2 acc) s).runMem asked)
/-- Every request stands as it is. -/
def keepAll (_ : Ctx) (r : MemReq) : MemReq := r

end Sys2Proof.Machine
end

