-- ==== Sys2Proof/Machine/Engine.lean ====
section
/-!
DEFINITION. The matrix engine of a quad (15 R249 to R264, 16 R275 to R283, 14 R245, R246): elements, passes, drains, a group's view
of the quad, and the order in which its commands take effect.
-/

namespace Sys2Proof.Machine

/-! ### Elements of a slot row (R251, R275) -/

/-- Bits of an element of a slot format; K is 512 divided by it. -/
def elemBits (c : BitVec 8) : Nat :=
  match c.toNat with
  | 1 | 2 => 4
  | 7 | 8 | 9 => 16
  | _ => 8
def rowK (c : BitVec 8) : Nat := 512 / elemBits c
def isCplx (c : BitVec 8) : Bool := c == 6 || c == 7
/-- Formats that a slot may hold (R271). -/
def slotLoads (c : BitVec 8) : Bool := c == 1 || c == 2 || c == 3 || c == 4 || c == 6 || c == 7 || c == 8 || c == 9 || isB8 c
def isFloatFmt (c : BitVec 8) : Bool := c == 8 || c == 9 || isB8 c

/-- Element `k` of `w` bits of a row of bytes, low nibble first, little-endian. -/
def elemOf (row : List Byte) (w k : Nat) : Nat :=
  if w = 4 then (nth row (k / 2) 0).toNat / 16 ^ (k % 2) % 16
  else if w = 16 then (nth row (2 * k) 0).toNat + 256 * (nth row (2 * k + 1) 0).toNat
  else (nth row k 0).toNat
/-- Bytes of a row of elements of `w` bits. -/
def bytesOf (w : Nat) : List Nat → List Byte
  | [] => []
  | x :: r =>
    if w = 4 then
      match r with
      | [] => [BitVec.ofNat 8 x]
      | y :: t => BitVec.ofNat 8 (x + 16 * y) :: bytesOf w t
    else leBytes (w / 8) x ++ bytesOf w r

/-- A signed or unsigned pattern of `w` bits. -/
def sgn (w : Nat) (x : Nat) (signed : Bool) : Int := ext (BitVec.ofNat 64 x) w signed
/-- The integer elements of a row. -/
def rowInts (c : BitVec 8) (row : List Byte) : List Int :=
  (List.range (rowK c)).map fun k => sgn (elemBits c) (elemOf row (elemBits c) k) (c == 1 || c == 3)
/-- The complex elements of a row: real part in the low half (R199, R275). -/
def rowCplx (c : BitVec 8) (row : List Byte) : List (Int × Int) :=
  (List.range (rowK c)).map fun k =>
    let w := elemBits c
    let h := w / 2
    let x := elemOf row w k
    (sgn h (x % 2 ^ h) true, sgn h (x / 2 ^ h) true)
/-- The floating elements of a row, flushed under FZ. -/
def rowVals (c : BitVec 8) (fz : Bool) (row : List Byte) : List Val :=
  match fmtOfCode c with
  | some F => (List.range (rowK c)).map fun k => flushIn F fz (F.decode (elemOf row (elemBits c) k))
  | none => []
/-- The operand-sum unit (R249). -/
def rowSum (c : BitVec 8) (row : List Byte) : Int :=
  if isFloatFmt c then 0
  else if isCplx c then (rowCplx c row).foldl (fun s x => s + x.1 + x.2) 0
  else (rowInts c row).foldl (· + ·) 0

def zeroRow : List Byte := List.replicate 64 0
def Slot.row (o : Slot) (r : Nat) : List Byte := nth o.rows r zeroRow
/-- Block-scale codes of a row, one per element; 0x80 without blocks. -/
def Slot.scaleCodes (o : Slot) (r : Nat) : List Nat :=
  let n := blockSize o.block
  (List.range (rowK o.fmt)).map fun k => if n = 0 then 0x80 else (nth (nth o.scales r []) (k / n) 0).toNat

/-! ### Cells -/

def Tile.cell (t : Tile) (i j : Nat) : Cell := tget t.cells (64 * i + j) Cell.zero
def Tile.setCell (t : Tile) (i j : Nat) (c : Cell) : Tile :=
  { t with cells := if c = Cell.zero then tdel t.cells (64 * i + j) else tset t.cells (64 * i + j) c }

def int32Max : Int := 2 ^ 31 - 1
def int32Min : Int := -(2 ^ 31)

/-- An integer addition to a cell (R245, R263): pinned cells keep; otherwise clamp with a flag, or wrap. -/
def Cell.addInt (c : Cell) (sat : Bool) (x : Int) : Cell :=
  if c.ps || c.ns then c
  else
    let v := c.val.toInt + x
    if sat then
      if int32Max < v then { c with val := BitVec.ofInt 96 int32Max, ps := true }
      else if v < int32Min then { c with val := BitVec.ofInt 96 int32Min, ns := true }
      else { c with val := BitVec.ofInt 96 v }
    else { c with val := (BitVec.ofInt 32 v).signExtend 96 }

def cellMax : Int := 2 ^ 95 - 1

/-- Accumulate (R261). -/
def Cell.accumulate (c : Cell) (q : Val) : Cell :=
  if c.nan then c
  else match q with
    | .nan => { c with nan := true }
    | .inf neg =>
      if c.ps || c.ns then (if (!neg && c.ns) || (neg && c.ps) then { c with nan := true } else c)
      else if neg then { c with val := BitVec.ofInt 96 (-cellMax), ns := true }
      else { c with val := BitVec.ofInt 96 cellMax, ps := true }
    | .fin _ _ _ =>
      if c.ps || c.ns then c
      else
        let v := c.val.toInt + (q.toInt?).getD 0
        if cellMax < v then { c with val := BitVec.ofInt 96 cellMax, ps := true }
        else if v < -cellMax then { c with val := BitVec.ofInt 96 (-cellMax), ns := true }
        else { c with val := BitVec.ofInt 96 v }

/-- One product of a floating pass (R260): the element values and their block-scale codes. -/
def Cell.product (c : Cell) (anchor : Int) (a b : Val) (ea eb : Nat) : Cell :=
  if ea = 0xFF || eb = 0xFF then c.accumulate .nan
  else if ea = 0 || eb = 0 then c.accumulate (.fin false 0 1)
  else
    let p := (a.mul b).mul (Val.scaled false 1 ((ea : Int) - 128 + eb - 128))
    match p with
    | .fin _ _ _ =>
      let q := roundTo (.int 96 true) rne 0 (p.mul (Val.scaled false 1 (-anchor)))
      let c1 := if (q.mul (Val.scaled false 1 anchor)).cmp p != 0 then { c with inexact := true } else c
      c1.accumulate q
    | v => c.accumulate v

/-- FloatPass (R260) over a row and a column, in ascending k. -/
def Cell.floatPass (c : Cell) (anchor : Int) : List (Val × Nat) → List (Val × Nat) → Cell
  | (a, ea) :: x, (b, eb) :: y => (c.product anchor a b ea eb).floatPass anchor x y
  | _, _ => c

def dot (x y : List Int) : Int := (List.zipWith (· * ·) x y).foldl (· + ·) 0
/-- The two sums of R264. -/
def cdot (conj : Bool) (x y : List (Int × Int)) : Int × Int :=
  (List.zip x y).foldl (fun s e =>
    let wi := if conj then -e.2.2 else e.2.2
    (s.1 + e.1.1 * e.2.1 - e.1.2 * wi, s.2 + e.1.1 * wi + e.1.2 * e.2.1)) (0, 0)

/-- A pass on the rows of some threads (R255, R275). -/
def Tile.pass (t : Tile) (k : PassKind) (sa sb : Slot) (tids : List Nat) : Tile :=
  match k with
  | .int sat =>
    let bs := (List.range t.n).map fun j => rowInts sb.fmt (sb.row j)
    tids.foldl (fun t i =>
      let a := rowInts sa.fmt (sa.row i)
      (List.range t.n).foldl (fun t j => t.setCell i j ((t.cell i j).addInt sat (dot a (nth bs j [])))) t) t
  | .float fz =>
    let bs := (List.range t.n).map fun j => List.zip (rowVals sb.fmt fz (sb.row j)) (sb.scaleCodes j)
    tids.foldl (fun t i =>
      let a := List.zip (rowVals sa.fmt fz (sa.row i)) (sa.scaleCodes i)
      (List.range t.n).foldl (fun t j => t.setCell i j ((t.cell i j).floatPass t.anchor a (nth bs j []))) t) t
  | .cplx conj sat =>
    let bs := (List.range (t.n / 2)).map fun j => rowCplx sb.fmt (sb.row j)
    tids.foldl (fun t i =>
      let a := rowCplx sa.fmt (sa.row i)
      (List.range (t.n / 2)).foldl (fun t j =>
        let s := cdot conj a (nth bs j [])
        let t1 := t.setCell i (2 * j) ((t.cell i (2 * j)).addInt sat s.1)
        t1.setCell i (2 * j + 1) ((t1.cell i (2 * j + 1)).addInt sat s.2)) t) t

/-- `mzpc` (R245, R264, R278): the zero point times the row's sum leaves every cell of its column or pair. -/
def Tile.zpc (t : Tile) (sa : Slot) (zp : Int) (tids : List Nat) : Tile :=
  tids.foldl (fun t i => (List.range t.n).foldl (fun t j =>
    let r := if isCplx sa.fmt then j / 2 else j
    t.setCell i j ((t.cell i j).addInt true (-(zp * nth sa.sums r 0)))) t) t

/-! ### Cells in registers and memory (R279, R280) -/

def Cell.flags (c : Cell) : Nat :=
  (if c.nan then 8 else 0) + (if c.ps then 4 else 0) + (if c.ns then 2 else 0) + (if c.inexact then 1 else 0)
def Cell.setFlags (c : Cell) (f : Nat) (int : Bool) : Cell :=
  { c with nan := !int && f / 8 % 2 = 1, ps := f / 4 % 2 = 1, ns := f / 2 % 2 = 1, inexact := !int && f % 2 = 1 }
def Cell.read (c : Cell) (p : CellPart) : Word :=
  match p with
  | .lo => c.val.extractLsb' 0 32
  | .mid => c.val.extractLsb' 32 32
  | .hi => c.val.extractLsb' 64 32
  | .flg => BitVec.ofNat 32 c.flags
def Cell.write (c : Cell) (p : CellPart) (int : Bool) (w : Word) : Cell :=
  match p, int with
  | .lo, true => { c with val := w.signExtend 96, ps := false, ns := false }
  | .lo, false => { c with val := c.val.extractLsb' 32 64 ++ w }
  | .mid, _ => { c with val := c.val.extractLsb' 64 32 ++ w ++ c.val.extractLsb' 0 32 }
  | .hi, _ => { c with val := w ++ c.val.extractLsb' 0 64 }
  | .flg, _ => c.setFlags w.toNat int
/-- A cell from its 16-byte image. -/
def Cell.ofImage (bs : List Byte) : Cell :=
  (⟨BitVec.ofNat 96 (leNat (bs.take 12)), false, false, false, false⟩ : Cell).setFlags ((nth bs 12 0).toNat) false
/-- An image as an integer tile holds it. -/
def Cell.asInt (c : Cell) : Cell :=
  { c with val := (c.val.extractLsb' 0 32 : BitVec 32).signExtend 96, nan := false, inexact := false }

/-! ### Drains (R262, R282) -/

/-- The destination format of a drain. -/
def DrainSpec.target (p : DrainSpec) : Fmt :=
  match p.ty with
  | .f32 => .f32
  | .f16 => .f16
  | .bf16 => .bf16
  | t => if tyFmt t then (fmtOfCode p.fmt).getD .f32 else .int (Ty.width t) (Ty.signed t)

/-- A cell's exact value before rounding point two (R262, R263). -/
def Tile.drainVal (t : Tile) (mode : Mode) (c : Cell) (m b : Word) : Val :=
  let mul := Fmt.f32.decode m.toNat
  let add := Fmt.f32.decode b.toNat
  if t.mode = 2 then
    if c.nan then .nan
    else if c.ps then .inf false
    else if c.ns then .inf true
    else
      let ts := if t.tsset then (Fmt.f32.decode t.tsA.toNat).mul (Fmt.f32.decode t.tsB.toNat) else .fin false 1 1
      Val.add mode ((((Val.ofInt c.val.toInt).mul (Val.scaled false 1 t.anchor)).mul ts).mul mul) add
  else Val.add mode ((Val.ofInt (c.val.extractLsb' 0 32 : BitVec 32).toInt).mul mul) add

/-- Clamp an integer. -/
def clampInt (lo hi v : Int) : Int := max lo (min hi v)
/-- One cell of a drain: its code, or the case that faults. `l` is the draw. -/
def Tile.drainCell (t : Tile) (p : DrainSpec) (l : Word) (i j : Nat) : Except PolicyCase Nat :=
  let c := t.cell i j
  if p.rq then
    let x := (c.val.extractLsb' 0 32 : BitVec 32).toInt * nth p.mult j 0
    let q := ((roundTo (.int 96 true) p.mode l (.fin (x < 0) x.natAbs (2 ^ p.shift))).toInt?).getD 0
    let out := match p.target with
      | .int _ true => clampInt (-128) 127 (q + p.zo)
      | _ => clampInt 0 255 (q + p.zo)
    .ok (wrapTo out 8)
  else
    let e := nth p.table j (0x3F800000, 0)
    convert p.target p.mode p.policy p.fz l (t.drainVal p.mode c e.1 e.2)

/-- A row's codes from column `j` on, stepping a generator once per cell in a stochastic mode (R209); the first fault stops it. -/
def Tile.drainRow (t : Tile) (p : DrainSpec) (i : Nat) : Nat → Nat → Word → Except (Nat × PolicyCase) (List Nat)
  | 0, _, _ => .ok []
  | n + 1, j, l =>
    let l' := drawFor p.mode l
    match t.drainCell p l' i j with
    | .error e => .error (j, e)
    | .ok c => match t.drainRow p i n (j + 1) l' with
      | .ok r => .ok (c :: r)
      | .error e => .error e
/-- A generator after `n` draws. -/
def drawn (mode : Mode) : Nat → Word → Word
  | 0, l => l
  | n + 1, l => drawn mode n (drawFor mode l)
/-- Pack codes of `w` bits into registers (R281). -/
def packWords (w : Nat) (cs : List Nat) : List Word :=
  let per := 32 / w
  (List.range ((cs.length * w + 31) / 32)).map fun r =>
    BitVec.ofNat 32 ((List.range per).foldl (fun s e => s + nth cs (r * per + e) 0 % 2 ^ w * 2 ^ (w * e)) 0)

/-! ### A command's effect on the quad -/

/-- The effect on the records (R249, R250, R252, R253, R269, R271). -/
def MatOp.mark (op : MatOp) (gid : Nat) (q : Quad) : Quad :=
  match op with
  | .claimTile t n => q.setTile t { q.tile t with n := n, mode := 0, tsset := false, holder := some gid }
  | .claimSlot o => q.setSlot o { q.slot o with filled := false, nrows := 0, holder := some gid }
  | .release h => if h < 0x40 then q.setSlot h { q.slot h with holder := none } else q.setTile (h - 0x40) { q.tile (h - 0x40) with holder := none }
  | .clear t mode anchor aslot => q.setTile t { q.tile t with mode := mode, anchor := anchor, aslot := aslot, tsset := false }
  | .oload o rows _ ts fmt block bscale =>
    q.setSlot o { q.slot o with ts := ts, fmt := fmt, block := block, bscale := bscale, nrows := rows.length, filled := true }
  | .pass (.float _) t a b =>
    if (q.tile t).tsset then q
    else q.setTile t { q.tile t with tsA := (q.slot a).ts, tsB := (q.slot b).ts, tsset := true }
  | _ => q

/-- The effect on cells and slot data. -/
def MatOp.data (op : MatOp) (tids : List Nat) (q : Quad) : Quad :=
  match op with
  | .claimTile t _ | .clear t _ _ _ => q.setTile t { q.tile t with cells := [] }
  | .oload o rows scales _ fmt _ _ => q.setSlot o { q.slot o with rows := rows, scales := scales, sums := rows.map (rowSum fmt) }
  | .pass k t a b => q.setTile t ((q.tile t).pass k (q.slot a) (q.slot b) tids)
  | .zpc t a zp => q.setTile t ((q.tile t).zpc (q.slot a) zp tids)
  | .aload t rows =>
    let int := (q.tile t).mode = 1
    q.setTile t (rows.foldl (fun x r => ((List.range r.2.length).zip r.2).foldl (fun x e =>
      x.setCell r.1 e.1 (if int then e.2.asInt else e.2)) x) (q.tile t))
  | .awrite t part vals =>
    let int := (q.tile t).mode = 1
    q.setTile t (vals.foldl (fun x e => x.setCell e.1 e.2.1 ((x.cell e.1 e.2.1).write part int e.2.2)) (q.tile t))
  | _ => q

/-- A group's view of the quad (R253): its own commands have taken effect in issue order. Records only. -/
def Quad.view (q : Quad) (gid : Nat) : Quad :=
  q.cmds.foldl (fun v c => if c.gid = gid then c.op.mark gid v else v) q

/-- Commands that take effect as soon as they are first (R284). -/
def MatOp.instant : MatOp → Bool
  | .claimTile _ _ | .claimSlot _ | .release _ | .clear _ _ _ _ | .awrite _ _ _ => true
  | _ => false

/-- Is a command first among its group's commands on its handles (R246)? -/
def firstIn (cid gid : Nat) (handles : List Nat) : List MatCmd → Bool
  | [] => true
  | c :: r => c.cid = cid || (!(c.gid = gid && c.handles.any handles.contains) && firstIn cid gid handles r)
def Quad.first (q : Quad) (c : MatCmd) : Bool := firstIn c.cid c.gid c.handles q.cmds
def Quad.dropCmd (q : Quad) (cid : Nat) : Quad := { q with cmds := q.cmds.filter fun c => c.cid != cid }
/-- Cycles of a quad: those of its most advanced core. -/
def State.quadNow (s : State) (qn : Nat) : Nat := (List.range 4).foldl (fun m i => max m (s.core (4 * qn + i)).cycles) 0

/-- A command takes effect and completes. -/
def Quad.commit (q : Quad) (c : MatCmd) : Quad := (c.op.mark c.gid (c.op.data c.tids q)).dropCmd c.cid

/-- Instant commands that are first and decided take effect, one after another. -/
def Quad.settle : Nat → Quad → Quad
  | 0, q => q
  | n + 1, q =>
    match q.cmds.find? fun c => c.op.instant && c.guard.isNone && q.first c with
    | some c => (q.commit c).settle n
    | none => q

/-- Threads that wait for matrix commands that have all completed go on (R284). -/
def Thread.matrixDone (q : Quad) (now : Nat) (t : Thread) : Thread :=
  match t.status with
  | .matrix cids npc =>
    if q.cmds.any fun c => cids.contains c.cid then t else { t with status := .ready, pc := npc, stamp := now }
  | _ => t
/-- After a change of a quad's commands: what can take effect does, and the waiting threads go on (DEDUCED, log 42). -/
def State.settleQuad (s : State) (qn : Nat) : State :=
  let q := (s.quad qn).settle (s.quad qn).cmds.length
  let s1 := s.setQuad qn q
  { s1 with groups := s1.groups.map fun g =>
      if g.quadNo = qn then { g with threads := g.threads.map (Thread.matrixDone q (s1.core g.coreNo).cycles) } else g }

/-! ### Deciding guards (R178, R259) -/

/-- The registers that an `aread` or `adrain` holds pending. -/
def MatOp.destRegs (op : MatOp) : List Nat :=
  match op with
  | .aread _ _ _ d => [d]
  | .drain _ d p => (List.range ((p.cols * p.target.width + 31) / 32)).map fun i => d + i
  | _ => []
/-- The registers of a command's threads are pending no more, nor are those of its issue's other threads (R57, R259). -/
def State.unpend (s : State) (c : MatCmd) : State :=
  s.modGroup c.gid fun g =>
    let h := g.modThreads c.tids fun t => s.stampReady g t { t with pendV := Machine.unpend c.op.destRegs t.pendV }
    { h with threads := h.threads.map fun t =>
        if t.pendT.any fun e => e.1 == c.id then s.stampReady g t { t with pendT := t.pendT.filter fun e => e.1 != c.id } else t }

/-- A decided stochastic drain takes its draws in its threads' program order (R209, DEDUCED, log 16): the generators' values now, and their
values after the row. -/
def State.takeDraws (s : State) (c : MatCmd) : MatCmd × State :=
  match c.op with
  | .drain t d p =>
    if p.mode = msr then
      let seeds := c.tids.filterMap fun i => (s.thread? c.gid i).map fun th => (i, th.lfsr)
      ({ c with op := .drain t d { p with seeds := seeds } },
       s.modGroup c.gid fun g => g.modThreads c.tids fun th => { th with lfsr := drawn p.mode p.cols th.lfsr })
    else (c, s)
  | _ => (c, s)

/-- A guard's slot resolves: the group's undecided commands take effect or are removed. -/
def State.decideMat (s : State) (qn gid gs : Nat) (val : Bool) : State :=
  let q := s.quad qn
  let hit (c : MatCmd) : Bool := c.gid == gid && (match c.guard with | some p => p.gs.toNat == gs | none => false)
  let s1 := q.cmds.foldl (fun acc c =>
    if hit c then
      match c.guard with
      | some p =>
        if val != p.sns then
          let r := acc.takeDraws { c with guard := none }
          r.2.setQuad qn { r.2.quad qn with cmds := (r.2.quad qn).cmds.map fun x => if x.cid = c.cid then r.1 else x }
        else (acc.unpend c).setQuad qn ((acc.quad qn).dropCmd c.cid)
      | none => acc
    else acc) s
  s1.settleQuad qn

end Sys2Proof.Machine
end

