-- ==== Sys2Proof/Machine/Copy.lean ====
section
/-!
DEFINITION. Copy channels, templates and the movement of elements (21 R362 to R375, 12 R213), with every step of a copy from its
start store to its increment.
-/

namespace Sys2Proof.Machine

/-! ### Templates (R366, R367) -/

/-- A dimension: extent, source stride, destination stride. -/
structure Dim where
  extent : Nat
  ss : Int
  ds : Int
  deriving DecidableEq, Repr

/-- A template as its 64 bytes give it. -/
structure Template where
  src : Nat
  dst : Nat
  grant : Dword
  inc : Nat
  mark : Nat
  low : Nat
  sem : Nat
  crc : Bool
  idem : Bool
  slot : Nat
  xf : Nat
  ndims : Nat
  esize : Nat
  dstSp : Nat
  srcSp : Nat
  resv : Nat
  dims : List Dim
  deriving DecidableEq, Repr

def fieldOf (x lo n : Nat) : Nat := x / 2 ^ lo % 2 ^ n
def le (bs : List Byte) (o n : Nat) : Nat := leNat ((bs.drop o).take n)

def Template.ofBytes (b : List Byte) : Template :=
  let comp := le b 0x18 8
  let ctl := le b 0x20 4
  let dim (k : Nat) : Dim :=
    let x := le b (0x24 + 7 * k) 7
    ⟨fieldOf x 0 16, (BitVec.ofNat 20 (fieldOf x 16 20)).toInt, (BitVec.ofNat 20 (fieldOf x 36 20)).toInt⟩
  { src := le b 0 8, dst := le b 8 8, grant := BitVec.ofNat 64 (le b 0x10 8), inc := fieldOf comp 48 16,
    mark := fieldOf comp 3 45 * 8, low := fieldOf comp 0 3, sem := fieldOf ctl 20 12, crc := fieldOf ctl 19 1 = 1,
    idem := fieldOf ctl 18 1 = 1, slot := fieldOf ctl 15 3, xf := fieldOf ctl 13 2, ndims := fieldOf ctl 11 2 + 1,
    esize := fieldOf ctl 8 3, dstSp := fieldOf ctl 6 2, srcSp := fieldOf ctl 4 2, resv := fieldOf ctl 0 4,
    dims := [dim 0, dim 1, dim 2, dim 3] }

/-- The bytes of entry n of a launch's template table. -/
def State.templateImage (s : State) (l : Launch) (n : Nat) : List Byte := s.loadedBytes (l.kernel.templateBase + 64 * n) 64
/-- The template of a copy that has begun (R366). -/
def Copy.tmpl (c : Copy) : Template := .ofBytes c.image
def Copy.idem (c : Copy) : Bool := c.tmpl.idem

def Template.used (t : Template) : List Dim := t.dims.take t.ndims
def Template.count (t : Template) : Nat := t.used.foldl (fun n d => n * d.extent) 1
def Template.bytes (t : Template) : Nat := 2 ^ t.esize

/-- Formats of a converting copy (R371). -/
def copySlotOk (img : BitVec 128) : Bool :=
  let f := slotFmt img
  (f == 3 || f == 4 || f == 5 || f == 8 || f == 9 || isB8 f) && slotBlock img == 0
/-- Element sizes of the two sides; none where a rule of R370 or R371 fails. -/
def Template.sizes (t : Template) (img : BitVec 128) : Option (Nat × Nat) :=
  match t.xf with
  | 2 => if t.esize ≤ 3 && (t.used.all fun d => d.ss == 0) && t.count % 32 == 0 then some (t.bytes, t.bytes) else none
  | 3 =>
    let n := elemBits (slotFmt img) / 8
    let n := if slotFmt img = 5 then 2 else n
    if !copySlotOk img then none
    else if t.esize = 2 then some (4, n)
    else if t.bytes = n then some (n, 4)
    else none
  | _ => some (t.bytes, t.bytes)

/-- A template that begins (R368). -/
def Template.ok (t : Template) (flags : BitVec 16) (img : BitVec 128) : Bool :=
  t.resv == 0 && t.low == 0 && t.esize ≤ 4 && (t.used.all fun d => d.extent != 0) && ((t.dims.drop t.ndims).all fun d => d == ⟨0, 0, 0⟩)
    && !(t.xf == 1 && t.ndims == 1) && !(t.crc && (t.mark == 0 || flags.getLsbD 0))
    && ((t.dstSp == 2) == (t.grant != 0)) && (t.sizes img).isSome

/-! ### Index tuples and addresses (R369) -/

/-- Every index tuple in ascending order, i0 fastest; a tuple lists i0 first. -/
def tuples : List Dim → List (List Nat)
  | [] => [[]]
  | d :: r => (tuples r).flatMap fun t => (List.range d.extent).map fun i => i :: t

def dimSum (f : Dim → Int) (ds : List Dim) (t : List Nat) : Int :=
  (List.zip ds t).foldl (fun s e => s + f e.1 * e.2) 0
/-- The tuple as the destination strides see it: transpose swaps the two innermost indices. -/
def Template.dstTuple (t : Template) (x : List Nat) : List Nat :=
  match t.xf, x with
  | 1, a :: b :: r => b :: a :: r
  | _, _ => x
def wrap64 (i : Int) : Nat := (i % (2 ^ 64 : Nat)).toNat
def Template.srcAt (t : Template) (sb e : Nat) (x : List Nat) : Nat := wrap64 (sb + e * dimSum Dim.ss t.used x)
def Template.dstAt (t : Template) (db e : Nat) (x : List Nat) : Nat := wrap64 (db + e * dimSum Dim.ds t.used (t.dstTuple x))

/-! ### An engine's accesses (R372) -/

/-- Leaf types of a copy space. -/
def spaceTypes (sp : Nat) : List Nat :=
  match sp with
  | 0 => [0]
  | 1 => [4]
  | 2 => [3]
  | _ => [5]

/-- What an engine's access meets. -/
inductive Eng where
  | ok (p : Place)
  | absent (page : Nat)
  | refused
  deriving DecidableEq, Repr

def State.engine (s : State) (asid die va sp : Nat) (write : Bool) : Eng :=
  match s.access asid die (BitVec.ofNat 64 va) (spaceTypes sp) (!write) write with
  | .ok p => .ok p
  | .absent => .absent (va / 65536)
  | .deny _ => .refused

/-- Why an engine's run of accesses stops: it waits for a page, it needs bytes of a peer, or it fails with a status or reason. -/
inductive EngStop where
  | page (pg : Nat) (write : Bool)
  | ask (va n : Nat) (r : PeerAsk)
  | fail (code : Nat)
  deriving DecidableEq, Repr

/-- Cut a run at a page boundary. -/
def cutPage (va n : Nat) : List (Nat × Nat) :=
  let room := 65536 - va % 65536
  if n ≤ room then [(va, n)] else [(va, room), ((va + room) % 2 ^ 64, n - room)]

/-- The places of a run of bytes. -/
def State.engPlaces (s : State) (asid die sp va n code : Nat) (write : Bool) : Except EngStop (List (Place × Nat)) :=
  (cutPage va n).mapM fun p => match s.engine asid die p.1 sp write with
    | .ok q => .ok (q, p.2)
    | .absent pg => .error (.page pg write)
    | .refused => .error (.fail code)

/-- Bytes that peers have returned to an engine, by virtual address. -/
abbrev Got := List (Nat × List Byte)
def gotByte (got : Got) (va : Nat) : Option Byte := got.findSome? fun e => if e.1 ≤ va then e.2[va - e.1]? else none
def gotRun (got : Got) (va n : Nat) : Option (List Byte) := (List.range n).mapM fun i => gotByte got (va + i)
/-- One run of an engine's source in this module's memory, or beyond a bridge: what the partner answers is free, and its poisoned answer
is bad data (R411). -/
def State.engGet (s : State) (p : Place) (n bad : Nat) : Except EngStop (List Byte) :=
  match p with
  | .phys pa => match s.bridgeAt pa with
    | none => .ok (s.readPlace p n)
    | some (port, off) => match Config.bridgeRead s.choices port off n with
      | some bs => .ok (sized n bs)
      | none => .error (.fail bad)
  | _ => .ok (s.readPlace p n)
/-- Bytes that an engine read, and where. -/
abbrev EngData := List Byte × List (Place × Nat)
/-- Read a run: a word with uncorrectable check bits fails it; bytes of a peer that have not come are asked for, one run at a time. -/
def State.engRead (s : State) (asid die sp va n code bad : Nat) (got : Got) : Except EngStop EngData := do
  let ps ← s.engPlaces asid die sp va n code false
  if ps.any fun e => s.badPlace e.1 e.2 then throw (.fail bad)
  let parts ← (List.zip (cutPage va n) ps).mapM fun x => match x.2.1 with
    | .peer m _ tok off => match gotRun got x.1.1 x.1.2 with
      | some bs => .ok bs
      | none => .error (.ask x.1.1 x.1.2 ⟨m, tok, off, x.1.2, .load⟩)
    | p => s.engGet p x.1.2 bad
  return (parts.flatten, ps)
/-- What an engine's reads leave in memory: one-bit errors corrected (R310). -/
def State.engMarks (s : State) (die : Nat) (ps : List (Place × Nat)) : State := ps.foldl (fun a e => a.corrects die e.1 e.2) s

/-- Write bytes at places found before; a peer's are left to the requests that carry them. -/
def State.engWrite (s : State) (ps : List (Place × Nat)) (bs : List Byte) : State :=
  (ps.foldl (fun (a : State × List Byte) e => (a.1.writePlace e.1 (a.2.take e.2), a.2.drop e.2)) (s, bs)).1
/-- A copy's writes: those to a bridge's windows leave for the partner, in order (R320, R411). -/
def State.copyPut (s : State) (ps : List (Place × Nat)) (bs : List Byte) : State :=
  (ps.foldl (fun (a : State × List Byte) e => (match e.1 with
    | .phys pa => match a.1.bridgeAt pa with
      | some (port, off) => { a.1 with answers := a.1.answers ++ [.bridgeWrite port off (a.2.take e.2)] }
      | none => a.1.writePlace e.1 (a.2.take e.2)
    | _ => a.1.writePlace e.1 (a.2.take e.2), a.2.drop e.2)) (s, bs)).1
/-- The peer writes of bytes at places, under a grant (R372). -/
def peerAsks (grant : Dword) : List (Place × Nat) → List Byte → List PeerAsk
  | [], _ => []
  | (p, n) :: r, bs => (match p with
      | .peer m _ _ off => [⟨m, grant, off, n, .store (bs.take n)⟩]
      | _ => []) ++ peerAsks grant r (bs.drop n)

/-! ### Transforms (R370, R371) -/

/-- One element of `n` bits at bit `i` of a byte list. -/
def bitsAt (bs : List Byte) (i n : Nat) : Nat := leNat bs / 2 ^ i % 2 ^ n

/-- The 32 entries of a base-delta block with element size `e`. -/
def expandBlock (e w : Nat) (base : Nat) (deltas : List Byte) : List Nat :=
  (List.range 32).map fun k =>
    (((base : Int) + (BitVec.ofNat w (bitsAt deltas (w * k) w)).toInt) % (2 ^ (8 * e) : Nat)).toNat

/-- The delta width of a header; none where it is bad. -/
def deltaWidth (h : Byte) : Option Nat :=
  let w := h.toNat % 32
  if 32 ≤ h.toNat || w = 0 || 16 < w then none else some w

/-- Read `n` blocks of a stream (R370). -/
def State.readBlocks (s : State) (asid die sp e : Nat) (got : Got) : Nat → Nat → Except EngStop (List Nat × List (Place × Nat))
  | 0, _ => .ok ([], [])
  | n + 1, va => do
    let h ← s.engRead asid die sp va 1 3 5 got
    match deltaWidth (nth h.1 0 0) with
    | none => throw (.fail 7)
    | some w =>
      let b ← s.engRead asid die sp ((va + 1) % 2 ^ 64) (e + 4 * w) 3 5 got
      let r ← s.readBlocks asid die sp e got n ((va + 1 + e + 4 * w) % 2 ^ 64)
      return (expandBlock e w (leNat (b.1.take e)) (b.1.drop e) ++ r.1, h.2 ++ b.2 ++ r.2)

/-- The slot's format of a converting engine operation. -/
def engFmt (img : BitVec 128) : Fmt := (fmtOfCode (slotFmt img)).getD .f32
/-- Convert one element between binary32 and the slot's format; a fault action stops (R371). -/
def engConvert (img : BitVec 128) (narrowing : Bool) (x : Nat) : Option Nat :=
  let mode := if slotRnd img = msr then rne else slotRnd img
  let F := engFmt img
  match (if narrowing then convert F mode (slotPol img) false 0 (Fmt.f32.decode x)
         else convert .f32 mode (slotPol img) false 0 (F.decode (x % 2 ^ F.width))) with
  | .ok c => some c
  | .error _ => none

/-! ### The checksum (R374) -/

/-- CRC-32C, reflected, one bit and one byte. -/
def crcBit (c : Word) : Word := if c.getLsbD 0 then (c >>> 1) ^^^ 0x82F63B78 else c >>> 1
def crcByte (c : Word) (b : Byte) : Word :=
  (List.range 8).foldl (fun x _ => crcBit x) (c ^^^ b.setWidth 32)
def crc32c (bs : List Byte) : Word := ~~~(bs.foldl crcByte 0xFFFFFFFF)

/-- One produced element: its tuple, destination address and bytes. -/
abbrev Produced := List Nat × Nat × List Byte

/-- The index that dstride_0 multiplies, taken out of a tuple: what names its destination row. -/
def Template.rowOf (t : Template) (x : List Nat) : List Nat := (t.dstTuple x).drop 1
/-- The bytes of a row in ascending address order; a later element's byte stands. -/
def rowBytes (l : List Produced) : Tab Byte :=
  l.foldl (fun m e => ((List.range e.2.2.length).zip e.2.2).foldl (fun m b => tset m ((e.2.1 + b.1) % 2 ^ 64) b.2) m) []
def Template.checksum (t : Template) (l : List Produced) : Word :=
  let rows := ((l.map fun e => t.rowOf e.1).eraseDups).map fun r => rowBytes (l.filter fun e => t.rowOf e.1 == r)
  let low (r : Tab Byte) : Nat := match r with | e :: _ => e.1 | [] => 0
  crc32c ((sortBy (fun a b => low a < low b) rows.reverse).flatMap fun r => r.map (·.2))

/-! ### Beginning a copy -/

/-- What a copy will do once its source is known: the produced elements, their places, and what was read for them. -/
structure CopyPlan where
  items : List Produced
  places : List (List (Place × Nat))
  reads : List (Place × Nat)
  deriving DecidableEq, Repr

/-- Source elements in index order, and where they were read. -/
def State.copySource (s : State) (asid die : Nat) (t : Template) (se sb : Nat) (got : Got) : Except EngStop (List Nat × List (Place × Nat)) :=
  if t.xf = 2 then s.readBlocks asid die t.srcSp se got (t.count / 32) sb
  else do
    let l ← (tuples t.used).mapM fun x => s.engRead asid die t.srcSp (t.srcAt sb se x) se 3 5 got
    return (l.map fun e => leNat e.1, l.flatMap fun e => e.2)

def Copy.srcBase (c : Copy) : Nat := (c.tmpl.src + 64 * c.srcOff.toNat) % 2 ^ 64
def Copy.dstBase (c : Copy) : Nat := (c.tmpl.dst + 64 * c.dstOff.toNat) % 2 ^ 64
def Copy.img (c : Copy) (l : Launch) : BitVec 128 := nth l.kernel.slots c.tmpl.slot 0
/-- The destination bytes of a copy: addresses and element size. -/
def Copy.spans (c : Copy) (l : Launch) : List (Nat × Nat) :=
  match c.tmpl.sizes (c.img l) with
  | none => []
  | some (_, de) => (tuples c.tmpl.used).map fun x => (c.tmpl.dstAt c.dstBase de x, de)
/-- The whole of R368 to R371: the produced elements and their destination places, or why the copy waits or stops. -/
def State.copyPlan (s : State) (l : Launch) (die : Nat) (c : Copy) : Except EngStop CopyPlan := do
  let t := c.tmpl
  let img := c.img l
  if !t.ok c.flags img then throw (.fail 1)
  match t.sizes img with
  | none => throw (.fail 1)
  | some (se, de) =>
    let vs ← s.copySource c.asid die t se c.srcBase c.got
    let outs ← vs.1.mapM fun v => if t.xf = 3 then
        (match engConvert img (se == 4) v with | some w => .ok w | none => .error (.fail 6))
      else .ok v
    let items : List Produced := (List.zip (tuples t.used) outs).map fun e => (e.1, t.dstAt c.dstBase de e.1, leBytes de e.2)
    let places ← items.mapM fun e => s.engPlaces c.asid die t.dstSp e.2.1 de 4 true
    return ⟨items, places, vs.2⟩

def State.modCopy (s : State) (die chan cid : Nat) (f : Copy → Copy) : State :=
  let d := s.die die
  let ch := d.channel chan
  s.setDie die (d.setChannel chan { ch with queue := ch.queue.map fun c => if c.cid = cid then f c else c })
def State.copy? (s : State) (die chan cid : Nat) : Option Copy := ((s.die die).channel chan).queue.find? fun c => c.cid == cid

/-- The fault buffer of a die's engines, beside those of its cores. -/
def engineCore (die : Nat) : Nat := 768 + die
/-- Ask the memory core for a page (R372, R465). -/
def State.pageAsk (s : State) (die asid pg : Nat) (write : Bool) : State := s.faultEntry (engineCore die) ⟨asid, pg, write, none⟩

/-- An engine's request leaves for its peer. -/
def PeerAsk.send (a : PeerAsk) (s : State) (die : Nat) (w : Waiter) : State := s.sendReq die a.module w a.token a.off a.len a.op
/-- A copy's peer writes leave in order while their pairs may send (R387, R391). -/
def State.copyPump (s : State) (die chan cid : Nat) : State :=
  match s.copy? die chan cid with
  | none => s
  | some c =>
    let r := c.toSend.foldl (fun (x : State × List PeerAsk) a =>
      if x.2.isEmpty && x.1.pairRoom die a.module then (a.send x.1 die (.copy die chan cid), []) else (x.1, x.2 ++ [a])) (s, [])
    r.1.modCopy die chan cid fun c => { c with toSend := r.2, outstanding := c.outstanding + (c.toSend.length - r.2.length) }
/-- All that a copy has written has been acknowledged. -/
def Copy.quiet (c : Copy) : Bool := c.toSend.isEmpty && c.outstanding == 0
/-- Payload writes of a plan: near, far and expansion bytes at once, a bridge's as they leave, peer bytes as requests. -/
def State.writePlan (s : State) (die chan cid : Nat) (t : Template) (p : CopyPlan) : State :=
  let l := List.zip p.items p.places
  let s1 := l.foldl (fun a e => a.copyPut e.2 e.1.2.2) (s.engMarks die p.reads)
  (s1.modCopy die chan cid fun c =>
    { c with phase := .payload 0, crc := if t.crc then t.checksum p.items else 0,
             count := p.items.foldl (fun n e => n + e.2.2.length) 0, got := [],
             toSend := l.flatMap fun e => peerAsks t.grant e.2 e.1.2.2 }).copyPump die chan cid

/-- Active copies of a channel: begun and not complete. -/
def Copy.active (c : Copy) : Bool :=
  match c.phase with
  | .queued => false
  | _ => true
/-- The copy of a channel that may begin (R364, R365, R375): the first that has not, decided, at most four active, and under SER
alone. -/
def Channel.next (ch : Channel) : Option Copy :=
  match ch.queue.find? fun c => !c.active with
  | none => none
  | some c =>
    let act := (ch.queue.filter Copy.active).length
    if c.guard.isSome || 4 ≤ act || (c.flags.getLsbD 2 && act != 0) then none else some c

/-- A channel with a saved copy begins none of its later copies (R375). -/
def State.savedBefore (s : State) (die chan cid : Nat) : Bool :=
  s.teams.any fun t => t.copies.any fun e => e.1 == die && e.2.1 == chan && e.2.2.cid < cid
/-- Has a begun copy payload to write yet? -/
def Copy.writing (c : Copy) : Bool :=
  match c.phase with
  | .reading => true
  | .payload _ => !c.quiet
  | _ => false
/-- The destination of a copy (R292): its memory, or the peer module that its address names (DEDUCED, log 35). A saved copy's template is read
anew. -/
def State.copyDest (s : State) (die : Nat) (c : Copy) : Nat × Option Nat :=
  let x : Copy := if c.image.isEmpty then (match s.launch? c.lid with | some l => { c with image := s.templateImage l c.template } | none => c) else c
  (x.tmpl.dstSp, if x.tmpl.dstSp = 2 then
    match s.engPlaces x.asid die 2 x.dstBase 1 4 true with
    | .ok ((.peer m _ _ _, _) :: _) => some m
    | _ => none
    else none)
/-- The copies before one of its channel that have payload to write. -/
def State.earlier (s : State) (die chan : Nat) (c : Copy) : List Copy :=
  (((s.die die).channel chan).queue.takeWhile fun x => x.cid != c.cid).filter Copy.writing
/-- A copy of its channel and destination that began before one was squashed, and is to run again (R375). -/
def State.runsAgain (s : State) (die chan : Nat) (c : Copy) : Bool :=
  s.teams.any fun t => t.copies.any fun e => e.1 == die && e.2.1 == chan && e.2.2.cid < c.cid && s.copyDest die e.2.2 == s.copyDest die c
/-- A copy writes nothing while an earlier one of its channel has payload to write at a byte of its destination: so no later write makes a byte
stale that its postmark speaks for (R292). -/
def State.mustWait (s : State) (l : Launch) (die chan : Nat) (c : Copy) : Bool :=
  s.runsAgain die chan c || (s.earlier die chan c).any fun x =>
    x.tmpl.dstSp == c.tmpl.dstSp && (match s.launch? x.lid with
      | some k => (x.spans k).any fun a => (c.spans l).any fun b => a.1 < b.1 + b.2 && b.1 < a.1 + a.2
      | none => false)
/-- A postmark speaks for every earlier copy of the channel to its destination too, so it waits for their payloads (R292). -/
def State.markWaits (s : State) (die chan : Nat) (c : Copy) : Bool :=
  s.runsAgain die chan c || (s.earlier die chan c).any fun x => s.copyDest die x == s.copyDest die c
def State.stopCopy (s : State) (die chan cid n : Nat) : State :=
  s.modCopy die chan cid fun c => { c with phase := .payload (BitVec.ofNat 8 n), got := [], toSend := [] }
/-- Move a begun copy on to its payload, or stop it, or let it wait for a page, for a peer's bytes or for an earlier copy. -/
def State.moveCopy (s : State) (die chan cid : Nat) : State :=
  match s.copy? die chan cid with
  | none => s
  | some c =>
    match c.phase, c.ask, s.launch? c.lid with
    | .reading, none, some l =>
      if c.squashed then s
      else match s.copyPlan l die c with
        | .ok p => if s.mustWait l die chan c then s else s.writePlan die chan cid c.tmpl p
        | .error (.page pg w) => s.pageAsk die c.asid pg w
        | .error (.ask va n r) =>
          if s.pairRoom die r.module then
            (r.send s die (.copy die chan cid)).modCopy die chan cid fun c => { c with ask := some (va, n), outstanding := c.outstanding + 1 }
          else s
        | .error (.fail n) => s.stopCopy die chan cid n
    | _, _, _ => s

/-- COPY_BEGIN: begun copies that waited move on where they can; then the next copy begins: its template is read, and its elements move
(R366, R368). -/
def State.copyBegin (s0 : State) (die chan : Nat) : State :=
  let s := ((s0.die die).channel chan).queue.foldl (fun acc c => acc.moveCopy die chan c.cid) s0
  match ((s.die die).channel chan).next with
  | none => s
  | some c =>
    match s.launch? c.lid with
    | none => s
    | some l =>
      if s.savedBefore die chan c.cid then s
      else (s.modCopy die chan c.cid fun c => { c with phase := .reading, image := s.templateImage l c.template }).moveCopy die chan c.cid

/-! ### Record, postmark, increment (R373) -/

/-- The space of a copy's record and postmark: scratchpad, or the peer of its destination. -/
def Template.markSpace (t : Template) : Nat := if t.dstSp = 2 then 2 else 0
/-- Write a record or postmark where its leaf allows it: near, or at the destination's peer under the tmpls grant. -/
def State.markWrite (s : State) (die chan : Nat) (c : Copy) (t : Template) (va : Nat) (bs : List Byte) : Except EngStop State :=
  let near := s.engPlaces c.asid die 0 va bs.length 4 true
  match near with
  | .ok ps => .ok (s.engWrite ps bs)
  | .error (.page pg w) => .error (.page pg w)
  | .error (.fail n) =>
    if t.markSpace = 2 then
      let home : Option Nat := match s.engPlaces c.asid die 2 c.dstBase 1 4 true with
        | .ok ((.peer m _ _ _, _) :: _) => some m
        | _ => none
      match s.engPlaces c.asid die 2 va bs.length 4 true with
      | .ok ps =>
        let l := peerAsks t.grant ps bs
        if l.all fun a => home == some a.module then
          .ok ((s.modCopy die chan c.cid fun c => { c with toSend := l }).copyPump die chan c.cid)
        else .error (.fail n)
      | .error e => .error e
    else .error (.fail n)
  | .error e => .error e

/-- CHECKSUM_RECORD: CRC and byte count before the postmark. -/
def State.checksumRecord (s : State) (die chan cid : Nat) : State :=
  match s.copy? die chan cid with
  | none => s
  | some c =>
    match c.phase with
    | .payload st =>
      if !c.quiet || c.squashed then s.copyPump die chan cid
      else
        let t := c.tmpl
        let move (p : CopyPhase) (s : State) : State := s.modCopy die chan cid fun c => { c with phase := p }
        if st != 0 || !t.crc then move (.record st) s
        else match s.markWrite die chan c t (t.mark - 8) (leBytes 4 c.crc.toNat ++ leBytes 4 (c.count % 2 ^ 32)) with
          | .ok s1 => move (.record st) s1
          | .error (.page pg w) => s.pageAsk die c.asid pg w
          | .error (.ask _ _ _) => s
          | .error (.fail n) => move (.record (BitVec.ofNat 8 n)) s
    | _ => s

/-- What a copy whose postmark cannot be written ends with: the letter of its stop says so alone (R373). -/
def markStatus (st : BitVec 8) (n : Nat) : BitVec 8 := if st = 0 then BitVec.ofNat 8 n else st
/-- POSTMARK (R291): sequence number, status, channel. -/
def State.postmark (s : State) (die chan cid : Nat) : State :=
  match s.copy? die chan cid with
  | none => s
  | some c =>
    match c.phase with
    | .record st =>
      if !c.quiet || c.squashed then s.copyPump die chan cid
      else
        let t := c.tmpl
        let move (st : BitVec 8) (s : State) : State := s.modCopy die chan cid fun c => { c with phase := .mark st }
        if t.mark = 0 || c.flags.getLsbD 0 then move st s
        else if s.markWaits die chan c then s
        else
          let w := (c.number.getD 0).toNat + st.toNat * 2 ^ 48 + chan * 2 ^ 56
          match s.markWrite die chan c t t.mark (leBytes 8 w) with
          | .ok s1 => move st s1
          | .error (.page pg wr) => s.pageAsk die c.asid pg wr
          | .error (.ask _ _ _) => s
          | .error (.fail n) => move (markStatus st n) s
    | _ => s

/-- COPY_INCREMENT: the semaphore of the starting die, the letter of a copy that stopped, and the queue's entry. -/
def State.copyIncrement (s : State) (die chan cid : Nat) : State :=
  match s.copy? die chan cid with
  | none => s
  | some c =>
    match c.phase with
    | .mark st =>
      if !c.quiet || c.squashed then s.copyPump die chan cid
      else
        let t := c.tmpl
        let s1 := if t.inc = 0 || c.flags.getLsbD 1 then s else s.semAdd die t.sem t.inc
        let s2 := if st = 0 then s1 else s1.report 2 4 [c.lid, chan, (c.number.getD 0).toNat, st.toNat]
        let d := s2.die die
        let ch := d.channel chan
        s2.setDie die (d.setChannel chan { ch with queue := ch.queue.filter fun x => x.cid != cid })
    | _ => s

/-! ### Starting a copy (R291, R365) -/

/-- The channel of an aperture address: die and number. -/
def apertureChannel (pa : Nat) : Nat × Nat := ((pa - apertureBase) / dieSpan, (pa - apertureBase) % dieSpan / 4096)
def dealBit (bs : List Byte) : Bool := leNat bs / 2 ^ 19 % 2 = 1

/-- A pending start store of a thread that nothing holds. -/
def State.startStore (s : State) (gid tid seq : Nat) (deal : Bool) : Option (Group × Thread × Access × Nat × List Byte) :=
  match s.group? gid with
  | none => none
  | some g =>
    match g.threads[tid]? with
    | none => none
    | some t =>
      match t.ops.find? fun a => a.seq == seq with
      | none => none
      | some a => match a.op, a.place with
        | .store bs, .phys pa => if isAperture pa && s.canPerform a && !s.away g && dealBit bs == deal then some (g, t, a, pa, bs) else none
        | _, _ => none

/-- The start store is performed: its entry frees, and a waiting store goes on. -/
def State.startDone (s : State) (g : Group) (tid seq : Nat) : State :=
  let now := (s.core g.coreNo).cycles
  (s.modGroup g.gid fun h => h.modThread tid fun t => { (t.dropOp seq).release seq now with unacked := t.unacked - 1 }).retryStore g.gid tid

/-- The next sequence number of a channel. -/
def Channel.number (ch : Channel) : BitVec 48 × Channel := (ch.seqno + 1, { ch with seqno := ch.seqno + 1 })

/-- COPY_ACCEPT: the channel takes a start store when it holds fewer than 16 copies. -/
def State.copyAccept (s : State) (gid tid seq : Nat) : State :=
  match s.startStore gid tid seq false with
  | none => s
  | some (g, _, a, pa, bs) =>
    let dc := apertureChannel pa
    let d := s.die dc.1
    let ch := d.channel dc.2
    if 16 ≤ ch.queue.length then s
    else match s.launch? g.lid with
      | none => s
      | some l =>
        let n := if a.guard.isNone then ch.number else (0, ch)
        let num : Option (BitVec 48) := if a.guard.isNone then some n.1 else none
        let c : Copy :=
          { cid := s.fresh, lid := l.lid, tuid := g.tuid, asid := l.asid, template := leNat bs % 65536,
            flags := BitVec.ofNat 16 (leNat bs / 65536), srcOff := BitVec.ofNat 32 (leNat bs / 2 ^ 64),
            dstOff := BitVec.ofNat 32 (leNat bs / 2 ^ 96), guard := a.guard, gid := gid, number := num,
            image := [], squashed := false, phase := .queued, crc := 0, count := 0, got := [], ask := none, toSend := [],
            outstanding := 0 }
        (s.bump.setDie dc.1 (d.setChannel dc.2 { n.2 with queue := ch.queue ++ [c] })).startDone g tid seq

/-! ### Guards (R178, R365) -/

/-- Decide the copies of a group that wait on a guard slot: true takes a number, false leaves the queue. -/
def Channel.decide (ch : Channel) (gid gs : Nat) (val : Bool) : Channel :=
  ch.queue.foldl (fun acc c =>
    match c.guard with
    | some p =>
      if c.gid = gid && p.gs.toNat = gs then
        if val != p.sns then
          let n := acc.number
          { n.2 with queue := acc.queue ++ [{ c with guard := none, number := some n.1 }] }
        else acc
      else { acc with queue := acc.queue ++ [c] }
    | none => { acc with queue := acc.queue ++ [c] }) { ch with queue := [] }
def State.decideCopies (s : State) (gid gs : Nat) (val : Bool) : State :=
  { s with dies := s.dies.map fun d => (d.1, { d.2 with channels := d.2.channels.map fun c => (c.1, c.2.decide gid gs val) }) }

/-- Decide a waiting request's guard: its own, or in the guard slots of a unit that replays, where the first `gset` counts. -/
def MemReq.decide (r : MemReq) (gs : Nat) (val : Bool) : MemReq :=
  match r.unit, r.guard with
  | some x, _ => if nth x.g gs 0 = 0 then { r with unit := some { x with g := x.g.set gs (if val then 1 else 2) } } else r
  | none, some p => if p.gs.toNat = gs then r.decided (some (val != p.sns)) else r
  | none, none => r
/-- Decide a thread's start store that waits for an entry of its share or for a page (R342, R305). -/
def Thread.decideWait (t : Thread) (gs : Nat) (val : Bool) : Thread :=
  match t.status with
  | .storeFull r npc => { t with status := .storeFull (r.decide gs val) npc }
  | .parked pg r npc => { t with status := .parked pg (r.decide gs val) npc }
  | .held l again => { t with status := .held l (again.map fun r => r.decide gs val) }
  | _ => t
/-- Decide a thread's start stores that are still in its store buffer. -/
def Thread.decideOps (t0 : Thread) (gs : Nat) (val : Bool) : Thread :=
  let t := t0.decideWait gs val
  t.ops.foldl (fun u a =>
    match a.guard with
    | some p =>
      if p.gs.toNat = gs then
        if val != p.sns then { u with ops := u.ops.map fun o => if o.seq = a.seq then { o with guard := none } else o }
        else { u.dropOp a.seq with unacked := u.unacked - 1 }
      else u
    | none => u) t
/-- A `gset` decides every command of its group that waits on the slot. -/
def State.decideGuards (s : State) (g : Group) (gs : Nat) (val : Bool) : State :=
  let s1 := (s.decideMat g.quadNo g.gid gs val).decideCopies g.gid gs val
  let s2 := s1.modGroup g.gid fun h => { h with threads := h.threads.map fun t => t.decideOps gs val }
  (List.range g.threads.length).foldl (fun acc i => acc.retryStore g.gid i) s2

/-! ### The drain limit (R375, R445) -/

/-- A later copy of the team that the pre-emption waits for, to the same destination, waits for one: it is not squashed, since both could not
complete then (R292, R375) (DEDUCED, log 35). -/
def State.awaited (s : State) (die : Nat) (ch : Channel) (c : Copy) : Bool :=
  c.writing && ((ch.queue.dropWhile fun x => x.cid != c.cid).drop 1).any fun x =>
    x.tuid == c.tuid && x.active && !x.idem && s.copyDest die x == s.copyDest die c
/-- DRAIN_LIMIT: a team's begun idempotent copies that are not complete are squashed; they wait for a replay. -/
def State.squash (s : State) (tuid die : Nat) (ch : Channel) : Channel :=
  { ch with queue := ch.queue.map fun c =>
      if c.tuid = tuid && c.active && c.idem && !s.awaited die ch c then { c with squashed := true, toSend := [] } else c }
def State.drainLimit (s : State) (tuid : Nat) : State :=
  match s.team? tuid with
  | none => s
  | some t =>
    match t.drainBy with
    | none => s
    | some due =>
      let s1 := s.atLeast due
      { s1 with dies := s1.dies.map fun d => (d.1, { d.2 with channels := d.2.channels.map fun c => (c.1, s1.squash tuid d.1 c.2) }) }

/-! ### One meaning per row -/

/-- COPY_ACCEPT (R365). -/
def execCopyAccept (gid tid seq : Nat) (s : State) : Out := .next (s.copyAccept gid tid seq)
/-- COPY_BEGIN (R368). -/
def execCopyBegin (die chan : Nat) (s : State) : Out := .next (s.copyBegin die chan)
/-- CHECKSUM_RECORD (R373). -/
def execChecksumRecord (die chan cid : Nat) (s : State) : Out := .next (s.checksumRecord die chan cid)
/-- POSTMARK (R291, R373). -/
def execPostmark (die chan cid : Nat) (s : State) : Out := .next (s.postmark die chan cid)
/-- COPY_INCREMENT (R373). -/
def execCopyIncrement (die chan cid : Nat) (s : State) : Out := .next (s.copyIncrement die chan cid)
/-- DRAIN_LIMIT (R375). -/
def execDrainLimit (tuid : Nat) (s : State) : Out := .next (s.drainLimit tuid)

end Sys2Proof.Machine
end

