-- ==== Sys2Proof/Machine/Float.lean ====
section
/-!
DEFINITION. Class 3: floating point (13 R216 to R227).
-/

namespace Sys2Proof.Machine

/-- Is a type packed in two halves (R216)? -/
def Ty.packed : Ty → Bool
  | .f16x2 | .bf16x2 => true
  | _ => false
/-- The code of one element of an operand (R216). -/
def elemCode (t : Ty) (x : Dword) (i : Nat) : Nat :=
  match t with
  | .f32 => x.toNat % 2 ^ 32
  | _ => x.toNat / 2 ^ (16 * i) % 65536
/-- The elements of a type: one, or two halves. -/
def elems (t : Ty) : List Nat := if Ty.packed t then [0, 1] else [0]
/-- A result word of element codes: f16 and bf16 leave [31:16] zero (R216). -/
def joinElems (codes : List Nat) : Word := BitVec.ofNat 32 (codes.foldr (fun x r => x + 65536 * r) 0)

/-- The literal kind of a floating operand (R54, R216). -/
def fltKind (t : Ty) : LitKind := .flt (fmtOfTy t) (Ty.packed t)
/-- The value of a code, flushed under FZ (R210). -/
def Ctx.val (c : Ctx) (t : Ty) (code : Nat) : Val := flushIn (fmtOfTy t) c.mod.fz ((fmtOfTy t).decode code)

/-- Round results element by element, stepping the generator once each in stochastic mode (R208, R217), for an element that is a NaN or an infinity
too (DESIGN CHOICE, log 16). -/
def roundAll (F : Fmt) (mode : Mode) (fz : Bool) : List Val → Word → List Nat × Word
  | [], l => ([], l)
  | x :: r, l =>
    let l' := drawFor mode l
    let rest := roundAll F mode fz r l'
    (convert0 F mode fz l' x :: rest.1, rest.2)

/-- A rounded arithmetic unit of three operands (R217): `h` gives the exact result. -/
def Ctx.arith (c : Ctx) (n : Nat) (h : Mode → Val → Val → Val → Val) (tid : Nat) : Except TrapInfo VecOut := do
  let t := c.f.ty
  let k := fltKind t
  let x ← c.opdA k 1 tid
  let y ← if 2 ≤ n then c.opdB k 1 tid else pure 0
  let z ← if 3 ≤ n then c.opdC k 1 tid else pure 0
  let mode := c.mode none
  let vs := (elems t).map fun i => h mode (c.val t (elemCode t x i)) (c.val t (elemCode t y i)) (c.val t (elemCode t z i))
  let r := roundAll (fmtOfTy t) mode c.mod.fz vs (c.th tid).lfsr
  return { regs := [(c.f.d, joinElems r.1)], lfsr := some r.2 }

/-- `ffma` and its variants: sub, neg, negsub (R219). -/
def ffmaVal (v : Nat) (mode : Mode) (a b z : Val) : Val :=
  let p := a.mul b
  Val.add mode (if 2 ≤ v then p.neg else p) (if v == 1 || v == 3 then z.neg else z)

/-- `fmin`, `fmax` of one element (R221): the code chosen. −0 is less than +0. -/
def Ctx.minMax (c : Ctx) (big : Bool) (t : Ty) (x y : Nat) : Nat :=
  let F := fmtOfTy t
  let a := c.val t x
  let b := c.val t y
  let bitsOf (code : Nat) (v : Val) : Nat :=
    if (F.decode code) = v then code else F.signCode v.isNeg 0
  if a.isNan && b.isNan then F.nanCode
  else if a.isNan then (if c.f.v == 1 then F.nanCode else bitsOf y b)
  else if b.isNan then (if c.f.v == 1 then F.nanCode else bitsOf x a)
  else
    let cmp := a.cmp b
    let less : Bool := cmp < 0 || (cmp == 0 && a.isNeg && !b.isNeg)
    if less != big then bitsOf x a else bitsOf y b
def Ctx.fminmax (c : Ctx) (big : Bool) (tid : Nat) : Except TrapInfo VecOut := do
  let t := c.f.ty
  let x ← c.opdA (fltKind t) 1 tid
  let y ← c.opdB (fltKind t) 1 tid
  return .word c.f.d (joinElems ((elems t).map fun i => c.minMax big t (elemCode t x i) (elemCode t y i)))

/-- Compare conditions (R222). -/
def fcmpCode (v : Nat) (a b : Val) : Bool :=
  let un := a.isNan || b.isNan
  let k := a.cmp b
  match v with
  | 0 => !un && k == 0
  | 1 => un || k != 0
  | 2 => !un && k < 0
  | 3 => !un && k ≤ 0
  | 4 => !un && 0 < k
  | 5 => !un && 0 ≤ k
  | 6 => un
  | _ => !un
def Ctx.fcmp (c : Ctx) (tid : Nat) : Except TrapInfo VecOut := do
  let t := c.f.ty
  let x ← c.opdA (fltKind t) 1 tid
  let y ← c.opdB (fltKind t) 1 tid
  let r := fcmpCode c.f.v.toNat (c.val t (elemCode t x 0)) (c.val t (elemCode t y 0))
  return if c.f.kd = .pred then .pred c.f.d r else .word c.f.d (if r then 0xFFFFFFFF else 0)

/-- `fsel` copies bits (R223). -/
def Ctx.fsel (c : Ctx) (tid : Nat) : Except TrapInfo VecOut := do
  let t := c.f.ty
  let x ← c.opdA (fltKind t) 1 tid
  let y ← c.opdB (fltKind t) 1 tid
  return .word c.f.d (BitVec.ofNat 32 (elemCode t (if (c.th tid).pred (c.f.x.toNat % 8) then x else y) 0))

/-- `fclass` (R224): the class bit; subnormals are seen as they are. -/
def classBit (F : Fmt) (x : Val) : Nat :=
  match x with
  | .nan => 8
  | .inf n => if n then 0 else 7
  | .fin n a b =>
    if a = 0 then (if n then 3 else 4)
    else if F.isSub a b then (if n then 2 else 5)
    else if n then 1 else 6
def Ctx.fclass (c : Ctx) (tid : Nat) : Except TrapInfo VecOut := do
  let t := c.f.ty
  let x ← c.opdA (fltKind t) 1 tid
  return .word c.f.d (1 <<< classBit (fmtOfTy t) ((fmtOfTy t).decode (elemCode t x 0)))

/-- The integer nearest a value under a mode, keeping its sign (R225). -/
def frndVal (mode : Mode) (x : Val) : Val :=
  match x with
  | .fin n a b => roundTo (.int 64 true) mode 0 (.fin n a b)
  | v => v
def frndMode (v : Nat) : Mode :=
  match v with
  | 0 => rne
  | 1 => rtz
  | 2 => rdn
  | 3 => rup
  | _ => rna
def Ctx.frnd (c : Ctx) (tid : Nat) : Except TrapInfo VecOut := do
  let t := c.f.ty
  let x ← c.opdA (fltKind t) 1 tid
  return .word c.f.d (BitVec.ofNat 32 (convert0 (fmtOfTy t) rne c.mod.fz 0 (frndVal (frndMode c.f.v.toNat) (c.val t (elemCode t x 0)))))

/-- Scale an exact value by 2^n (R226). -/
def Val.ldexp (n : Int) : Val → Val
  | .fin s a b => .fin s (a * (pow2 n).1) (b * (pow2 n).2)
  | v => v
/-- The shift of `fldexp`, held to a range past which every finite value has left every format. -/
def clampExp (n : Int) : Int := max (-2048) (min 2048 n)
def Ctx.fldexp (c : Ctx) (tid : Nat) : Except TrapInfo VecOut := do
  let t := c.f.ty
  let x ← c.opdA (fltKind t) 1 tid
  let n ← c.intB 1 tid
  let mode := c.mode none
  let r := roundAll (fmtOfTy t) mode c.mod.fz [(c.val t (elemCode t x 0)).ldexp (clampExp (ext n 32 true))] (c.th tid).lfsr
  return { regs := [(c.f.d, joinElems r.1)], lfsr := some r.2 }

/-- `ffrexp` (R227): exponent or mantissa. -/
def frexpExp : Val → Word
  | .fin _ a b => if a = 0 then 0 else BitVec.ofInt 32 (ilog2 a b + 1)
  | _ => 0x7FFFFFFF
def frexpMant : Val → Val
  | .fin n a b => if a = 0 then .fin n 0 1 else Val.ldexp (-(ilog2 a b + 1)) (.fin n a b)
  | v => v
def Ctx.ffrexp (c : Ctx) (tid : Nat) : Except TrapInfo VecOut := do
  let t := c.f.ty
  let x ← c.opdA (fltKind t) 1 tid
  let v := c.val t (elemCode t x 0)
  return .word c.f.d (if c.f.v == 0 then frexpExp v else BitVec.ofNat 32 (convert0 (fmtOfTy t) rne c.mod.fz 0 (frexpMant v)))

def opFadd (f : Fields) (s : State) : Out := vecUnit .fadd f s fun c => c.arith 2 fun m a b _ => Val.add m a b
def opFsub (f : Fields) (s : State) : Out := vecUnit .fsub f s fun c => c.arith 2 fun m a b _ => Val.add m a b.neg
def opFmul (f : Fields) (s : State) : Out := vecUnit .fmul f s fun c => c.arith 2 fun _ a b _ => a.mul b
def opFfma (f : Fields) (s : State) : Out := vecUnit .ffma f s fun c => c.arith 3 (ffmaVal c.f.v.toNat)
def opFmin (f : Fields) (s : State) : Out := vecUnit .fmin f s fun c => c.fminmax false
def opFmax (f : Fields) (s : State) : Out := vecUnit .fmax f s fun c => c.fminmax true
def opFcmp (f : Fields) (s : State) : Out := vecUnit .fcmp f s Ctx.fcmp
def opFsel (f : Fields) (s : State) : Out := vecUnit .fsel f s Ctx.fsel
def opFclass (f : Fields) (s : State) : Out := vecUnit .fclass f s Ctx.fclass
def opFrnd (f : Fields) (s : State) : Out := vecUnit .frnd f s Ctx.frnd
def opFldexp (f : Fields) (s : State) : Out := vecUnit .fldexp f s Ctx.fldexp
def opFfrexp (f : Fields) (s : State) : Out := vecUnit .ffrexp f s Ctx.ffrexp
def opFdiv (f : Fields) (s : State) : Out := vecUnit .fdiv f s fun c => c.arith 2 fun _ a b _ => a.div b
def opFsqrt (f : Fields) (s : State) : Out := vecUnit .fsqrt f s fun c => c.arith 1 fun _ a _ _ => a.sqrt

/-! ### One meaning per row (R94 to R104) -/

/-- FADD. -/
def execFadd (f : LongF) (s : State) : Out := opFadd (f.fields) s
/-- FSUB. -/
def execFsub (f : LongF) (s : State) : Out := opFsub (f.fields) s
/-- FMUL. -/
def execFmul (f : LongF) (s : State) : Out := opFmul (f.fields) s
/-- FFMA. -/
def execFfma (f : LongF) (s : State) : Out := opFfma (f.fields) s
/-- FMIN. -/
def execFmin (f : LongF) (s : State) : Out := opFmin (f.fields) s
/-- FMAX. -/
def execFmax (f : LongF) (s : State) : Out := opFmax (f.fields) s
/-- FCMP. -/
def execFcmp (f : LongF) (s : State) : Out := opFcmp (f.fields) s
/-- FSEL. -/
def execFsel (f : LongF) (s : State) : Out := opFsel (f.fields) s
/-- FCLASS. -/
def execFclass (f : LongF) (s : State) : Out := opFclass (f.fields) s
/-- FRND. -/
def execFrnd (f : LongF) (s : State) : Out := opFrnd (f.fields) s
/-- FLDEXP. -/
def execFldexp (f : LongF) (s : State) : Out := opFldexp (f.fields) s
/-- FFREXP. -/
def execFfrexp (f : LongF) (s : State) : Out := opFfrexp (f.fields) s
/-- FDIV. -/
def execFdiv (f : LongF) (s : State) : Out := opFdiv (f.fields) s
/-- FSQRT. -/
def execFsqrt (f : LongF) (s : State) : Out := opFsqrt (f.fields) s
/-- FADD_F32_SHORT. -/
def execFaddF32Short (f : ShortF) (s : State) : Out := opFadd (f.fields 0 .f32 .vec 0) s
/-- FSUB_F32_SHORT. -/
def execFsubF32Short (f : ShortF) (s : State) : Out := opFsub (f.fields 0 .f32 .vec 0) s
/-- FMUL_F32_SHORT. -/
def execFmulF32Short (f : ShortF) (s : State) : Out := opFmul (f.fields 0 .f32 .vec 0) s
/-- FMIN_F32_SHORT. -/
def execFminF32Short (f : ShortF) (s : State) : Out := opFmin (f.fields 0 .f32 .vec 0) s
/-- FMAX_F32_SHORT. -/
def execFmaxF32Short (f : ShortF) (s : State) : Out := opFmax (f.fields 0 .f32 .vec 0) s
/-- FMIN_NAN_F32_SHORT. -/
def execFminNanF32Short (f : ShortF) (s : State) : Out := opFmin (f.fields 1 .f32 .vec 0) s
/-- FMAX_NAN_F32_SHORT. -/
def execFmaxNanF32Short (f : ShortF) (s : State) : Out := opFmax (f.fields 1 .f32 .vec 0) s
/-- FADD_F16X2_SHORT. -/
def execFaddF16x2Short (f : ShortF) (s : State) : Out := opFadd (f.fields 0 .f16x2 .vec 0) s
/-- FMUL_F16X2_SHORT. -/
def execFmulF16x2Short (f : ShortF) (s : State) : Out := opFmul (f.fields 0 .f16x2 .vec 0) s
/-- FADD_BF16X2_SHORT. -/
def execFaddBf16x2Short (f : ShortF) (s : State) : Out := opFadd (f.fields 0 .bf16x2 .vec 0) s
/-- FMUL_BF16X2_SHORT. -/
def execFmulBf16x2Short (f : ShortF) (s : State) : Out := opFmul (f.fields 0 .bf16x2 .vec 0) s
/-- FCMP_LT_F32_SHORT. -/
def execFcmpLtF32Short (f : ShortF) (s : State) : Out := opFcmp (f.fields 2 .f32 .pred 0) s
/-- FCMP_LE_F32_SHORT. -/
def execFcmpLeF32Short (f : ShortF) (s : State) : Out := opFcmp (f.fields 3 .f32 .pred 0) s
/-- FCMP_EQ_F32_SHORT. -/
def execFcmpEqF32Short (f : ShortF) (s : State) : Out := opFcmp (f.fields 0 .f32 .pred 0) s
/-- FLDEXP_F32_SHORT. -/
def execFldexpF32Short (f : ShortF) (s : State) : Out := opFldexp (f.fields 0 .f32 .vec 0) s
/-- FRND_RNE_F32_SHORT. -/
def execFrndRneF32Short (f : ShortF) (s : State) : Out := opFrnd (f.fields 0 .f32 .vec 0) s
/-- FADD_F32_LIMM. -/
def execFaddF32Limm (f : LimmF) (s : State) : Out := opFadd (f.fields 0 .f32 .vec) s
/-- FMUL_F32_LIMM. -/
def execFmulF32Limm (f : LimmF) (s : State) : Out := opFmul (f.fields 0 .f32 .vec) s
/-- FMAX_F32_LIMM. -/
def execFmaxF32Limm (f : LimmF) (s : State) : Out := opFmax (f.fields 0 .f32 .vec) s
/-- FMIN_F32_LIMM. -/
def execFminF32Limm (f : LimmF) (s : State) : Out := opFmin (f.fields 0 .f32 .vec) s

end Sys2Proof.Machine
end

