-- ==== Sys2Proof/Machine/Special.lean ====
section
/-!
DEFINITION. The special functions of 13 R228: each function's value in fixed point, close enough to tell which codes lie within the
bounds of its row, and those codes. Which of them is returned is not published: it is a free value (DESIGN CHOICE, log 6).
-/

namespace Sys2Proof.Machine

/-! ### Fixed point of 400 fraction bits -/

def fixBits : Nat := 400
def fixOne : Int := 2 ^ fixBits
def fixMul (x y : Int) : Int := x * y / fixOne
def fixDiv (x y : Int) : Int := x * fixOne / y
/-- The value of an operand that is no NaN and no infinity. -/
def fixOf (neg : Bool) (num den : Nat) : Int := let m : Int := num * fixOne / den; if neg then -m else m

/-- Sum of `p / (2k + 1)`, where `p` is multiplied by `z2` from one `k` to the next: with z² the inverse hyperbolic tangent of z, with -z²
the inverse tangent. -/
def oddSum (z2 : Int) : Nat → Nat → Int → Int → Int
  | 0, _, _, acc => acc
  | n + 1, k, p, acc => oddSum z2 n (k + 1) (fixMul p z2) (acc + p / (2 * k + 1))
/-- Sum of terms, each made from the one before it. -/
def termSum (next : Nat → Int → Int) : Nat → Nat → Int → Int → Int
  | 0, _, _, acc => acc
  | n + 1, k, t, acc => termSum next n (k + 1) (next k t) (acc + t)
def fixAtanh (z : Int) : Int := oddSum (fixMul z z) 200 0 z 0
def fixAtan (z : Int) : Int := oddSum (-(fixMul z z)) 200 0 z 0
/-- The natural logarithm of 2, and pi by the two inverse tangents of 1/5 and 1/239. -/
def fixLn2 : Int := 2 * fixAtanh (fixOne / 3)
def fixPi : Int := 4 * (4 * fixAtan (fixOne / 5) - fixAtan (fixOne / 239))
/-- e^t for t from 0 to 1. -/
def fixExp (t : Int) : Int := termSum (fun k x => fixMul x t / (k + 1)) 120 0 fixOne 0
/-- e^(-y) for y not below 0. -/
def fixDecay (y : Int) : Int := fixDiv fixOne (fixExp (y % fixLn2)) / 2 ^ min (y / fixLn2).toNat 1000
/-- 2^x: beyond 2^200 every code is infinity, and below 2^-500 none differs from zero by more than the least spacing. -/
def fixExp2 (x : Int) : Int :=
  let n := x / fixOne
  let m := fixExp (fixMul (x % fixOne) fixLn2)
  if n < 0 then m / 2 ^ min (-n).toNat 500 else m * 2 ^ min n.toNat 200
/-- The sine, by its series after the turns of 2 pi are taken off. -/
def fixSin (x : Int) : Int :=
  let r := x % (2 * fixPi)
  let y := if fixPi < r then r - 2 * fixPi else r
  let y2 := fixMul y y
  termSum (fun k t => -(fixMul t y2) / ((2 * k + 2) * (2 * k + 3))) 100 0 y 0
/-- log2 of a positive rational. -/
def fixLog2 (num den : Nat) : Int :=
  let e := ilog2 num den
  let m := fixOf false (num * (pow2 e).2) (den * (pow2 e).1)
  e * fixOne + fixDiv (2 * fixAtanh (fixDiv (m - fixOne) (m + fixOne))) fixLn2

/-- The value of a function at an operand whose result R228 does not give exactly. -/
def specialValue (o : Op) (neg : Bool) (num den : Nat) : Int :=
  let x := fixOf neg num den
  let y := fixOf false num den
  match o with
  | .fexp2 => fixExp2 x
  | .flog2 => fixLog2 num den
  | .fsin => fixSin x
  | .fcos => fixSin (x + fixPi / 2)
  | .ftanh =>
    let e := fixDecay (2 * y)
    let t := fixDiv (fixOne - e) (fixOne + e)
    if neg then -t else t
  | .flogi => let e := fixDecay y; fixDiv (if neg then e else fixOne) (fixOne + e)
  | .frcp => fixOf neg den num
  | _ => (Nat.sqrt (den * 4 ^ fixBits / num) : Nat)

/-! ### The codes within the bounds -/

/-- How far the fixed-point values may be off, and the grid on which every code and every bound stands. -/
def fixSlack : Nat := 2 ^ 150
def fixGrid : Int := 2 ^ (fixBits - 149)
/-- Does a function that R228 gives no exact result for an operand meet a point of that grid there: the cosine and the logistic function at 0, and a
power of two or a reciprocal beyond the format? -/
def meetsGrid (o : Op) (neg : Bool) (num den : Nat) : Bool :=
  num = 0 || (o == .fexp2 && !neg && num % den = 0) || (o == .frcp && den % num = 0)
/-- A value so near a point of that grid that its side is not computed: the point where the function meets it, and else on its side by the function's
nature. Near 0 only 2^x and the logistic function come, from above, and the others near 1 or near their own operand, from below in
magnitude. So the bounds decide each code as they do for the exact value (DEDUCED, log 6). -/
def snap (meets : Bool) (v : Int) : Int :=
  let g := (v + fixGrid / 2) / fixGrid * fixGrid
  if fixSlack < (v - g).natAbs then v else if meets then g else if 0 < g then g - 1 else if g < 0 then g + 1 else 1
/-- The bound of a function's row, at a value: f32 as the table says, f16 and bf16 one unit in the last place. -/
def specialBound (o : Op) (F : Fmt) (num den : Nat) (v : Int) : Int :=
  let ulp : Int := 2 ^ ((fixBits : Int) + F.quantum v.natAbs (2 ^ fixBits)).toNat
  if F != .f32 then ulp
  else match o with
    | .fsin | .fcos => 2 ^ (fixBits - 21)
    | .ftanh | .flogi => 2 * ulp
    | .flog2 => if den ≤ 2 * num && num ≤ 2 * den then 2 ^ (fixBits - 22) else ulp
    | _ => ulp
/-- Codes in rising order of value: -0 stands below +0, and the infinities at the ends. -/
def ordinalOf (neg : Bool) (mag : Nat) : Int := if neg then -1 - mag else mag
def ordinalCode (F : Fmt) (i : Int) : Nat := if i < 0 then F.signCode true (-1 - i).toNat else i.toNat
/-- The magnitude code at or below a magnitude, at or above it; infinity follows the largest finite code. -/
def Fmt.magDown (F : Fmt) (m : Nat) : Nat := min (F.magCode m (2 ^ fixBits)) (F.maxCode + 1)
def Fmt.magUp (F : Fmt) (m : Nat) : Nat :=
  let k := F.magCode m (2 ^ fixBits)
  let up := match F.decode (min k F.maxCode) with | .fin _ a b => a * 2 ^ fixBits != m * b | _ => true
  min (if up then k + 1 else k) (F.maxCode + 1)
/-- The first and the last code whose value lies from `lo` to `hi`. -/
def Fmt.codesIn (F : Fmt) (lo hi : Int) : Int × Int :=
  (if lo ≤ 0 then ordinalOf true (F.magDown lo.natAbs) else ordinalOf false (F.magUp lo.natAbs),
   if hi < 0 then ordinalOf true (F.magUp hi.natAbs) else ordinalOf false (F.magDown hi.natAbs))
/-- The code of a special function's result (R228): the exact cases, else one of the codes within the bounds, by a choice that depends on
the operation, the type, FZ and the operand alone. Operand and result are flushed under FZ (R210). -/
def specialCode (o : Op) (t : Ty) (F : Fmt) (fz : Bool) (code : Nat) : Nat :=
  let x := flushIn F fz (F.decode code)
  let out (v : Val) : Nat := convert0 F rne fz 0 v
  match specialExact o F x, x with
  | some v, _ => out v
  | none, .fin n a b =>
    let v := snap (meetsGrid o n a b) (specialValue o n a b)
    let r := specialBound o F a b v
    let c := F.codesIn (v - r) (v + r)
    let pick := (Config.special o t fz (BitVec.ofNat 32 (convert0 F rne fz 0 x))).toNat
    out (F.decode (ordinalCode F (c.1 + (pick : Int) % (c.2 - c.1 + 1))))
  | none, _ => F.nanCode

end Sys2Proof.Machine
end

