-- ==== Sys2Proof/Machine/Convert.lean ====
section
/-!
DEFINITION. Class 4: special functions, conversions, block quantisation, packing and the generator's seed (13 R228 to R233, 12
R206 to R215).
-/

namespace Sys2Proof.Machine

/-! ### Special functions (R228) -/

def Ctx.specialFn (c : Ctx) (o : Op) (tid : Nat) : Except TrapInfo VecOut := do
  let t := c.f.ty
  let x ← c.opdA (fltKind t) 1 tid
  return .word c.f.d (BitVec.ofNat 32 (specialCode o t (fmtOfTy t) c.mod.fz (elemCode t x 0)))

/-! ### Conversions (R229) -/

/-- The slot index of a type code, and the format of a type under the launch's slots; none where the slot is refused (R205). -/
def Ctx.tyFmt (c : Ctx) (t : Ty) : Option Fmt :=
  match t.fmtSlot? with
  | some n => fmtOfCode (slotFmt (c.slotImg n))
  | none =>
    match t with
    | .f32 => some .f32
    | .f16 => some .f16
    | .bf16 => some .bf16
    | _ => some (.int (Ty.width t) (Ty.signed t))

/-- The slot that gives a unit's default rounding mode and policy: the destination's, else the source's (R204). MOD SE = 1 replaces the slots that the
unit names (R72); where it names none, none is read (DESIGN CHOICE, log 31). -/
def Ctx.slotOf (c : Ctx) (dst src : Ty) : Option (BitVec 128) :=
  match dst.fmtSlot?, src.fmtSlot? with
  | some n, _ => some (c.slotImg n)
  | none, some n => some (c.slotImg n)
  | none, none => none

/-- How a literal is read as a value of a format (R54, R216). -/
def litOf (F : Fmt) : LitKind := if F.isInt then .int else .flt F false

/-- A code as a destination holds it (R229): signed integers sign-extended, everything else zero-extended. -/
def spread (F : Fmt) (code : Nat) : Dword :=
  match F with
  | .int w true => BitVec.ofInt 64 (ext (BitVec.ofNat 64 code) w true)
  | _ => BitVec.ofNat 64 code

/-- `cvt` (R229). Where two slots are refused, the trap names the destination's (R205, DESIGN CHOICE, log 15). -/
def Ctx.cvt (c : Ctx) (tid : Nat) : Except TrapInfo VecOut := do
  let src := Ty.ofCode (c.f.x.extractLsb' 0 5)
  let dst := c.f.ty
  match c.tyFmt dst, c.tyFmt src with
  | none, _ => throw (c.slotTrap (dst.fmtSlot?.getD 0))
  | _, none => throw (c.slotTrap (src.fmtSlot?.getD 0))
  | some D, some S =>
    let x ← c.opdA (litOf S) src.words tid
    let v := S.decode (x.toNat % 2 ^ S.width)
    let v := if S.isInt then v else flushIn S c.mod.fz v
    let slot := c.slotOf dst src
    let mode := c.mode slot
    let pol := if c.mod.sat then satPolicy (c.policy slot) else c.policy slot
    let l := drawFor mode (c.th tid).lfsr
    match convert D mode pol (c.mod.fz && !D.isInt) l v with
    | .error p => throw (c.convTrap 0 p)
    | .ok code => return { VecOut.wide c.f.d dst.words (spread D code) with lfsr := some l }

/-! ### Block quantisation (R214, R215, R230, R231) -/

/-- A block slot: binary8 with block 16 or 32 (R205). -/
def blockSlotOk (i : BitVec 128) : Bool := isB8 (slotFmt i) && (slotBlock i == 1 || slotBlock i == 2)

/-- The smallest scale code in 1..254 that `ok` accepts, or 254. -/
def leastScale (ok : Nat → Bool) : Nat → Nat → Nat
  | 0, e => e
  | fuel + 1, e => if ok e || e = 254 then e else leastScale ok fuel (e + 1)

/-- An element divided by the tensor scale, as which it takes its case of R214: a NaN or an infinity stands as it is; a tensor scale of zero makes
an infinity, or a NaN, of a finite one (R230). -/
def quotient (ts x : Val) : Val :=
  match x with
  | .fin _ _ _ => x.div ts
  | x => x
/-- The scale code of a block from the quotients that are finite (R214 step 3): amax ≤ maxF × 2^(e − 128). -/
def scaleCode (F : Fmt) (qs : List Val) : Nat :=
  let amax : Nat × Nat := qs.foldl (fun m x => match x with
    | .fin _ a b => if ratLt m.1 m.2 a b then (a, b) else m
    | _ => m) (0, 1)
  if amax.1 = 0 then 1
  else match F.decode F.maxCode with
    | .fin _ p q =>
      leastScale (fun e => let s := pow2 ((e : Int) - 128); !ratLt (p * s.1) (q * s.2) amax.1 amax.2) 254 1
    | _ => 254

/-- One element's code under a block's scale, from its quotient (R214): none of the block's elements is a NaN under propagate. An infinite one
takes the action with its own sign. -/
def blockElem (F : Fmt) (mode : Mode) (pol : BitVec 8) (fz : Bool) (l : Word) (e : Nat) (q : Val) : Except PolicyCase Nat :=
  match q with
  | .nan => policyResult F mode pol fz false .nan
  | .inf n => policyResult F mode pol fz n .infinity
  | v => convert F mode pol fz l (v.div (Val.scaled false 1 ((e : Int) - 128)))

/-- Where the smoothing divisor of a channel stands (R215). -/
def divisorAt (img : BitVec 128) (ch : Nat) : Dword := BitVec.ofNat 64 ((slotSmooth img).toNat * 64 + 4 * ch)
/-- A thread's channel (R230). -/
def Ctx.channel (c : Ctx) (tid : Nat) : Except TrapInfo Nat := (c.intB 1 tid).map fun b => b.toNat + tid
def smooths (img : BitVec 128) : Bool := blockSlotOk img && slotSmooth img != 0
/-- A thread's smoothing divisor: a scratchpad load of the thread (R215, R303). On an aperture page it has reason 2 as every read there has
(R362), whatever R215 says of other types (DEDUCED, log 46). -/
def Ctx.divisor (c : Ctx) (img : BitVec 128) (tid : Nat) : Except MatStop Val := do
  if !smooths img then return .fin false 1 1
  let ch ← lift (c.channel tid)
  let got ← c.fetch c.s [tid] 2 [((divisorAt img ch).toNat, 4)]
  return divisorVal (BitVec.ofNat 32 (leNat got.flatten))

/-- The element x_k of a thread: flushed, and smoothed (R214, R215, R230). -/
def Ctx.quantElem (c : Ctx) (img : BitVec 128) (d : Val) (tid : Nat) : Except TrapInfo Val := do
  let src := Ty.ofCode (c.f.x.extractLsb' 0 5)
  let x ← c.opdA (fltKind src) 1 tid
  let v := c.val src (elemCode src x 0)
  return if smooths img then v.div d else v

/-- The members of a thread's block (R230). -/
def Ctx.blockOf (c : Ctx) (img : BitVec 128) (tid : Nat) : List Nat :=
  let n := blockSize (slotBlock img)
  c.exec.filter fun t => t / n == tid / n

/-- `bquant` in one thread (R230), from the divisors of its block. -/
def Ctx.bquant (c : Ctx) (ds : List (Nat × Except MatStop Val)) (tid : Nat) : Except TrapInfo VecOut := do
  let n := (c.f.ty.fmtSlot?).getD 0
  let img := c.slotImg n
  if !blockSlotOk img then throw (c.slotTrap n)
  let div (t : Nat) : Val := match ds.find? fun e => e.1 == t with | some (_, .ok d) => d | _ => .nan
  match fmtOfCode (slotFmt img) with
  | none => throw (c.slotTrap n)
  | some F =>
    let ts := Fmt.f32.decode (slotTs img).toNat
    let qs ← (c.blockOf img tid).mapM fun t => (c.quantElem img (div t) t).map (quotient ts)
    let own ← (c.quantElem img (div tid) tid).map (quotient ts)
    let mode := c.mode (some img)
    let pol := c.policy (some img)
    let l := drawFor mode (c.th tid).lfsr
    let nanAll := qs.any Val.isNan && actionOf pol .nan == 0
    let e := if nanAll then 0xFF else scaleCode F qs
    let code ← if nanAll then pure F.nanCode
      else match blockElem F mode pol c.mod.fz l e own with
        | .error p => throw (c.convTrap 0 p)
        | .ok k => pure k
    return { regs := [(c.f.d, BitVec.ofNat 32 (code + 256 * e))], lfsr := some l }
def MatStop.page? (x : Except MatStop Val) : Option Dword := match x with | .error (.absent va) => some va | _ => none
def MatStop.waits (x : Except MatStop Val) : List AccRef := match x with | .error (.wait l) => l | _ => []
/-- What a thread of a `bquant` fails: its own divisor, or, when every divisor of its block is there, its conversion. -/
def Ctx.bquantFault (c : Ctx) (ds : List (Nat × Except MatStop Val)) (img : BitVec 128) (tid : Nat) : Except TrapInfo Unit :=
  let mine := ds.filter fun e => (c.blockOf img tid).contains e.1
  match ds.find? fun e => e.1 == tid with
  | some (_, .error (.all e)) => .error e
  | _ => if mine.all fun e => (match e.2 with | .ok _ => true | _ => false) then (c.bquant ds tid).map fun _ => () else .ok ()
/-- `bquant` in one group: the checks and faults of its threads; accesses that its reads stand behind; a block with a divisor on an absent
page parks, and the others go on (R215, R305, R347). -/
def Ctx.runBquant (c : Ctx) (s : State) : State :=
  let img := c.slotImg ((c.f.ty.fmtSlot?).getD 0)
  match failures (c.exec.map fun t => (t, c.precheck .bquant t)) with
  | e :: r => s.unitTrap c c.exec (e :: r)
  | [] =>
    let ds := c.exec.map fun t => (t, c.divisor img t)
    match failures (c.exec.map fun t => (t, c.bquantFault ds img t)) with
    | e :: r => ((e :: r).foldl (fun a x => a.reportBad x.2) s).unitTrap c c.exec (e :: r)
    | [] =>
      let waits := ds.flatMap fun e => MatStop.waits e.2
      if !waits.isEmpty then
        (s.advance c.g.gid (c.tids.filter fun t => !c.exec.contains t)).holdUnit c .bquant c.exec waits
      else
        let page (t : Nat) : Option Dword := (c.blockOf img t).findSome? fun u => (ds.find? fun e => e.1 == u).bind fun e => MatStop.page? e.2
        let go := c.exec.filter fun t => (page t).isNone
        let s1 := s.modGroup c.g.gid fun g => go.foldl (fun g t => match c.bquant ds t with
          | .ok o => g.modThread t fun x => x.apply o
          | .error _ => g) g
        let s2 := s1.advance c.g.gid (c.tids.filter fun t => (page t).isNone || !c.exec.contains t)
        let s3 := if smooths img then go.foldl (fun acc t => match c.channel t with
          | .ok ch => c.readMarks 2 [((divisorAt img ch).toNat, 4)] acc
          | .error _ => acc) s2 else s2
        (c.exec.filter fun t => (page t).isSome).foldl (fun acc t => acc.parkUnit c .bquant [t] ((page t).getD 0) false) s3

/-- `bdequant` (R231). -/
def Ctx.bdequant (c : Ctx) (tid : Nat) : Except TrapInfo VecOut := do
  let src := Ty.ofCode (c.f.x.extractLsb' 0 5)
  let n := (src.fmtSlot?).getD 0
  let img := c.slotImg n
  if !blockSlotOk img then throw (c.slotTrap n)
  match fmtOfCode (slotFmt img) with
  | none => throw (c.slotTrap n)
  | some F =>
    let x ← c.intA 1 tid
    let elem := flushIn F c.mod.fz (F.decode (x.toNat % 256))
    let v := blockValue elem (x.toNat / 256 % 256) (Fmt.f32.decode (slotTs img).toNat)
    let D := fmtOfTy c.f.ty
    let mode := slotRnd img
    let l := drawFor mode (c.th tid).lfsr
    match convert D mode (c.policy (some img)) c.mod.fz l v with
    | .error p => throw (c.convTrap 0 p)
    | .ok code => return { regs := [(c.f.d, BitVec.ofNat 32 code)], lfsr := some l }

/-! ### Packing (R232) -/

/-- The element format of a packed type. -/
def packFmt (t : Ty) : Fmt :=
  match t with
  | .f16 => .f16
  | .bf16 => .bf16
  | _ => .int (Ty.width t) (Ty.signed t)
def Ctx.pack (c : Ctx) (tid : Nat) : Except TrapInfo VecOut := do
  let t := c.f.ty
  let F := packFmt t
  let x ← c.opdA (if F.isInt then .int else .flt .f32 false) 1 tid
  let y ← c.bitB 1 tid
  let v := if F.isInt then Val.ofInt (ext x 32 true) else flushIn .f32 c.mod.fz (Fmt.f32.decode x.toNat)
  let mode := c.mode none
  let pol := if c.mod.sat then satPolicy (c.policy none) else c.policy none
  let l := drawFor mode (c.th tid).lfsr
  match convert F mode pol (c.mod.fz && !F.isInt) l v with
  | .error p => throw (c.convTrap c.f.v.toNat p)
  | .ok code =>
    let w := t.packBits
    let ctl : Word := BitVec.ofNat 32 (w * c.f.v.toNat + 256 * w)
    return { regs := [(c.f.d, BitVec.ofNat 32 (fieldIns y.toNat code ctl 32))], lfsr := some l }
def Ctx.unpack (c : Ctx) (tid : Nat) : Except TrapInfo VecOut := do
  let t := c.f.ty
  let F := packFmt t
  let x ← c.bitA 1 tid
  let code := x.toNat / 2 ^ (t.packBits * c.f.v.toNat) % 2 ^ t.packBits
  return .wide c.f.d 1 (if F.isInt then BitVec.ofNat 64 ((spread F code).toNat % 2 ^ 32)
    else BitVec.ofNat 64 (convert0 .f32 rne c.mod.fz 0 (flushIn F c.mod.fz (F.decode code))))

/-- `srseed` (R233). -/
def Ctx.srseed (c : Ctx) (tid : Nat) : Except TrapInfo VecOut := do
  let x ← c.intA 1 tid
  let w : Word := x.setWidth 32
  return { lfsr := some (if w = 0 then 1 else w) }

def opFexp2 (f : Fields) (s : State) : Out := vecUnit .fexp2 f s fun c => c.specialFn .fexp2
def opFlog2 (f : Fields) (s : State) : Out := vecUnit .flog2 f s fun c => c.specialFn .flog2
def opFsin (f : Fields) (s : State) : Out := vecUnit .fsin f s fun c => c.specialFn .fsin
def opFcos (f : Fields) (s : State) : Out := vecUnit .fcos f s fun c => c.specialFn .fcos
def opFtanh (f : Fields) (s : State) : Out := vecUnit .ftanh f s fun c => c.specialFn .ftanh
def opFlogi (f : Fields) (s : State) : Out := vecUnit .flogi f s fun c => c.specialFn .flogi
def opFrcp (f : Fields) (s : State) : Out := vecUnit .frcp f s fun c => c.specialFn .frcp
def opFrsqrt (f : Fields) (s : State) : Out := vecUnit .frsqrt f s fun c => c.specialFn .frsqrt
def opCvt (f : Fields) (s : State) : Out := vecUnit .cvt f s Ctx.cvt
def opBquant (f : Fields) (s : State) : Out := .next (s.perGroup f Ctx.runBquant)
def opBdequant (f : Fields) (s : State) : Out := vecUnit .bdequant f s Ctx.bdequant
def opPack (f : Fields) (s : State) : Out := vecUnit .pack f s Ctx.pack
def opUnpack (f : Fields) (s : State) : Out := vecUnit .unpack f s Ctx.unpack
def opSrseed (f : Fields) (s : State) : Out := vecUnit .srseed f s Ctx.srseed

/-! ### One meaning per row (R94 to R104) -/

/-- FEXP2. -/
def execFexp2 (f : LongF) (s : State) : Out := opFexp2 (f.fields) s
/-- FLOG2. -/
def execFlog2 (f : LongF) (s : State) : Out := opFlog2 (f.fields) s
/-- FSIN. -/
def execFsin (f : LongF) (s : State) : Out := opFsin (f.fields) s
/-- FCOS. -/
def execFcos (f : LongF) (s : State) : Out := opFcos (f.fields) s
/-- FTANH. -/
def execFtanh (f : LongF) (s : State) : Out := opFtanh (f.fields) s
/-- FLOGI. -/
def execFlogi (f : LongF) (s : State) : Out := opFlogi (f.fields) s
/-- FRCP. -/
def execFrcp (f : LongF) (s : State) : Out := opFrcp (f.fields) s
/-- FRSQRT. -/
def execFrsqrt (f : LongF) (s : State) : Out := opFrsqrt (f.fields) s
/-- CVT. -/
def execCvt (f : LongF) (s : State) : Out := opCvt (f.fields) s
/-- BQUANT. -/
def execBquant (f : LongF) (s : State) : Out := opBquant (f.fields) s
/-- BDEQUANT. -/
def execBdequant (f : LongF) (s : State) : Out := opBdequant (f.fields) s
/-- PACK. -/
def execPack (f : LongF) (s : State) : Out := opPack (f.fields) s
/-- UNPACK. -/
def execUnpack (f : LongF) (s : State) : Out := opUnpack (f.fields) s
/-- SRSEED. -/
def execSrseed (f : LongF) (s : State) : Out := opSrseed (f.fields) s
/-- FEXP2_F32_SHORT. -/
def execFexp2F32Short (f : ShortF) (s : State) : Out := opFexp2 (f.fields 0 .f32 .vec 0) s
/-- FLOG2_F32_SHORT. -/
def execFlog2F32Short (f : ShortF) (s : State) : Out := opFlog2 (f.fields 0 .f32 .vec 0) s
/-- FSIN_F32_SHORT. -/
def execFsinF32Short (f : ShortF) (s : State) : Out := opFsin (f.fields 0 .f32 .vec 0) s
/-- FCOS_F32_SHORT. -/
def execFcosF32Short (f : ShortF) (s : State) : Out := opFcos (f.fields 0 .f32 .vec 0) s
/-- FTANH_F32_SHORT. -/
def execFtanhF32Short (f : ShortF) (s : State) : Out := opFtanh (f.fields 0 .f32 .vec 0) s
/-- FLOGI_F32_SHORT. -/
def execFlogiF32Short (f : ShortF) (s : State) : Out := opFlogi (f.fields 0 .f32 .vec 0) s
/-- FRCP_F32_SHORT. -/
def execFrcpF32Short (f : ShortF) (s : State) : Out := opFrcp (f.fields 0 .f32 .vec 0) s
/-- FRSQRT_F32_SHORT. -/
def execFrsqrtF32Short (f : ShortF) (s : State) : Out := opFrsqrt (f.fields 0 .f32 .vec 0) s
/-- CVT_F32_I32_SHORT. -/
def execCvtF32I32Short (f : ShortF) (s : State) : Out := opCvt (f.fields 0 .f32 .vec 0) s
/-- CVT_I32_F32_SHORT. -/
def execCvtI32F32Short (f : ShortF) (s : State) : Out := opCvt (f.fields 0 .i32 .vec 19) s
/-- CVT_F16_F32_SHORT. -/
def execCvtF16F32Short (f : ShortF) (s : State) : Out := opCvt (f.fields 0 .f16 .vec 19) s
/-- CVT_F32_F16_SHORT. -/
def execCvtF32F16Short (f : ShortF) (s : State) : Out := opCvt (f.fields 0 .f32 .vec 20) s
/-- CVT_BF16_F32_SHORT. -/
def execCvtBf16F32Short (f : ShortF) (s : State) : Out := opCvt (f.fields 0 .bf16 .vec 19) s
/-- CVT_F32_BF16_SHORT. -/
def execCvtF32Bf16Short (f : ShortF) (s : State) : Out := opCvt (f.fields 0 .f32 .vec 21) s

end Sys2Proof.Machine
end

