-- ==== Sys2Proof/Machine/Settle.lean ====
section
/-!
DEFINITION. Conditions that the part evaluates every cycle over threads that wait: joins and join deadlock (02 R26, R27), team
barriers (20 R351, R352), the return from a trap (09 R185), last post and compaction deadlock (02 R36, R37). A meaning that may
make one of them hold ends in `State.settle`; the release of a join is an event of its own.
-/

namespace Sys2Proof.Machine

def Thread.live (t : Thread) : Bool := !t.exited
def Group.liveThreads (g : Group) : List (Nat × Thread) := g.tidsOf.filter fun e => e.2.live

/-! ### Joins -/

/-- The join address and mask of a thread in join wait; the thread itself always counts as named (R26), and its record shows the mask with
its own bit (R27) (DESIGN CHOICE, log 47). -/
def Thread.joinAt (t : Thread) (tid : Nat) : Option (Word × Dword) :=
  match t.status with
  | .join adr mask _ => some (adr, mask ||| (1 <<< tid : BitVec 64))
  | _ => none

/-- The threads of a group that wait at a join address, and whether it releases them (R26). -/
def Group.waitersAt (g : Group) (adr : Word) : List (Nat × Thread) :=
  g.tidsOf.filter fun e => match e.2.joinAt e.1 with | some (a, _) => a == adr | none => false
def Group.joinReady (g : Group) (adr : Word) : Bool :=
  let w := g.waitersAt adr
  let u : Dword := w.foldl (fun m e => match e.2.joinAt e.1 with | some (_, k) => m ||| k | none => m) 0
  !w.isEmpty && (maskBits u g.threads.length).all fun i =>
    w.any (fun e => e.1 == i) || (match g.threads[i]? with | some t => t.exited | none => true)
/-- The join addresses of a group. -/
def Group.joinAdrs (g : Group) : List Word :=
  (g.tidsOf.filterMap fun e => (e.2.joinAt e.1).map (·.1)).eraseDups

/-- The release of R26: one new tag, and the threads go on; what they issue to team memory stands behind what they issued before (R314). -/
def State.joinRelease (s : State) (gid : Nat) (adr : Word) : State :=
  match s.group? gid with
  | none => s
  | some g =>
    if g.joinReady adr then
      let now := (s.core g.coreNo).cycles
      let l := (g.waitersAt adr).map (·.1)
      let before := g.teamPending l
      s.bump.modGroup gid fun g => g.modThreads l fun t =>
        match t.status with
        | .join _ _ npc => { t.ordered before with status := .ready, pc := npc, tag := s.fresh, stamp := now }
        | _ => t
    else s

/-- Join deadlock (R27): every live thread waits at a join and no join of the group releases. -/
def Group.joinDead (g : Group) : Bool :=
  !g.liveThreads.isEmpty && (g.liveThreads.all fun e => (e.2.joinAt e.1).isSome && !e.2.held)
    && !(g.joinAdrs.any g.joinReady) && !g.halted && !g.halting && g.entering.isNone
def State.settleJoin (s : State) (g : Group) : State :=
  if g.joinDead then
    let entry (e : Nat × Thread) : Trapped :=
      let jm := (e.2.joinAt e.1).getD (0, 0)
      ⟨e.1, e.2.pc, { cause := 0x0030, info := 0, flags := 1, word := s.faultWord g e.1, detailA := jm.1.setWidth 64, detailB := jm.2 }⟩
    s.raise g.gid (s.waitId g (g.liveThreads.map (·.1))) ⟨0x0030, 0, g.liveThreads.map entry⟩
  else s

/-! ### Team barriers -/

def Thread.barAt (t : Thread) : Option Nat :=
  match t.status with
  | .blocked (.bar n) _ => some n
  | _ => none
/-- The live threads of a team, with their groups. -/
def State.teamThreads (s : State) (tuid : Nat) : List (Nat × Nat × Thread) :=
  (s.groups.filter fun g => g.tuid == tuid).flatMap fun g => g.liveThreads.map fun e => (g.gid, e.1, e.2)
/-- Is a thread of a group halted: a trap's entry, a held trap or a debugger stops it (R15)? -/
def Group.haltedNow (g : Group) : Bool := g.halted || g.halting || g.entering.isSome || g.threads.any fun t => t.held && !t.exited
/-- The barrier at which every live thread of the team has arrived (R351), or a mismatch (R352), which no team has while a group of it
is halted. -/
def State.settleBar (s : State) (tuid : Nat) : State :=
  let ts := s.teamThreads tuid
  let ns := ts.filterMap fun e => e.2.2.barAt
  if ts.isEmpty || ns.length != ts.length then s
  else
    match ns.eraseDups with
    | [_] =>
      let gs := s.groups.filter fun g => g.tuid == tuid
      let before := gs.flatMap fun g => g.teamPending (List.range g.threads.length)
      gs.foldl (fun acc g =>
        let now := (acc.core g.coreNo).cycles
        acc.bump.modGroup g.gid fun h => { h with threads := h.threads.map fun t =>
          match t.status with
          | .blocked (.bar _) npc => { t.ordered before with status := .ready, pc := npc, tag := acc.fresh, stamp := now }
          | _ => t }) s
    | _ =>
      if s.groups.any fun g => g.tuid == tuid && g.haltedNow then s
      else (s.groups.filter fun g => g.tuid == tuid && !g.liveThreads.isEmpty).foldl (fun acc g =>
        let entry (e : Nat × Thread) : Trapped :=
          ⟨e.1, e.2.pc, { cause := 0x0031, info := 0, flags := 1, word := s.faultWord g e.1,
                          detailA := BitVec.ofNat 64 (e.2.barAt.getD 0), detailB := BitVec.ofNat 64 g.number }⟩
        acc.raise g.gid (acc.waitId g (g.liveThreads.map (·.1))) ⟨0x0031, 0, g.liveThreads.map entry⟩) s

/-! ### The compaction unit -/

def Thread.collectAt (t : Thread) : Option (Nat × Nat × Nat) :=
  match t.status with
  | .blocked (.collect h d p _) _ => some (h, d, p)
  | _ => none
def Thread.postAt (t : Thread) : Option Nat :=
  match t.status with
  | .blocked (.post h _ _) _ => some h
  | _ => none

/-- Items in flight to a pigeonhole: posted by threads that went on, not yet written (R35). -/
def State.inFlight (s : State) (lid h : Nat) : Nat :=
  (s.groups.flatMap fun g => g.threads.flatMap fun t => t.ops.filter fun a => a.place == .hole lid h).length
def Launch.hole (l : Launch) (h : Nat) : Hole := nth l.holes h ⟨false, 0, 0, []⟩
def Launch.setHole (l : Launch) (h : Nat) (x : Hole) : Launch := { l with holes := l.holes.set h x }
/-- A pigeonhole that is not full takes one more item: those in flight are not stored yet (R35). -/
def Launch.holeRoom (l : Launch) (h : Nat) : Bool := (l.hole h).items.length < 2 ^ (l.hole h).cap

/-- The participants of a launch are blocked as `k` says; teams not admitted or not resident are participants that are not (R36,
R445). -/
def State.participants (s : State) (l : Launch) : List Thread :=
  (s.groups.filter fun g => g.lid == l.lid && !g.isHandler).flatMap fun g => (g.liveThreads.map (·.2))
def State.allHere (s : State) (l : Launch) : Bool :=
  l.nextTeam == l.kernel.teams && (s.teams.all fun t => t.lid != l.lid || t.isHandler || t.state == .resident)
/-- A handler task of the launch runs, or a message to it waits (R39). -/
def State.handlerBusy (s : State) (l : Launch) : Bool :=
  (s.groups.any fun g => g.lid == l.lid && g.isHandler && !g.retired)
    || s.dies.any fun d => d.2.messages.any fun m => m.lid.toNat == l.lid

/-- A blocked `collect` returns: its pair, its predicate, and the thread goes on (R36, R354). -/
def Thread.collected (t : Thread) (x : Dword) (last : Bool) (now : Nat) : Thread :=
  match t.status with
  | .blocked (.collect _ d p _) npc =>
    let u := (t.writeRegs d [x.setWidth 32, x.extractLsb' 32 32]).writePred p last
    { u with status := .ready, pc := npc, stamp := now }
  | _ => t

/-- The pigeonholes that a participant's post waits at because they are full: it is blocked there, or its item is in flight there from
before the pigeonhole was full (DESIGN CHOICE, log 47). -/
def State.fullPosts (s : State) (l : Launch) : List Nat :=
  ((s.participants l).flatMap fun t => (t.postAt.toList ++ t.ops.filterMap fun a => match a.place with
    | .hole k h => if k = l.lid then some h else none
    | _ => none)).filter fun h => !l.holeRoom h
/-- Last post (R36), or compaction deadlock (R37), for a launch. A thread that is blocked in a group that the debugger has halted stays blocked (R451):
it counts as blocked here (DEDUCED, log 47). A post whose pigeonhole has room again is about to go on. -/
def State.settleLaunch (s : State) (l : Launch) : State :=
  let ps := s.participants l
  let inF := (List.range l.holes.length).foldl (fun n h => n + s.inFlight l.lid h) 0
  if l.holes.isEmpty || l.lastPost || !s.allHere l then s
  else if (ps.all fun t => t.collectAt.isSome) && (l.holes.all fun h => h.items.isEmpty) && inF == 0
      && !(s.groups.any fun g => g.lid == l.lid && g.threads.any fun t => t.postAt.isSome) && !s.handlerBusy l then
    let s1 := s.modLaunch l.lid fun l => { l with lastPost := true }
    (s.groups.filter fun g => g.lid == l.lid).foldl (fun acc g =>
      let now := (acc.core g.coreNo).cycles
      acc.modGroup g.gid fun h => { h with threads := h.threads.map fun t => if t.collectAt.isSome then t.collected 0 true now else t }) s1
  else
    -- a thread whose trap is held, or is being entered, is halted (R442)
    let stuck := (ps.all fun t => (t.collectAt.isSome || (match t.postAt with | some h => !l.holeRoom h | none => false)) && !t.held)
      && !(s.groups.any fun g => g.lid == l.lid && !g.isHandler && g.entering.isSome)
    match s.fullPosts l with
    | [] => s
    | p :: r =>
      if stuck then
        let low := r.foldl min p
        let info : Dword := BitVec.ofNat 64 low
        (s.groups.filter fun g => g.lid == l.lid && !g.isHandler && !g.liveThreads.isEmpty).foldl (fun acc g =>
          let entry (e : Nat × Thread) : Trapped := ⟨e.1, e.2.pc, { cause := 0x0032, info := info, flags := 1, word := s.faultWord g e.1 }⟩
          acc.raise g.gid (acc.waitId g (g.liveThreads.map (·.1))) ⟨0x0032, info, g.liveThreads.map entry⟩) s
      else s

/-- The issue of a thread's blocked `collect`. -/
def Thread.collectTrick (t : Thread) : Nat :=
  match t.status with
  | .blocked (.collect _ _ _ k) _ => k
  | _ => 0
/-- Blocked collectors of a pigeonhole that may take an item: those of one `collect` in ascending core lane (R354), and so those of several
(DESIGN CHOICE, log 44). One that a fence holds (R317) takes none, nor do the higher lanes of its `collect`. -/
def State.collectors (s : State) (lid h : Nat) : List (Nat × Nat × Nat) :=
  let l := (s.groups.filter fun g => g.lid == lid).flatMap fun g =>
    (g.tidsOf.filter fun e => match e.2.collectAt with | some (k, _, _) => k == h | none => false).map fun e =>
      (e.2.lane, g.gid, e.1, e.2.collectTrick, !(s.heldBehind e.2 (.hole lid h)).isEmpty)
  (sortBy (fun x y => x.1 < y.1) (l.filter fun x => !(l.any fun y => y.2.2.2.2 && y.2.2.2.1 == x.2.2.2.1 && y.1 ≤ x.1))).map fun x =>
    (x.1, x.2.1, x.2.2.1)
/-- Give the oldest items of a pigeonhole to its blocked collectors (R35, R354), and who got one: those complete together (R25). -/
def State.takeItems (s : State) (lid h : Nat) : Nat → List (Nat × Nat) → State × List (Nat × Nat)
  | 0, done => (s, done)
  | fuel + 1, done =>
    match s.launch? lid, s.collectors lid h with
    | some l, (_, gid, tid) :: _ =>
      match (l.hole h).items with
      | x :: r =>
        let now := match s.group? gid with | some g => (s.core g.coreNo).cycles | none => 0
        let s1 := s.modLaunch lid fun l => l.setHole h { l.hole h with items := r }
        (s1.modThread gid tid fun t => t.collected x false now).takeItems lid h fuel (done ++ [(gid, tid)])
      | [] => (s, done)
    | _, _ => (s, done)
def State.giveItems (s : State) (lid h : Nat) : State :=
  let n := match s.launch? lid with | some l => (l.hole h).items.length | none => 0
  let (s1, done) := s.takeItems lid h n []
  done.foldl (fun acc e => acc.trickDone e.1 ((s.thread? e.1 e.2).map Thread.collectTrick |>.getD 0)) (s1.splitLate done)
/-- The items of a launch's pigeonholes go to the collectors that wait for them (R354). -/
def State.serveHoles (s : State) (lid : Nat) : State :=
  match s.launch? lid with
  | none => s
  | some l => (List.range l.holes.length).foldl (fun acc h => if (l.hole h).items.isEmpty then acc else acc.giveItems lid h) s

/-! ### Active messages (R355, R42, R394) -/

def messageQueue : Nat := 256
def messageCredits : Nat := 16
/-- Room for a message: credits of a die of another module; for a die of this one, its queue with the messages on their way to it counted
(DESIGN CHOICE, log 44: the spec gives credits to other modules only). -/
def State.canSend (s : State) (module : Nat) (m : Msg) : Bool :=
  if module = s.boot.position then
    (s.die m.die).messages.length + (s.messagesOut.filter fun e => e.module == module && e.m.die == m.die).length < messageQueue
  else tget s.credits (16 * module + m.die) 0 < messageCredits && s.pairRoom m.srcDie module
/-- A message is accepted for sending. -/
def State.acceptMessage (s : State) (gid tid module : Nat) (m : Msg) : State :=
  let s1 := { s with messagesOut := s.messagesOut ++ [⟨module, gid, tid, m⟩] }
  if module = s.boot.position then s1
  else ({ s1 with credits := tset s1.credits (16 * module + m.die) (tget s1.credits (16 * module + m.die) 0 + 1) }).sendReq
    m.srcDie module (.message m) 0 0 (4 * m.words.length) (.message m)

def Thread.sendAt (t : Thread) : Option (Nat × Msg) :=
  match t.status with
  | .blocked (.amsend m k) _ => some (k, m)
  | _ => none
/-- A fence holds a thread's later sends until the accesses before it have been performed (R317, R346). -/
def State.sendHeld (s : State) (t : Thread) : Bool := t.holds.any fun h => h.reach ≤ 4 && h.before.any s.isPending
/-- A blocked sender whose message can be accepted: its group, number, thread, destination module and message. -/
abbrev Sender := Group × Nat × Thread × Nat × Msg
def State.canGo (s : State) : List Sender :=
  s.groups.flatMap fun g => g.tidsOf.filterMap fun e => match e.2.sendAt with
    | some (k, m) => if s.canSend k m && !s.sendHeld e.2 then some (g, e.1, e.2, k, m) else none
    | none => none
/-- The first senders of each die, by the counts of its cores; counts of two dies are never compared (R8). -/
def firstSenders (l : List Sender) : List Sender :=
  (l.map fun x => x.1.die).eraseDups.filterMap fun d => leastBy (fun x y => x.2.2.1.lastIssue < y.2.2.1.lastIssue) (l.filter fun x => x.1.die == d)
/-- Blocked senders whose messages can now be accepted go on: on one die the one that issued first by its core's count, and among dies a
free choice (DESIGN CHOICE, log 44); those that are accepted together complete together (R25). -/
def State.acceptNext (s : State) : Nat → List (Nat × Nat) → State × List (Nat × Nat)
  | 0, done => (s, done)
  | fuel + 1, done =>
    let l := firstSenders s.canGo
    let one := match l with
      | [x] => some x
      | _ => l[Config.pickItem s.choices l.length % l.length]?
    match one with
    | none => (s, done)
    | some (g, tid, _, k, m) =>
      let s1 := if l.length = 1 then s else { s with choices := s.choices + 1 }
      ((s1.acceptMessage g.gid tid k m).modThread g.gid tid fun t => t.wakeUp (s.core g.coreNo).cycles).acceptNext fuel (done ++ [(g.gid, tid)])
def State.senders (s : State) : Nat := (s.groups.flatMap fun g => g.threads.filter fun t => t.sendAt.isSome).length
def State.serveSenders (s : State) : State :=
  let (s1, done) := s.acceptNext s.senders []
  s1.splitLate done

/-! ### Halts (R445 step 2, R451) -/

/-- No fixed operation of a group is in flight: loads, atomics, peer accesses, evaluations, decided matrix commands. -/
def Thread.fixedDone (t : Thread) : Bool :=
  t.inv.isNone && t.pendV.isEmpty && (t.ops.all fun a => a.op.isStore && !a.queued)
/-- The commands of some groups that stay: undecided guarded ones, and every later command of the group that names a handle of one of
them (R259, R448). -/
def heldCmds (cmds : List MatCmd) (gids : List Nat) : List MatCmd :=
  cmds.foldl (fun acc c =>
    if gids.contains c.gid && (c.guard.isSome || acc.any fun h => h.gid == c.gid && c.handles.any fun x => h.handles.contains x)
      then acc ++ [c] else acc) []
def State.matrixQuiet (s : State) (quad : Nat) (gids : List Nat) : Bool :=
  let cmds := (s.quad quad).cmds
  let held := heldCmds cmds gids
  cmds.all fun c => !gids.contains c.gid || held.any fun h => h.cid == c.cid
def State.groupQuiet (s : State) (g : Group) : Bool := g.threads.all Thread.fixedDone && s.matrixQuiet g.quadNo [g.gid]
/-- A halt request completes (R451). From the first halt that completes on, the debugger counts as attached to the group (R175) (DESIGN CHOICE,
log 47: the spec does not say from when to when). -/
def State.settleHalt (s : State) (g : Group) : State :=
  if g.halting && s.groupQuiet g then
    s.modGroup g.gid fun h => { h with halting := false, halted := true, attached := true }
  else s

/-! ### All of them -/

/-- Evaluate every condition over waiting threads. -/
def State.settle (s : State) : State :=
  let s1 := s.groups.foldl (fun acc g => acc.tretRelease g.gid) s
  let s2 := s1.groups.foldl (fun acc g => match acc.group? g.gid with | some h => acc.settleJoin h | none => acc) s1
  let s2 := s2.groups.foldl (fun acc g => match acc.group? g.gid with | some h => acc.settleHalt h | none => acc) s2
  let s3 := (s2.teams.foldl (fun acc t => acc.settleBar t.tuid) s2).serveSenders
  let s3 := s3.launches.foldl (fun acc l => acc.serveHoles l.lid) s3
  s3.launches.foldl (fun acc l => match acc.launch? l.lid with | some k => acc.settleLaunch k | none => acc) s3

end Sys2Proof.Machine
end

