-- ==== Sys2Proof/Machine/Memory.lean ====
section
/-!
DEFINITION. Class 5: loads, stores, acquire and release, atomics, fences, monitors, barriers and chutes (20 R339 to R348, R351,
R356, R357).
-/

namespace Sys2Proof.Machine

/-- An address by its space (R339): stack and team offsets, scr and peer virtual addresses. -/
def address (space : Nat) (base : Except TrapInfo Dword) (off : Except TrapInfo Dword) : Except TrapInfo Dword := do
  let b ← base
  let o ← off
  match space with
  | 0 => return b + o
  | 1 => return BitVec.ofNat 64 ((b.toNat + o.toNat) % 2 ^ 32)
  | _ => return b + (o.setWidth 32 : Word).signExtend 64

/-- Alignment (R340), then the request. -/
def Ctx.aligned (c : Ctx) (va : Dword) (n : Nat) (r : MemReq) : Except TrapInfo MemReq :=
  if va.toNat % n != 0 then .error { c.trapAt 0x0040 va with address := va } else .ok r

/-- Base and offset of a load form: A and B. The second word of a long-immediate load is a signed offset in every space (R104, R339)
(DEDUCED, log 47). -/
def Ctx.loadAddr (c : Ctx) (space tid : Nat) : Except TrapInfo Dword :=
  address space (c.opdA .int (spaceWords space) tid)
    (match space, c.f.b with | 0, .lit32 v => .ok (v.signExtend 64) | _, _ => c.opdB .int 1 tid)
/-- Base and offset of a store form: D and A. -/
def Ctx.storeAddr (c : Ctx) (space tid : Nat) : Except TrapInfo Dword :=
  let d : Src := if c.f.kd = .scal then .scal c.f.d else .vec c.f.d
  address space (c.raw .int (spaceWords space) tid d) (c.opdA .int 1 tid)

/-- A request of the unit being issued. -/
def Ctx.req (c : Ctx) (space : Nat) (va : Dword) (n : Nat) (op : AccOp) (order scope : Nat) : MemReq :=
  { space := space, va := va, size := n, op := op, order := order, scope := scope, guard := none, trick := c.s.issue.id }
/-- `ld` and `lda` (R342, R344). -/
def Ctx.loadReq (c : Ctx) (order scope : Nat) (tid : Nat) : Except TrapInfo MemReq := do
  let sp := c.f.v.toNat
  let va ← c.loadAddr sp tid
  let n := memBytes c.f.ty
  c.aligned va n (c.req sp va n (.load c.f.d c.f.ty) order scope)

/-- The bytes a store writes (R340). -/
def Ctx.storeData (c : Ctx) (tid : Nat) : Except TrapInfo (List Byte) := do
  let n := memBytes c.f.ty
  if c.f.ty == .b128 then
    let k := c.f.b.num
    let w0 ← c.opd .bits 1 1 tid (.vec k)
    let w1 ← c.opd .bits 1 1 tid (.vec (k + 1))
    let w2 ← c.opd .bits 1 1 tid (.vec (k + 2))
    let w3 ← c.opd .bits 1 1 tid (.vec (k + 3))
    return leBytes 4 w0.toNat ++ leBytes 4 w1.toNat ++ leBytes 4 w2.toNat ++ leBytes 4 w3.toNat
  let x ← c.bitB c.f.ty.words tid
  return leBytes n x.toNat

/-- Where a guarded command stands at issue (R77, R178): decided true, decided false, or undecided. A slot never held decides
true. -/
def Group.guardNow (g : Group) (p : GuardP) : Option Bool :=
  match (nth g.g p.gs.toNat 0).toNat with
  | 1 => some (!p.sns)
  | 2 => some p.sns
  | 3 => some true
  | _ => none

/-- `st` and `stl` (R342, R344). A guarded copy start that is decided false at issue is discarded; an undecided one carries its
guard. -/
def Ctx.storeReq (c : Ctx) (order scope : Nat) (tid : Nat) : Except TrapInfo MemReq := do
  let sp := c.f.v.toNat
  let va ← c.storeAddr sp tid
  let bs ← c.storeData tid
  let n := memBytes c.f.ty
  let g := c.s.issue.pfx.guard
  c.aligned va n { c.req sp va n (.store bs) order scope with guard := g, guarded := g.isSome }

/-- `atom` (R345): the address is A alone. -/
def Ctx.atomReq (c : Ctx) (tid : Nat) : Except TrapInfo MemReq := do
  let x := c.f.x.toNat
  let sp := x / 32 + 1
  let va ← c.opdA .int (spaceWords sp) tid
  let t := c.f.ty
  let k : LitKind := match t with
    | .f32 => .flt .f32 false
    | .f16x2 => .flt .f16 true
    | .b32 | .b64 => .bits
    | _ => .int
  let b ← c.opdB k t.words tid
  let n := memBytes t
  c.aligned va n (c.req sp va n (.atom c.f.d c.f.v t b) (x / 8 % 4) (x % 8))

/-- `cas` (R345). -/
def Ctx.casReq (c : Ctx) (tid : Nat) : Except TrapInfo MemReq := do
  let sp := c.f.v.toNat
  let x := c.f.x.toNat
  let va ← c.opdA .int (spaceWords sp) tid
  let t := c.f.ty
  let b ← c.bitB t.words tid
  let z ← c.bitC t.words tid
  let n := memBytes t
  c.aligned va n (c.req sp va n (.cas c.f.d t b z) (x / 8 % 4) (x % 8))

/-- `marm` (R348): the aligned 8 bytes that hold the address. -/
def Ctx.armReq (c : Ctx) (tid : Nat) : Except TrapInfo MemReq := do
  let sp := c.f.v.toNat
  let va ← c.loadAddr sp tid
  let a := BitVec.ofNat 64 (va.toNat / 8 * 8)
  return c.req sp a 8 .arm 0 0

/-- Decide a guarded start at its issue. -/
def Ctx.decideGuard (c : Ctx) (r : MemReq) : MemReq :=
  match r.guard with
  | none => r
  | some p => r.decided (c.g.guardNow p)

/-- A plain unit of `fence` (R317, R346): later accesses in reach wait for the pending ones. -/
def Thread.fence (t : Thread) (gid tid die scope : Nat) : Thread :=
  match t.pendingIn gid tid die scope with
  | [] => t
  | l => { t with holds := t.holds ++ [⟨scope, die, l⟩] }

def opLd (f : Fields) (s : State) : Out := memUnit .ld f s keepAll fun c => c.loadReq 0 0
/-- `st`. A guarded store is checked with its guard, so that one outside an aperture traps (R79); it is then decided. -/
def opSt (f : Fields) (s : State) : Out := memUnit .st f s Ctx.decideGuard fun c => c.storeReq 0 0
def opLda (f : Fields) (s : State) : Out := memUnit .lda f s keepAll fun c => c.loadReq 1 (c.f.x.toNat % 8)
def opStl (f : Fields) (s : State) : Out := memUnit .stl f s keepAll fun c => c.storeReq 2 (c.f.x.toNat % 8)
def opAtom (f : Fields) (s : State) : Out := memUnit .atom f s keepAll Ctx.atomReq
def opCas (f : Fields) (s : State) : Out := memUnit .cas f s keepAll Ctx.casReq
def opMarm (f : Fields) (s : State) : Out := memUnit .marm f s keepAll Ctx.armReq

def opFence (f : Fields) (s : State) : Out :=
  .next (s.perGroup f fun c acc =>
    (acc.modGroup c.g.gid fun g => c.exec.foldl (fun g i => g.modThread i fun t => t.fence c.g.gid i c.g.die c.f.v.toNat) g).advance
      c.g.gid c.tids)

/-- `mwait` (R348): returns at once when a store has been performed since the arm, or when nothing is armed; the arm is
consumed. -/
def Thread.mwait (t : Thread) (npc : Word) (now : Nat) : Thread :=
  match t.monitor with
  | some ⟨_, false, _⟩ => { t with status := .blocked .mwait npc }
  | _ => { t.goto npc now with monitor := none }
def opMwait (f : Fields) (s : State) : Out :=
  .next (s.splitEarly f <| s.perGroup f fun c acc =>
    let s1 := acc.advance c.g.gid (c.tids.filter fun t => !c.exec.contains t)
    (s1.modGroup c.g.gid fun g => g.modThreads c.exec fun t => t.mwait c.s.issue.npc c.now).tidyArms)

/-- `bar` (R351): each executing thread arrives at the barrier that its own B names and blocks; a number above 15 is an illegal
instruction at issue. -/
def Ctx.barNo (c : Ctx) (tid : Nat) : Except TrapInfo Nat := do
  let b ← c.raw .int 1 tid c.f.b
  if 15 < b.toNat then throw c.illegal
  return b.toNat
def opBar (f : Fields) (s : State) : Out :=
  .next (State.settle (eachUnit .bar f s Ctx.barNo fun c tid b => c.block tid (.bar b)))

/-! ### Chutes (R356, R357, R376, R381) -/

def chuteCap : Nat := 64
def Core.chute (c : Core) (i : Nat) : Chute := nth c.chutes i []

/-- Why a chute access faults: the launch does not own the chutes (reason 2), or they are marked failed (reason 1). -/
def Core.chuteFault (c : Core) (lid : Nat) : Option Nat :=
  match c.owner with
  | some l => if l != lid then some 2 else if c.failed then some 1 else none
  | none => if c.failed then some 1 else none
def Ctx.chuteTrap (c : Ctx) (ch : Nat) (k : Core) (n : Nat) : TrapInfo :=
  { c.trapAt 0x0049 (BitVec.ofNat 64 ch) with
    reason := BitVec.ofNat 8 n
    detailA := BitVec.ofNat 64 k.dealer.idx
    detailB := k.dealer.reason.setWidth 64 }

/-- The threads of the owning launch that block at a chute; those of one trick block together (R356, R376). -/
def State.chuteWaiters (s : State) (core ch : Nat) (pop : Bool) : List (Nat × Nat × Nat × Thread) :=
  (s.groups.filter fun g => g.coreNo == core && (match (s.core core).owner with | some l => g.lid == l | none => true)).flatMap fun g =>
    g.tidsOf.filterMap fun e =>
    match e.2.status with
    | .blocked (.pop k _ _) _ => if pop && k == ch then some (e.2.lane, g.gid, e.1, e.2) else none
    | .blocked (.push k _) _ => if !pop && k == ch then some (e.2.lane, g.gid, e.1, e.2) else none
    | _ => none

/-- The entry that a set of pushing threads appends: word %lane of each (R357). -/
def entryOf (ws : List (Nat × Word)) : List Word :=
  (List.range 64).map fun i => match ws.find? fun e => e.1 == i with | some e => e.2 | none => 0

/-- The issue of a thread's blocked `pop`. -/
def Thread.popTrick (t : Thread) : Nat :=
  match t.status with
  | .blocked (.pop _ _ k) _ => k
  | _ => 0
/-- Give a chute's head entry to popping threads. -/
def Thread.popped (t : Thread) (entry : List Word) (now : Nat) : Thread :=
  match t.status with
  | .blocked (.pop _ d _) npc => { t.writeReg d (nth entry t.lane 0) with status := .ready, pc := npc, stamp := now }
  | _ => t
def Thread.pushed (t : Thread) (now : Nat) : Thread :=
  match t.status with
  | .blocked (.push _ _) npc => { t with status := .ready, pc := npc, stamp := now }
  | _ => t

/-- Serve the threads blocked at a chute while it has an entry for a `pop` or room for a `push`. The threads of one trick share
a program counter and a launch; the oldest is served first. -/
def State.serveChute (s : State) (core ch : Nat) : Nat → State
  | 0 => s
  | fuel + 1 =>
    let k := s.core core
    let first (l : List (Nat × Nat × Nat × Thread)) : List (Nat × Nat × Nat × Thread) :=
      match leastBy (fun x y => x.2.2.2.lastIssue < y.2.2.2.lastIssue) l with
      | some m => l.filter fun x => x.2.2.2.lastIssue == m.2.2.2.lastIssue && x.2.2.2.pc == m.2.2.2.pc
      | none => []
    let pops := first (s.chuteWaiters core ch true)
    let pushes := first (s.chuteWaiters core ch false)
    match k.chute ch, pops, pushes with
    | e :: r, _ :: _, _ =>
      let s1 := s.setCore core { k with chutes := k.chutes.set ch r }
      let s2 := pops.foldl (fun acc x => acc.modThread x.2.1 x.2.2.1 fun t => t.popped e k.cycles) s1
      (pops.foldl (fun acc x => acc.trickDone x.2.1 x.2.2.2.popTrick) s2).serveChute core ch fuel
    | l, _, _ :: _ =>
      if l.length < chuteCap then
        let ws := pushes.filterMap fun x => match x.2.2.2.status with | .blocked (.push _ w) _ => some (x.1, w) | _ => none
        let s1 := s.setCore core { k with chutes := k.chutes.set ch (l ++ [entryOf ws]) }
        (pushes.foldl (fun acc x => acc.modThread x.2.1 x.2.2.1 fun t => t.pushed k.cycles) s1).serveChute core ch fuel
      else s
    | _, _, _ => s

/-- The chute-fault trap of a blocked thread, at its unit (R441). -/
def State.chuteBlockedTrap (s : State) (g : Group) (core reason : Nat) (t : Thread) (tid : Nat) : Option Trapped :=
  let k := s.core core
  let mk (ch : Nat) : Trapped :=
    ⟨tid, t.pc, { cause := 0x0049, info := BitVec.ofNat 64 ch, reason := BitVec.ofNat 8 reason, flags := 1, word := s.faultWord g tid,
                  detailA := BitVec.ofNat 64 k.dealer.idx, detailB := k.dealer.reason.setWidth 64 }⟩
  match t.status with
  | .blocked (.pop ch _ _) _ => some (mk ch)
  | .blocked (.push ch _) _ => some (mk ch)
  | _ => none
/-- The threads that blocked at one unit in one issue, of some. -/
def unitsOf (l : List (Trapped × Thread)) : List (List Trapped) :=
  ((l.map fun x => (x.2.pc, x.2.lastIssue)).eraseDups).map fun k => (l.filter fun x => (x.2.pc, x.2.lastIssue) == k).map (·.1)
/-- Trap the threads of some of a core's groups that are blocked at its chutes: those of each unit's issue together (R440), the groups' later ones
held behind the first (R442). -/
def State.trapChutes (s : State) (core reason : Nat) (hit : Group → Bool) : State :=
  (s.groups.filter fun g => g.coreNo == core && hit g).foldl (fun acc g =>
    let l := g.tidsOf.filterMap fun e => (s.chuteBlockedTrap g core reason e.2 e.1).map fun x => (x, e.2)
    let acc1 := acc.modGroup g.gid fun h => h.modThreads (l.map (·.1.tid)) fun t => { t with status := .ready }
    (unitsOf l).foldl (fun acc u => match u with
      | [] => acc
      | x :: _ => acc.raise g.gid (acc.waitId g (u.map (·.tid))) ⟨0x0049, x.data.info, u⟩) acc1) s
/-- A launch takes a core's chutes: threads of other launches that are blocked there trap (R376). -/
def State.ownChutes (s : State) (core lid : Nat) : State :=
  (s.setCore core { s.core core with owner := some lid }).trapChutes core 2 fun g => g.lid != lid

/-- `pop` and `push` block their executing threads and are served at once when they can be; while a `pop` waits, the destinations of its trick's other
threads are pending (R57). -/
def chuteUnit (o : Op) (f : Fields) (s : State) (ch : Ctx → Nat) (wait : Ctx → Nat → Except TrapInfo Wait) : Out :=
  let go (s : State) : State := s.perGroup f fun c acc =>
    let k := c.s.core c.g.coreNo
    let res := c.exec.map fun t => (t, (c.precheck o t).bind fun _ =>
      match k.chuteFault c.g.lid with
      | some n => .error (c.chuteTrap (ch c) k n)
      | none => wait c t)
    match failures res with
    | [] =>
      let s1 := acc.advance c.g.gid (c.tids.filter fun t => !c.exec.contains t)
      (successes res).foldl (fun a e => a.modThread c.g.gid e.1 fun t => { t with status := .blocked e.2 c.s.issue.npc }) s1
    | errs => acc.unitTrap c c.exec errs
  let s1 := go s
  let core := s.issue.core
  let k := s1.core core
  -- the first push takes ownership for its launch (R376)
  let s2 := if o == .push && k.owner.isNone && (s1.chuteWaiters core (f.d % 4) false).length != 0 then s1.ownChutes core s.issue.lid else s1
  let s3 := s2.serveChute core (match o with | .pop => f.b.num % 4 | _ => f.d % 4) 128
  .next (if o == .pop then s3.pendTrick s f fun c => [c.f.d] else s3)

def opPush (f : Fields) (s : State) : Out :=
  chuteUnit .push f s (fun c => c.f.d) fun c t => (c.intA 1 t).map fun x => .push (c.f.d % 4) (x.setWidth 32)
def opPop (f : Fields) (s : State) : Out :=
  chuteUnit .pop f s (fun c => c.f.b.num) fun c _ => .ok (.pop (c.f.b.num % 4) c.f.d c.s.issue.id)

/-! ### One meaning per row (R94 to R104) -/

/-- LD. -/
def execLd (f : LongF) (s : State) : Out := opLd (f.fields) s
/-- ST. -/
def execSt (f : LongF) (s : State) : Out := opSt (f.fields) s
/-- LDA. -/
def execLda (f : LongF) (s : State) : Out := opLda (f.fields) s
/-- STL. -/
def execStl (f : LongF) (s : State) : Out := opStl (f.fields) s
/-- ATOM. -/
def execAtom (f : LongF) (s : State) : Out := opAtom (f.fields) s
/-- CAS. -/
def execCas (f : LongF) (s : State) : Out := opCas (f.fields) s
/-- FENCE. -/
def execFence (f : LongF) (s : State) : Out := opFence (f.fields) s
/-- MARM. -/
def execMarm (f : LongF) (s : State) : Out := opMarm (f.fields) s
/-- MWAIT. -/
def execMwait (f : LongF) (s : State) : Out := opMwait (f.fields) s
/-- BAR. -/
def execBar (f : LongF) (s : State) : Out := opBar (f.fields) s
/-- PUSH. -/
def execPush (f : LongF) (s : State) : Out := opPush (f.fields) s
/-- POP. -/
def execPop (f : LongF) (s : State) : Out := opPop (f.fields) s
/-- LD_STACK_B32_SHORT. -/
def execLdStackB32Short (f : ShortF) (s : State) : Out := opLd (f.fields 0 .b32 .vec 0) s
/-- LD_TEAM_B32_SHORT. -/
def execLdTeamB32Short (f : ShortF) (s : State) : Out := opLd (f.fields 1 .b32 .vec 0) s
/-- LD_SCR_B32_SHORT. -/
def execLdScrB32Short (f : ShortF) (s : State) : Out := opLd (f.fields 2 .b32 .vec 0) s
/-- LD_TEAM_B64_SHORT. -/
def execLdTeamB64Short (f : ShortF) (s : State) : Out := opLd (f.fields 1 .b64 .vec 0) s
/-- LD_SCR_B64_SHORT. -/
def execLdScrB64Short (f : ShortF) (s : State) : Out := opLd (f.fields 2 .b64 .vec 0) s
/-- LD_TEAM_B128_SHORT. -/
def execLdTeamB128Short (f : ShortF) (s : State) : Out := opLd (f.fields 1 .b128 .vec 0) s
/-- LD_SCR_B128_SHORT. -/
def execLdScrB128Short (f : ShortF) (s : State) : Out := opLd (f.fields 2 .b128 .vec 0) s
/-- LD_PEER_B32_SHORT. -/
def execLdPeerB32Short (f : ShortF) (s : State) : Out := opLd (f.fields 3 .b32 .vec 0) s
/-- FENCE_TEAM_SHORT. -/
def execFenceTeamShort (f : ShortF) (s : State) : Out := opFence (f.fields 1 .i32 .vec 0) s
/-- FENCE_DIE_SHORT. -/
def execFenceDieShort (f : ShortF) (s : State) : Out := opFence (f.fields 2 .i32 .vec 0) s
/-- FENCE_MOD_SHORT. -/
def execFenceModShort (f : ShortF) (s : State) : Out := opFence (f.fields 3 .i32 .vec 0) s
/-- FENCE_SYS_SHORT. -/
def execFenceSysShort (f : ShortF) (s : State) : Out := opFence (f.fields 4 .i32 .vec 0) s
/-- BAR_SHORT. -/
def execBarShort (f : ShortF) (s : State) : Out := opBar (f.fields 0 .i32 .vec 0) s
/-- MWAIT_SHORT. -/
def execMwaitShort (f : ShortF) (s : State) : Out := opMwait (f.fields 0 .i32 .vec 0) s
/-- POP_B32_SHORT. -/
def execPopB32Short (f : ShortF) (s : State) : Out := opPop (f.fields 0 .b32 .vec 0) s
/-- LD_STACK_B32_LIMM. -/
def execLdStackB32Limm (f : LimmF) (s : State) : Out := opLd (f.fields 0 .b32 .vec) s
/-- LD_TEAM_B32_LIMM. -/
def execLdTeamB32Limm (f : LimmF) (s : State) : Out := opLd (f.fields 1 .b32 .vec) s
/-- LD_SCR_B32_LIMM. -/
def execLdScrB32Limm (f : LimmF) (s : State) : Out := opLd (f.fields 2 .b32 .vec) s
/-- LD_SCR_B64_LIMM. -/
def execLdScrB64Limm (f : LimmF) (s : State) : Out := opLd (f.fields 2 .b64 .vec) s
/-- LD_SCR_B128_LIMM. -/
def execLdScrB128Limm (f : LimmF) (s : State) : Out := opLd (f.fields 2 .b128 .vec) s
/-- LD_PEER_B32_LIMM. -/
def execLdPeerB32Limm (f : LimmF) (s : State) : Out := opLd (f.fields 3 .b32 .vec) s

end Sys2Proof.Machine
end

