-- ==== Sys2Proof/Machine/Matrix.lean ====
section
/-!
DEFINITION. Class 6, the matrix instructions (16 R265 to R286, 15 R252, R253, R256, R259).
-/

namespace Sys2Proof.Machine

/-! ### How a matrix instruction ends in one group -/

/-- What a group's command leaves: the state, and the command that its executing threads wait for. -/
structure MatDone where
  s : State
  wait : Option Nat := none

/-- The threads of a group that a matrix trap names: the executing ones, or all of the trick when none executes (R266). -/
def Ctx.matThreads (c : Ctx) : List Nat := if c.exec.isEmpty then c.tids else c.exec

/-- One group's execution of a matrix instruction (R253, R266). On an absent page its executing threads park together (R273). -/
def Ctx.runMat (c : Ctx) (o : Op) (r : Except MatStop MatDone) (s : State) : State :=
  let ex := c.matThreads
  let rest := c.tids.filter fun t => !c.exec.contains t
  match r with
  | .ok d =>
    match d.wait with
    | none => d.s.advance c.g.gid c.tids
    | some cid => (d.s.advance c.g.gid rest).modGroup c.g.gid fun g => g.modThreads c.exec fun t =>
        { t with status := .matrix [cid] c.s.issue.npc }
  | .error (.all e) => (s.reportBad e).unitTrap c ex (ex.map fun t => (t, e))
  | .error (.each errs) => (errs.foldl (fun a e => a.reportBad e.2) s).unitTrap c ex errs
  | .error (.absent va) => (s.advance c.g.gid rest).parkUnit c o c.exec va true
  | .error (.wait ops) => (s.advance c.g.gid rest).holdUnit c o c.exec ops
  | .error .busy => s.advance c.g.gid rest

/-- The register-range check of a matrix unit in a thread; a thread that does not execute misses no routed source (R59). -/
def Ctx.matCheck (c : Ctx) (o : Op) (tid : Nat) : Except TrapInfo Unit :=
  if c.exec.contains tid then c.precheck o tid else c.ranged o
/-- A matrix instruction over its trick: the register-range check first, then `body`. -/
def matUnit (o : Op) (f : Fields) (s : State) (body : Ctx → State → Except MatStop MatDone) : Out :=
  .next (s.perGroup f fun c acc =>
    match failures (c.matThreads.map fun t => (t, c.matCheck o t)) with
    | [] => c.runMat o (body c acc) acc
    | errs => c.runMat o (.error (.each errs)) acc)

/-- The matrix-issue trap (R253, R286, R441): reason and handle code. -/
def Ctx.matTrap (c : Ctx) (reason handle : Nat) : TrapInfo :=
  { c.trapHere 0x0052 with reason := BitVec.ofNat 8 reason, detailA := BitVec.ofNat 64 handle }

/-- The first failing check of a list of (fails, reason, handle). -/
def Ctx.checks (c : Ctx) : List (Bool × Nat × Nat) → Except MatStop Unit
  | [] => .ok ()
  | (bad, r, h) :: l => if bad then .error (.all (c.matTrap r h)) else c.checks l

def tileCode (t : Nat) : Nat := 0x40 + t
/-- The view of the group in a state (R253). -/
def Ctx.view (c : Ctx) (s : State) : Quad := (s.quad c.g.quadNo).view c.g.gid
def Quad.heldSlot (q : Quad) (gid o : Nat) : Bool := (q.slot o).holder == some gid
def Quad.heldTile (q : Quad) (gid t : Nat) : Bool := (q.tile t).holder == some gid

/-- Queue a command under its guard (R178, R259): decided false, it is dropped; decided or unguarded, it takes effect as soon as it
is first; undecided, it waits. The command's number is given when it is queued. -/
def Ctx.queue (c : Ctx) (s : State) (op : MatOp) (handles : List Nat) : State × Option Nat :=
  let dec : Option (Option GuardP) := match s.issue.pfx.guard with
    | none => some none
    | some p => match c.g.guardNow p with
      | some true => some none
      | some false => none
      | none => some (some p)
  match dec with
  | none => (s, none)
  | some g =>
    let qn := c.g.quadNo
    let cmd : MatCmd := ⟨s.fresh, c.g.gid, s.issue.id, op, c.exec, handles, g, s.quadNow qn, c.l.prio, 0, none⟩
    let r := if g.isNone then s.bump.takeDraws cmd else (cmd, s.bump)
    let q := r.2.quad qn
    ((r.2.setQuad qn { q with cmds := q.cmds ++ [r.1] }).settleQuad qn, some cmd.cid)

/-! ### Claims and releases (R252, R268) -/

/-- A claim of a handle: its answer, and the state. `same` says that the group's own claim stands as it is. -/
def Ctx.claim (c : Ctx) (s : State) (held : Quad → Option Nat) (op : MatOp) (h : Nat) : Bool × State :=
  if held (c.view s) = some c.g.gid then (true, s)
  else
    match held (s.quad c.g.quadNo) with
    | some o => if o = c.g.gid then (true, (c.queue s op [h]).1) else (false, s)
    | none => (true, (c.queue s op [h]).1)
def Ctx.claimed (c : Ctx) (r : Bool × State) : MatDone :=
  ⟨r.2.modGroup c.g.gid fun g => g.modThreads c.tids fun t => t.writePred c.f.d r.1, none⟩

def opOclaim (f : Fields) (s : State) : Out := matUnit .oclaim f s fun c acc =>
  let o := c.f.a.num
  .ok (c.claimed (c.claim acc (fun q => (q.slot o).holder) (.claimSlot o) o))
def opAclaim (f : Fields) (s : State) : Out := matUnit .aclaim f s fun c acc => do
  let t := c.f.a.num
  let n ← lift (c.sB .int 1)
  let v := c.view acc
  c.checks [(v.heldTile c.g.gid t && (v.tile t).n != n.toNat, 0x0C, tileCode t), (n.toNat < 8 || 64 < n.toNat, 0x0D, tileCode t)]
  return c.claimed (c.claim acc (fun q => (q.tile t).holder) (.claimTile t n.toNat) (tileCode t))
def opOrelease (f : Fields) (s : State) : Out := matUnit .orelease f s fun c acc => do
  let o := c.f.a.num
  c.checks [(!(c.view acc).heldSlot c.g.gid o, 0x0B, o)]
  return ⟨(c.queue acc (.release o) [o]).1, none⟩
def opArelease (f : Fields) (s : State) : Out := matUnit .arelease f s fun c acc => do
  let t := c.f.a.num
  c.checks [(!(c.view acc).heldTile c.g.gid t, 0x0B, tileCode t)]
  return ⟨(c.queue acc (.release (tileCode t)) [tileCode t]).1, none⟩

/-- `aclear` (R269). -/
def opAclear (f : Fields) (s : State) : Out := matUnit .aclear f s fun c acc => do
  let t := c.f.a.num
  let b := c.f.b.num
  let img := c.slotImg b
  if b != 0x7F && !isFloatFmt (slotFmt img) then throw (.all (c.slotTrap b))
  c.checks [(!(c.view acc).heldTile c.g.gid t, 0x05, tileCode t)]
  let op : MatOp := if b = 0x7F then .clear t 1 0 0 else .clear t 2 (slotAnchor img) b
  return ⟨(c.queue acc op [tileCode t]).1, none⟩

/-! ### `oload` (R270 to R273) -/

/-- An element smoothed (R272): rounded into its format, a fault action acting as zero. -/
def smoothElem (img : BitVec 128) (F : Fmt) (code : Nat) (d : Val) : Nat :=
  let mode := if slotRnd img = msr then rne else slotRnd img
  match convert F mode (slotPol img) false 0 ((F.decode code).mul d) with
  | .ok x => x
  | .error _ => 0

/-- A row smoothed by the divisors of its K channels. -/
def smoothRow (img : BitVec 128) (ds : List Val) (row : List Byte) : List Byte :=
  match fmtOfCode (slotFmt img) with
  | none => row
  | some F =>
    let w := elemBits (slotFmt img)
    bytesOf w ((List.range (rowK (slotFmt img))).map fun k => smoothElem img F (elemOf row w k) (nth ds k .nan))

/-- Slot rows from transposed source rows. -/
def transposed (w k c : Nat) (src : List (List Byte)) : List (List Byte) :=
  (List.range c).map fun r => bytesOf w ((List.range k).map fun i => elemOf (nth src i []) w r)

def opOload (f : Fields) (s : State) : Out := matUnit .oload f s fun c acc => do
  let o := c.f.d
  let n := (c.f.ty.fmtSlot?).getD 0
  let img := c.slotImg n
  let fmt := slotFmt img
  let sm := c.f.v == 2 || c.f.v == 3
  let tr := c.f.v == 1 || c.f.v == 3
  let a ← lift (c.sA .int 2)
  let p ← lift (c.sB .int 1)
  let cnt ← lift (c.sC .int 1)
  if !slotLoads fmt || (sm && (slotSmooth img == 0 || !isFloatFmt fmt)) then throw (.all (c.slotTrap n))
  c.checks [(!(c.view acc).heldSlot c.g.gid o, 0x01, o), (cnt.toNat < 1 || 64 < cnt.toNat, 0x0D, o)]
  if c.exec.isEmpty then return ⟨acc, none⟩
  let rows := cnt.toNat
  let w := elemBits fmt
  let k := rowK fmt
  let spanned := if tr then k else rows
  let adr (off : Nat) : Nat := (a.toNat + off) % 2 ^ 64
  let src := (List.range spanned).map fun r => (adr (r * p.toNat), if tr then (rows * w + 7) / 8 else 64)
  let nb := if blockSize (slotBlock img) = 0 then 0 else 64 / blockSize (slotBlock img)
  let scl := if nb = 0 then [] else (List.range rows).map fun r => (adr (spanned * p.toNat + r * nb), nb)
  let sp := if c.f.x = 0 then 1 else 2
  let dsrc := if sm then (List.range k).map fun i => ((divisorAt img i).toNat, 4) else []
  let got ← c.fetch acc c.exec sp (src ++ scl)
  let divs ← c.fetch acc c.exec 2 dsrc
  let acc := c.readMarks 2 dsrc (c.readMarks sp (src ++ scl) acc)
  let plain := if tr then transposed w k rows (got.take spanned) else got.take spanned
  let ds := divs.map fun b => divisorVal (BitVec.ofNat 32 (leNat b))
  let data := if sm then plain.map (smoothRow img ds) else plain
  return ⟨(c.queue acc (.oload o data (got.drop spanned) (slotTs img) fmt (slotBlock img) (slotBscale img)) [o]).1, none⟩

/-! ### Passes (R274 to R278) -/

/-- Does a slot's format fit a matrix type of `mma` (R253 reason 0x03)? -/
def fitsType (m : Nat) (fmt : BitVec 8) : Bool :=
  match m with
  | 0 => fmt == 3
  | 1 => fmt == 4
  | 2 => fmt == 1
  | 3 => fmt == 2
  | 4 => fmt == 8
  | 5 => fmt == 9
  | _ => isB8 fmt

/-- The checks that every pass shares, by reason 0x01 to 0x06 (R253). -/
def Ctx.passChecks (c : Ctx) (v : Quad) (t a b : Nat) (fa fb : BitVec 8 → Bool) (cplx : Bool) (mode : BitVec 2) :
    List (Bool × Nat × Nat) :=
  let n := (v.tile t).n
  [(!v.heldSlot c.g.gid a, 0x01, a), (!v.heldSlot c.g.gid b, 0x01, b), (!(v.slot a).filled, 0x02, a), (!(v.slot b).filled, 0x02, b),
   (!fa (v.slot a).fmt, 0x03, a), (!fb (v.slot b).fmt, 0x03, b), ((v.slot a).nrows < c.g.width, 0x04, a),
   ((v.slot b).nrows < (if cplx then n / 2 else n), 0x04, b), (!v.heldTile c.g.gid t, 0x05, tileCode t),
   ((v.tile t).mode != mode, 0x06, tileCode t)]

/-- Post a pass of the executing threads, when the table has an entry (R256, R266). -/
def Ctx.postPass (c : Ctx) (s : State) (op : MatOp) (handles : List Nat) : Except MatStop MatDone :=
  if c.exec.isEmpty then .ok ⟨s, none⟩
  else if 32 ≤ (s.quad c.g.quadNo).entries then .error .busy
  else .ok ⟨(c.queue s op handles).1, none⟩

def opMma (f : Fields) (s : State) : Out := matUnit .mma f s fun c acc => do
  let t := c.f.d
  let a := c.f.a.num
  let b := c.f.b.num
  let ta := (c.f.fn.extractLsb' 3 3).toNat
  let tb := (c.f.fn.extractLsb' 0 3).toNat
  let flt := 4 ≤ ta
  let n := c.slotNo (c.f.x.toNat / 2 % 8)
  if flt && c.slotImg (c.f.x.toNat / 2 % 8) == 0 then throw (.all (c.slotTrap (c.f.x.toNat / 2 % 8)))
  let v := c.view acc
  let tile := v.tile t
  c.checks (c.passChecks v t a b (fitsType ta) (fitsType tb) false (if flt then 2 else 1))
  if flt then
    c.checks [(tile.aslot != n, 0x07, tileCode t),
      (tile.tsset && (tile.tsA != (v.slot a).ts || tile.tsB != (v.slot b).ts), 0x08, tileCode t)]
  let k : PassKind := if flt then .float c.mod.fz else .int (c.f.x.getLsbD 0 || c.mod.sat)
  c.postPass acc (.pass k t a b) [tileCode t, a, b]

def opCmma (f : Fields) (s : State) : Out := matUnit .cmma f s fun c acc => do
  let t := c.f.d
  let a := c.f.a.num
  let b := c.f.b.num
  let fmt : BitVec 8 := if c.f.fn = 0 then 7 else 6
  let v := c.view acc
  c.checks (c.passChecks v t a b (· == fmt) (· == fmt) true 1 ++ [((v.tile t).n % 2 != 0, 0x09, tileCode t)])
  c.postPass acc (.pass (.cplx (c.f.x.getLsbD 1) (c.f.x.getLsbD 0 || c.mod.sat)) t a b) [tileCode t, a, b]

def opMzpc (f : Fields) (s : State) : Out := matUnit .mzpc f s fun c acc => do
  let t := c.f.d
  let a := c.f.a.num
  let img := c.slotImg c.f.b.num
  if img == 0 then throw (.all (c.slotTrap c.f.b.num))
  let v := c.view acc
  let n := (v.tile t).n
  let cplx := isCplx (v.slot a).fmt
  c.checks [(!v.heldSlot c.g.gid a, 0x01, a), (!(v.slot a).filled, 0x02, a),
    ((v.slot a).nrows < (if cplx then n / 2 else n), 0x04, a), (!v.heldTile c.g.gid t, 0x05, tileCode t),
    ((v.tile t).mode != 1, 0x06, tileCode t), (cplx && n % 2 != 0, 0x09, tileCode t)]
  c.postPass acc (.zpc t a (slotZp img)) [tileCode t, a]

/-! ### Cells in registers and memory (R279, R280) -/

def partOf (v : BitVec 3) : CellPart :=
  match v.toNat with
  | 0 => .lo
  | 1 => .mid
  | 2 => .hi
  | _ => .flg

/-- Per-thread results of which some fail: the failing threads' traps. -/
def collectEach {α : Type} (l : List (Nat × Except TrapInfo α)) : Except MatStop (List (Nat × α)) :=
  match failures l with
  | [] => .ok (successes l)
  | errs => .error (.each errs)

/-- The column of a thread: a column at or above N fails it (R279). -/
def Ctx.column (c : Ctx) (n t tid : Nat) : Except TrapInfo Nat := do
  let j ← c.ctlB tid
  if n ≤ j.toNat then throw (c.matTrap 0x0D (tileCode t))
  return j.toNat

/-- The destination registers of a command are pending in the threads of the trick that do not execute it, until it completes (R57). -/
def Ctx.pendRest (c : Ctx) (regs : List Nat) (s : State) : State :=
  s.modGroup c.g.gid fun g => g.modThreads (c.tids.filter fun t => !c.exec.contains t) fun th =>
    { th with pendT := th.pendT ++ regs.map fun r => (c.s.issue.id, r) }
/-- The same in its own threads, which go on, and in the others. -/
def Ctx.pendCmd (c : Ctx) (regs : List Nat) (s : State) : State :=
  c.pendRest regs (s.modGroup c.g.gid fun g => g.modThreads c.exec fun th => { th with pendV := th.pendV ++ regs })

def opAread (f : Fields) (s : State) : Out := matUnit .aread f s fun c acc => do
  let t := c.f.a.num
  let v := c.view acc
  c.checks [(!v.heldTile c.g.gid t, 0x05, tileCode t), ((v.tile t).mode == 0, 0x06, tileCode t)]
  let cols ← collectEach (c.exec.map fun i => (i, c.column (v.tile t).n t i))
  if cols.isEmpty then return ⟨acc, none⟩
  match c.queue acc (.aread t (partOf c.f.v) cols c.f.d) [tileCode t] with
  | (s1, some _) => return ⟨c.pendCmd [c.f.d] s1, none⟩
  | (s1, none) => return ⟨s1, none⟩

def opAwrite (f : Fields) (s : State) : Out := matUnit .awrite f s fun c acc => do
  let t := c.f.d
  let v := c.view acc
  let p := partOf c.f.v
  let mode := (v.tile t).mode
  c.checks [(!v.heldTile c.g.gid t, 0x05, tileCode t), (mode == 0 || (mode == 1 && (p == .mid || p == .hi)), 0x06, tileCode t)]
  let vals ← collectEach (c.exec.map fun i => (i, (c.column (v.tile t).n t i).bind fun j =>
    (c.intA 1 i).map fun x => (j, (x.setWidth 32 : Word))))
  if vals.isEmpty then return ⟨acc, none⟩
  return ⟨(c.queue acc (.awrite t p (vals.map fun e => (e.1, e.2.1, e.2.2))) [tileCode t]).1, none⟩

/-- The address of one thread's row of images, aligned (R253 reason 0x0E). -/
def Ctx.aloadAt (c : Ctx) (t i : Nat) : Except TrapInfo Dword := do
  let a ← c.intA 2 i
  if a.toNat % 16 != 0 then throw (c.matTrap 0x0E (tileCode t))
  return a
def imagesAt (a : Dword) (n : Nat) : List (Nat × Nat) := (List.range n).map fun j => ((a.toNat + 16 * j) % 2 ^ 64, 16)
/-- A row of images of one thread's `aload`: the read sees the earlier stores of every issuing thread (R273). -/
def Ctx.aloadRow (c : Ctx) (s : State) (a : Dword) (n i : Nat) : Except MatStop (Nat × List Cell) := do
  let bs ← c.fetch s (c.exec.filter (· != i) ++ [i]) (if c.f.v = 0 then 1 else 2) (imagesAt a n)
  return (i, bs.map Cell.ofImage)

/-- The rows of every executing thread: traps first, then an absent page, then a wait. -/
def rowsOf (l : List (Nat × Except MatStop (Nat × List Cell))) : Except MatStop (List (Nat × List Cell)) :=
  let errs := l.filterMap fun e => match e.2 with | .error (.all x) => some (e.1, x) | _ => none
  match errs with
  | _ :: _ => .error (.each errs)
  | [] =>
    match l.findSome? fun e => (match e.2 with | .error (.absent va) => some va | _ => none) with
    | some va => .error (.absent va)
    | none =>
      let ws := l.flatMap fun e => match e.2 with | .error (.wait w) => w | _ => []
      if ws.isEmpty then .ok (l.filterMap fun e => match e.2 with | .ok r => some r | .error _ => none) else .error (.wait ws)

def opAload (f : Fields) (s : State) : Out := matUnit .aload f s fun c acc => do
  let t := c.f.d
  let v := c.view acc
  c.checks [(!v.heldTile c.g.gid t, 0x05, tileCode t), ((v.tile t).mode == 0, 0x06, tileCode t)]
  let n := (v.tile t).n
  let at_ ← collectEach (c.exec.map fun i => (i, c.aloadAt t i))
  let rows ← rowsOf (at_.map fun e => (e.1, c.aloadRow acc e.2 n e.1))
  if rows.isEmpty then return ⟨acc, none⟩
  let acc := at_.foldl (fun s e => c.readMarks (if c.f.v = 0 then 1 else 2) (imagesAt e.2 n) s) acc
  return ⟨(c.queue acc (.aload t rows) [tileCode t]).1, none⟩

/-! ### Drains (R281 to R283) -/

/-- The destination slot of a drain, when it names one. -/
def Ctx.drainSlot (c : Ctx) : Option Nat := c.f.ty.fmtSlot?
def drainFmtOk (img : BitVec 128) : Bool := (fmtOfCode (slotFmt img)).isSome && slotBlock img == 0
/-- Does a policy hold a fault action (R283)? -/
def hasFault (pol : BitVec 8) : Bool :=
  actionOf pol .nan == 3 || actionOf pol .infinity == 3 || actionOf pol .overflow == 3 || actionOf pol .underflow == 3

/-- The words of a drain's table: the requantising form's shift, zero point and multipliers, or the pairs of `cm`. -/
def drainTable (p : DrainSpec) (v : Nat) (signed : Bool) (ws : List Word) : DrainSpec :=
  let w0 := nth ws 0 0
  match v with
  | 1 => { p with rq := true, shift := w0.toNat % 64, zo := sgn 8 (w0.toNat / 256 % 256) signed,
                  mult := (ws.drop 1).map BitVec.toInt }
  | 2 => { p with table := (List.range (ws.length / 2)).map fun j => (nth ws (2 * j) 0, nth ws (2 * j + 1) 0) }
  | _ => p

def opAdrain (f : Fields) (s : State) : Out := matUnit .adrain f s fun c acc => do
  let t := c.f.a.num
  let v := c.view acc
  let n := (v.tile t).n
  let img := match c.drainSlot with | some k => some (c.slotImg k) | none => none
  let spec : DrainSpec := ⟨c.f.ty, (img.map slotFmt).getD 0, c.mode img, c.policy img, false, false, [], 0, 0, [], [], n⟩
  let held := v.heldTile c.g.gid t
  let regs := if held then (MatOp.drain t c.f.d spec).destRegs else [c.f.d]
  if regs.any fun r => c.g.nregs ≤ r then throw (.all (c.trapHere 0x0020))
  match c.drainSlot, img with
  | some k, some i => if !drainFmtOk i then throw (.all (c.slotTrap k))
  | _, _ => pure ()
  let off ← if c.f.v = 0 then .ok (0 : Dword) else lift (c.sB .int 1)
  c.checks [(!held, 0x05, tileCode t), ((v.tile t).mode == 0 || (c.f.v == 1 && (v.tile t).mode != 1), 0x06, tileCode t),
    (c.f.v != 0 && off.toNat % (if c.f.v = 1 then 4 else 8) != 0, 0x0A, tileCode t)]
  if c.exec.isEmpty then return ⟨acc, none⟩
  let tab := if c.f.v = 0 then [] else [(off.toNat, if c.f.v = 1 then 4 + 4 * n else 8 * n)]
  let words ← (c.fetch acc c.exec 1 tab).map fun l =>
    let bs := l.flatten
    (List.range (bs.length / 4)).map fun i => (BitVec.ofNat 32 (leNat ((bs.drop (4 * i)).take 4)) : Word)
  c.checks [(c.f.v == 1 && (nth words 0 0) &&& 0xFFFF00C0 != 0, 0x0A, tileCode t)]
  if c.exec.any fun i => regs.any (c.s.pends c.g (c.th i)) then throw .busy
  let acc := c.readMarks 1 tab acc
  let spec := drainTable spec c.f.v.toNat (c.f.ty == .i8) words
  match c.queue acc (.drain t c.f.d spec) [tileCode t] with
  | (s1, some cid) =>
    if hasFault spec.policy && !spec.rq then return ⟨c.pendRest regs s1, some cid⟩
    else return ⟨c.pendCmd regs s1, none⟩
  | (s1, none) => return ⟨s1, none⟩

/-! ### Waiting and status (R284, R285) -/

def opMwaitq (f : Fields) (s : State) : Out :=
  .next (s.perGroup f fun c acc =>
    let h := c.f.a.num
    let cids := ((acc.quad c.g.quadNo).cmds.filter fun x => x.gid == c.g.gid && (h == 0x7F || x.handles.contains h)).map (·.cid)
    if cids.isEmpty then acc.advance c.g.gid c.tids
    else acc.modGroup c.g.gid fun g => g.modThreads c.tids fun t => { t with status := .matrix cids c.s.issue.npc })

/-- The holder fields: core in the quad, context, base lane ÷ 8 (R249). -/
def State.holderBits (s : State) (h : Option Nat) : Nat :=
  match h.bind s.group? with
  | some g => g.base / 8 + 8 * g.ctx + 256 * (g.core % 4) + 1024
  | none => 0
/-- The record of a slot (R249). -/
def State.slotRecord (s : State) (o : Slot) : Nat :=
  2 * s.holderBits o.holder + (if o.filled then 2 ^ 12 else 0) + o.nrows * 2 ^ 13 + o.bscale.toNat * 2 ^ 20 + o.block.toNat * 2 ^ 22
    + o.fmt.toNat * 2 ^ 24 + o.ts.toNat * 2 ^ 32
/-- The record of a tile (R250). -/
def State.tileRecord (s : State) (t : Tile) : Nat :=
  2 * s.holderBits t.holder + t.n * 2 ^ 40 + t.mode.toNat * 2 ^ 47 + (if t.tsset then 2 ^ 49 else 0) + t.aslot * 2 ^ 50
    + (BitVec.ofInt 11 t.anchor).toNat * 2 ^ 53 + t.tsA.toNat * 2 ^ 64 + t.tsB.toNat * 2 ^ 96

def opMstat (f : Fields) (s : State) : Out := matUnit .mstat f s fun c acc =>
  let h := c.f.a.num
  let v := c.view acc
  let x : Nat := if h < 0x40 then acc.slotRecord (v.slot h)
    else acc.tileRecord (v.tile (h - 0x40)) / 2 ^ (64 * c.f.b.num)
  .ok ⟨acc.modGroup c.g.gid fun g => g.writeS c.tids c.f.d (BitVec.ofNat 64 x), none⟩

/-! ### One meaning per row (R94 to R104) -/

/-- OLOAD. -/
def execOload (f : LongF) (s : State) : Out := opOload (f.fields) s
/-- MMA. -/
def execMma (f : LongF) (s : State) : Out := opMma (f.fields) s
/-- CMMA. -/
def execCmma (f : LongF) (s : State) : Out := opCmma (f.fields) s
/-- MZPC. -/
def execMzpc (f : LongF) (s : State) : Out := opMzpc (f.fields) s
/-- ALOAD. -/
def execAload (f : LongF) (s : State) : Out := opAload (f.fields) s
/-- AREAD. -/
def execAread (f : LongF) (s : State) : Out := opAread (f.fields) s
/-- AWRITE. -/
def execAwrite (f : LongF) (s : State) : Out := opAwrite (f.fields) s
/-- ADRAIN. -/
def execAdrain (f : LongF) (s : State) : Out := opAdrain (f.fields) s
/-- OCLAIM. -/
def execOclaim (f : ShortF) (s : State) : Out := opOclaim (f.fields 0 .i32 .pred 0) s
/-- ORELEASE. -/
def execOrelease (f : ShortF) (s : State) : Out := opOrelease (f.fields 0 .i32 .vec 0) s
/-- ACLAIM. -/
def execAclaim (f : ShortF) (s : State) : Out := opAclaim (f.fields 0 .i32 .pred 0) s
/-- ARELEASE. -/
def execArelease (f : ShortF) (s : State) : Out := opArelease (f.fields 0 .i32 .vec 0) s
/-- ACLEAR. -/
def execAclear (f : ShortF) (s : State) : Out := opAclear (f.fields 0 .i32 .vec 0) s
/-- MWAITQ. -/
def execMwaitq (f : ShortF) (s : State) : Out := opMwaitq (f.fields 0 .i32 .vec 0) s
/-- MSTAT. -/
def execMstat (f : ShortF) (s : State) : Out := opMstat (f.fields 0 .i32 .scal 0) s

end Sys2Proof.Machine
end

