-- ==== Sys2Proof/Machine/Sync.lean ====
section
/-!
DEFINITION. Class 6, synchronisation: semaphores, post and collect, active messages, collectives (20 R349, R350, R353 to R355, R358,
02 R35, R36, 22 R391, R394).
-/

namespace Sys2Proof.Machine

/-- What a thread's unit at a place must wait for: its own earlier accesses there, and what a fence holds (R313, R317). -/
def Ctx.placeWaits (c : Ctx) (s : State) (tid : Nat) (p : Place) : List AccRef :=
  match s.thread? c.g.gid tid with
  | none => []
  | some t => s.waitsFor c.g tid t p (c.req 2 0 1 .arm 0 0)
/-- Execute a unit at a place, or hold the thread until it can. -/
def Ctx.atPlace (c : Ctx) (tid : Nat) (p : Place) (k : State → State) (s : State) : State :=
  match c.placeWaits s tid p with
  | [] => k s
  | ws => s.modThread c.g.gid tid fun t => { t with status := .held ws none }

/-! ### Semaphores (R350) -/

/-- The semaphore that A names. -/
def Ctx.semNo (c : Ctx) (tid : Nat) : Except TrapInfo Nat := do
  let n ← c.intA 1 tid
  if 4095 < n.toNat then throw (c.trapAt 0x0047 n)
  return n.toNat
def Ctx.semArgs (c : Ctx) (tid : Nat) : Except TrapInfo (Nat × Word) := do
  let n ← c.semNo tid
  let b ← c.ctlB tid
  return (n, b)
def semPlace (die n : Nat) : Place := .sync (4096 * die + n)

/-- One thread's `semsig`: an increment that waits for the thread's earlier accesses in reach of mod (R314). -/
def Ctx.signal (c : Ctx) (tid : Nat) (n : Nat) (inc : Word) (s : State) : State :=
  match s.thread? c.g.gid tid with
  | none => s
  | some t =>
    let p := semPlace c.g.die n
    let r : MemReq := c.req 2 0 1 (.sig inc) 2 3
    let a : Access := ⟨t.seq, s.issue.id, p, 0, 1, .sig inc, s.waitsFor c.g tid t p r, none, some 3, false, none, false, false⟩
    let s1 := s.modThread c.g.gid tid fun u => { u with ops := u.ops ++ [a], seq := u.seq + 1, spin := 0 }
    let s2 := c.goOn tid s1
    if a.waits.isEmpty then s2.performAcc c.g.gid tid t.seq else s2
def opSemsig (f : Fields) (s : State) : Out :=
  .next (eachUnit .semsig f s Ctx.semArgs fun c tid x => c.signal tid x.1 x.2)

def opSemwait (f : Fields) (s : State) : Out :=
  .next (s.splitEarly f <| eachUnit .semwait f s Ctx.semArgs fun c tid x => c.atPlace tid (semPlace c.g.die x.1) fun s =>
    if x.2.toNat ≤ (s.sem c.g.die x.1).toNat then c.goOn tid s else c.block tid (.sem x.1 x.2) s)

def opSemrd (f : Fields) (s : State) : Out :=
  .next (eachUnit .semrd f s Ctx.semNo fun c tid n => c.atPlace tid (semPlace c.g.die n) fun s =>
    c.goOn tid (s.modThread c.g.gid tid fun t => t.writeReg c.f.d (s.sem c.g.die n)))

/-! ### Post and collect (R353, R354) -/

/-- The pigeonhole that A names, with its range trap. -/
def Ctx.holeNo (c : Ctx) (tid : Nat) : Except TrapInfo Nat := do
  let h ← c.intA 1 tid
  if c.l.holes.length ≤ h.toNat || !(c.l.hole h.toNat).declared then throw (c.trapAt 0x0035 h)
  return h.toNat
def Ctx.postArgs (c : Ctx) (tid : Nat) : Except TrapInfo (Nat × Dword) := do
  let h ← c.holeNo tid
  let x ← c.intB 2 tid
  if c.l.lastPost then throw (c.trapAt 0x0033 (BitVec.ofNat 64 h))
  return (h, x)

/-- What a post waits for, as a request: a release at module scope (R35). -/
def itemReq (x : Dword) (trick : Nat) : MemReq :=
  { space := 2, va := 0, size := 1, op := .item x, order := 2, scope := 3, guard := none, trick := trick }
/-- A post is issued: its item is in flight until the unit writes it, after the thread's earlier accesses in reach of mod (R35). -/
def State.sendItem (s : State) (gid tid lid h trick : Nat) (x : Dword) : State :=
  match s.group? gid, s.thread? gid tid with
  | some g, some t =>
    let p : Place := .hole lid h
    let w := s.waitsFor g tid t p (itemReq x trick)
    s.modThread gid tid fun u => { u with ops := u.ops ++ [⟨u.seq, trick, p, 0, 1, .item x, w, none, some 3, false, none, false, false⟩], seq := u.seq + 1 }
  | _, _ => s

/-- `post`: against a full pigeonhole its thread blocks, else its item is in flight and the thread goes on (R35). -/
def opPost (f : Fields) (s : State) : Out :=
  .next (State.settle (s.splitEarly f <| eachUnit .post f s Ctx.postArgs fun c tid x s =>
    if c.l.holeRoom x.1 then c.goOn tid (s.sendItem c.g.gid tid c.l.lid x.1 s.issue.id x.2)
    else c.block tid (.post x.1 x.2 s.issue.id) s))

/-- `collect`'s checks: range, a handler task, the destination (R35, R353). -/
def Ctx.collectArgs (c : Ctx) (tid : Nat) : Except TrapInfo Nat := do
  let h ← c.holeNo tid
  let dest := (c.l.hole h).dest
  if c.g.isHandler || (dest != 0xFFFFFFFF && dest != c.g.team) then throw (c.trapAt 0x0034 (BitVec.ofNat 64 h))
  return h

/-- The registers and the predicate that a `collect` writes. -/
def Ctx.collectRegs (c : Ctx) : List Nat := [c.f.d, c.f.d + 1, predReg (c.f.c.num % 8)]
/-- `collect`: its threads block, take what is there in ascending lane, or return last post at once (R36, R354). The destinations of the others
are pending while one of them waits (R57). -/
def opCollect (f : Fields) (s : State) : Out :=
  let run := eachUnit .collect f s Ctx.collectArgs fun c tid h s =>
    let b := c.block tid (.collect h c.f.d (c.f.c.num % 8) c.s.issue.id) s
    if c.l.lastPost then b.modThread c.g.gid tid fun t => t.collected 0 true c.now else b
  .next (State.settle ((run.serveHoles s.issue.lid).pendTrick s f Ctx.collectRegs))

/-! ### Active messages (R355) -/

/-- The message of a thread (R44, R355). -/
def Ctx.message (c : Ctx) (tid : Nat) : Except TrapInfo (Nat × Msg) := do
  let a ← c.intA 2 tid
  let module := a.toNat / 2 ^ 40 % 256
  let die := a.toNat / 2 ^ 32 % 256
  let n := c.f.c.num
  if a.toNat / 2 ^ 56 != 0 || 15 < module || 11 < die || n < 1 || 32 < n then throw c.illegal
  if c.g.nregs < c.f.b.num + n then throw (c.trapHere 0x0020)
  let words ← (List.range n).mapM fun i => c.opd .bits 1 1 tid (.vec (c.f.b.num + i))
  return (module, ⟨c.s.boot.position, c.g.die, c.g.core, c.g.base + tid, c.g.team, die, a.setWidth 32, a.toNat / 2 ^ 48 % 256,
    words.map (·.setWidth 32)⟩)

def opAmsend (f : Fields) (s : State) : Out :=
  .next (eachUnit .amsend f s Ctx.message fun c tid x => c.block tid (.amsend x.2 x.1)).serveSenders

/-! ### Collectives (R358) -/

def u16 (bs : List Byte) (o : Nat) : Nat := leNat ((bs.drop o).take 2)
def u32 (bs : List Byte) (o : Nat) : Nat := leNat ((bs.drop o).take 4)
def u64 (bs : List Byte) (o : Nat) : Nat := leNat ((bs.drop o).take 8)
def u8 (bs : List Byte) (o : Nat) : Nat := (nth bs o 0).toNat

/-- Participants of a mask. -/
def maskCount (m : Nat) : Nat := ((List.range 16).filter fun i => m / 2 ^ i % 2 = 1).length

/-- The buffers of a collective's descriptor: address, bytes and whether it is written, of its source, destination and postmark (R358,
R359). -/
def collBuffers (d : List Byte) : List (Nat × Nat × Bool) :=
  let n := u32 d 0xC * (if u8 d 2 = 0 || u8 d 2 = 0x13 then 4 else 2)
  let p := maskCount (u16 d 4)
  let out := match u8 d 0 with | 2 => n / p | 3 => n * p | _ => n
  [(u64 d 0x10, n, false), (u64 d 0x18, out, true), (u64 d 0x28, if u64 d 0x28 = 0 then 0 else 8, true)]
/-- Every field of a descriptor has one of its values. -/
def collectiveOk (position : Nat) (d : List Byte) : Bool :=
  let kind := u8 d 0
  let t := u8 d 2
  1 ≤ kind && kind ≤ 4 && (3 ≤ kind || u8 d 1 ≤ 2) && (t == 0 || t == 0x13 || t == 0x14 || t == 0x15) && u8 d 3 ≤ 15
    && u16 d 4 / 2 ^ position % 2 == 1 && u16 d 6 == 0 && 1 ≤ u32 d 0xC && u16 d 0x20 ≤ 4095 && 1 ≤ u16 d 0x22 && u32 d 0x24 == 0
    && u64 d 0x28 % 8 == 0 && (d.drop 0x30).all (· == 0) && (kind != 2 || u32 d 0xC % maskCount (u16 d 4) == 0)

/-- The issue of a memory access that stands at its unit: parked, or for want of room in the store buffer, or for earlier accesses. -/
def Thread.request? (t : Thread) : Option MemReq :=
  match t.status with
  | .parked _ r _ | .storeFull r _ | .held _ (some r) => some r
  | _ => none
def Thread.standing (t : Thread) : List Nat := (t.request?.map (·.trick)).toList
def opColl (f : Fields) (s : State) : Out :=
  .next (s.perGroup f fun c acc =>
    if c.exec.isEmpty then acc.advance c.g.gid c.tids
    else c.runMat .coll (do
      let tid := nth c.exec 0 0
      lift (c.precheck .coll tid)
      let a ← lift (c.sA .int 2)
      if a.toNat % 64 != 0 then throw (.all { c.trapAt 0x0040 a with address := a })
      let got ← c.fetch acc [tid] 2 [(a.toNat, 64)]
      let d := got.flatten
      if !collectiveOk acc.boot.position d then throw (.all { c.trapAt 0x004A a with address := a })
      let before : List AccRef := c.g.tidsOf.flatMap fun e => (match acc.thread? c.g.gid e.1 with | some t => t.ops | none => []).map
        fun (o : Access) => ⟨c.g.gid, e.1, o.seq⟩
      let parked := c.g.tidsOf.flatMap fun e => (match acc.thread? c.g.gid e.1 with | some t => t.standing | none => []).map fun k => (e.1, k)
      let x : Collective := ⟨acc.fresh, c.g.gid, c.l.lid, c.g.die, c.l.asid, d, before, parked, false⟩
      let acc := c.readMarks 2 [(a.toNat, 64)] acc
      return ⟨{ acc.bump with collectives := acc.collectives ++ [x] }, none⟩) acc)

/-! ### One meaning per row (R94 to R104) -/

/-- SEMSIG. -/
def execSemsig (f : LongF) (s : State) : Out := opSemsig (f.fields) s
/-- SEMWAIT. -/
def execSemwait (f : LongF) (s : State) : Out := opSemwait (f.fields) s
/-- SEMRD. -/
def execSemrd (f : LongF) (s : State) : Out := opSemrd (f.fields) s
/-- POST. -/
def execPost (f : LongF) (s : State) : Out := opPost (f.fields) s
/-- COLLECT. -/
def execCollect (f : LongF) (s : State) : Out := opCollect (f.fields) s
/-- AMSEND. -/
def execAmsend (f : LongF) (s : State) : Out := opAmsend (f.fields) s
/-- COLL. -/
def execColl (f : LongF) (s : State) : Out := opColl (f.fields) s

end Sys2Proof.Machine
end

