-- ==== Sys2Proof/Machine/Control.lean ====
section
/-!
DEFINITION. Class 7: transfers, the return stack, join, exit, traps, guard slots, control registers (09 R161 to R185), and the
bisection of the INV prefix (10 R188, R189, 13 R235 to R241).
-/

namespace Sys2Proof.Machine

/-! ### Transfers (R163 to R169) -/

/-- One thread's transfer: where it would go, exactly (R7, R164), whether it takes it, what it leaves on its return stack. -/
structure Jump where
  target : Int
  taken : Bool
  ret : List Word
  deriving DecidableEq, Repr
/-- The target as a text offset, as the record's word field shows one outside 32 bits too, of which `trapinfo` keeps 64 bits with their sign
(R163, DESIGN CHOICE, log 15). -/
def Jump.off (j : Jump) : Word := BitVec.ofInt 32 j.target

/-- The kinds of transfer: a branch that the spin detector counts, a call, a return. -/
inductive JumpKind where
  | branch | call | ret
  deriving DecidableEq, Repr

/-- The stack offset of spilled return entry `i` (R167, R295). -/
def spillOff (i : Nat) : Nat := 4096 + 4 * i
/-- The spilled entry that a transfer moves, if any: a push at depth 16 or more, a pop that refills. -/
def Jump.spill (j : Jump) (k : JumpKind) (depth : Nat) : Option Nat :=
  match k with
  | .call => if j.taken && 16 ≤ depth then some (depth - 16) else none
  | .ret => if 16 < depth then some (depth - 17) else none
  | .branch => none

/-- The spin detector at a taken branch (R28). -/
def Thread.branched (t : Thread) (adr target : Word) : Thread :=
  if target.toNat ≤ adr.toNat then
    (if t.spinAdr = adr then { t with spin := min 8 (t.spin + 1) } else { t with spinAdr := adr, spin := 1 })
  else t

/-- The trap of a group whose transfer failed (R163): every executing thread's own target stands in its record. -/
def Ctx.jumpTrap (c : Ctx) (js : List (Nat × Jump)) (errs : List (Nat × TrapInfo)) : GroupTrap :=
  let d := match errs with | (_, e) :: _ => e | [] => c.illegal
  let entry (j : Nat × Jump) : Trapped :=
    match errs.find? fun e => e.1 == j.1 with
    | some (_, e) => ⟨j.1, c.s.issue.upc, { e with flags := 1, word := j.2.off }⟩
    | none => ⟨j.1, c.s.issue.upc, { cause := d.cause, info := d.info, word := j.2.off }⟩
  ⟨d.cause, d.info, js.map entry⟩

/-- Threads of one tag whose outcomes differ each get a tag of their own (R25): the outcome is the target of a transfer taken, or none. -/
def State.splitTags (s : State) (gid : Nat) (old : List (Nat × Nat × Option Int)) : State :=
  old.foldl (fun acc e => if old.any fun x => x.2.1 == e.2.1 && x.2.2 != e.2.2 then acc.loneTag gid e.1 else acc) s

/-- The check that a thread's transfer fails, if any: the stack's depth (R168), then the target (R84 to R86), which lies outside the text
wherever it is no 32-bit offset. -/
def Ctx.jumpFault (c : Ctx) (k : JumpKind) (indirect : Bool) (depth : Nat) (j : Jump) : Option TrapInfo :=
  if !j.taken then none
  else if k = .call && 256 ≤ depth then some (c.trapHere 0x0022)
  else if k = .ret && depth = 0 then some (c.trapHere 0x0023)
  else if j.target < 0 || 2 ^ 32 ≤ j.target then some (c.trapAt 0x0016 (BitVec.ofInt 64 j.target))
  else (c.s.targetCause c.l j.off indirect).map fun code => c.trapAt code (BitVec.ofInt 64 j.target)

/-- One group's part of a transfer: its executing threads' jumps, those whose operands trap, and those whose transfer fails. -/
structure JumpPart where
  c : Ctx
  bad : List (Nat × TrapInfo)
  js : List (Nat × Jump)
  errs : List (Nat × TrapInfo)
  deriving DecidableEq, Repr
def Ctx.jumps (c : Ctx) (o : Op) (k : JumpKind) (indirect : Bool) (aim : Ctx → Nat → Except TrapInfo Jump) : JumpPart :=
  let res := c.exec.map fun t => (t, (c.precheck o t).bind fun _ => aim c t)
  let js := successes res
  ⟨c, failures res, js, js.filterMap fun j => (c.jumpFault k indirect (c.th j.1).ret.length j.2).map fun e => (j.1, e)⟩
def JumpPart.ok (p : JumpPart) : Bool := p.bad.isEmpty && p.errs.isEmpty
/-- The stack page that a spill or refill of a group meets absent (R296). -/
def JumpPart.miss (p : JumpPart) (k : JumpKind) : Option Nat :=
  p.js.findSome? fun j => match j.2.spill k (p.c.th j.1).ret.length with
    | some i => if p.c.g.stackUp j.1 (spillOff i) then none else some (stackEntry p.c.g.gid (stackPage j.1 (spillOff i)))
    | none => none
/-- A group's transfer takes effect. -/
def JumpPart.go (p : JumpPart) (k : JumpKind) (s : State) : State :=
  let c := p.c
  let s1 := s.advance c.g.gid c.tids
  let s2 := s1.modGroup c.g.gid fun g => p.js.foldl (fun g j => g.modThread j.1 fun t =>
    if j.2.taken then
      let u := if k = .branch then t.branched s.issue.ipc j.2.off else t
      { u with pc := j.2.off, ret := j.2.ret, status := .ready }
    else t) g
  s2.splitTags c.g.gid (c.tids.map fun i => (i, (c.th i).tag, (p.js.find? fun j => j.1 == i).bind fun j => if j.2.taken then some j.2.target else none))
/-- A group's transfer fails or, with an absent stack page of the trick, parks; else it takes effect (R163, R296). -/
def JumpPart.run (p : JumpPart) (o : Op) (k : JumpKind) (pg : Option Nat) (f : Fields) (s : State) : State :=
  let c := p.c
  let rest := c.tids.filter fun t => !c.exec.contains t
  if !p.bad.isEmpty then s.unitTrap c c.exec p.bad
  else if !p.errs.isEmpty then (s.advance c.g.gid rest).raise c.g.gid s.issue.id (c.jumpTrap p.js p.errs)
  else match pg with
    | some pg =>
      p.js.foldl (fun a j => a.park c.g.gid j.1 c.l.asid pg (retryReq retryStack 0 true { c.snapshot o with f := f }) s.issue.upc)
        (s.advance c.g.gid rest)
    | none => p.go k s
/-- A transfer over its trick: `aim` gives each executing thread's jump or a trap of its operands. -/
def jumpUnit (o : Op) (k : JumpKind) (indirect : Bool) (f : Fields) (s : State) (aim : Ctx → Nat → Except TrapInfo Jump) : Out :=
  let parts := s.issue.trick.filterMap fun e => (s.ctx? f e.1 e.2).map fun c => c.jumps o k indirect aim
  let pg := parts.findSome? fun p => if p.ok then p.miss k else none
  .next (parts.foldl (fun acc p => p.run o k pg f acc) s)

/-- The target of a direct transfer, exactly (R7, R69, R164). -/
def Ctx.direct (c : Ctx) : Int := c.s.issue.ipc.toNat + 4 * c.f.w.toInt
def Ctx.stay (c : Ctx) (tid : Nat) : List Word := (c.th tid).ret
def Ctx.pushed (c : Ctx) (tid : Nat) : List Word := c.s.issue.npc :: (c.th tid).ret

/-- `bra`, `bra.sz`, `bra.snz` (R164). -/
def opBra (f : Fields) (s : State) : Out := jumpUnit .bra .branch false f s fun c tid =>
  let z := nth c.g.s c.f.c.num 0 == 0
  .ok ⟨c.direct, c.f.v == 0 || (c.f.v == 1 && z) || (c.f.v == 2 && !z), c.stay tid⟩
def opCall (f : Fields) (s : State) : Out := jumpUnit .call .call false f s fun c tid => .ok ⟨c.direct, true, c.pushed tid⟩
def opBrx (f : Fields) (s : State) : Out := jumpUnit .brx .branch true f s fun c tid =>
  (c.intA 1 tid).map fun a => ⟨(a.setWidth 32).toNat, true, c.stay tid⟩
def opCallx (f : Fields) (s : State) : Out := jumpUnit .callx .call true f s fun c tid =>
  (c.intA 1 tid).map fun a => ⟨(a.setWidth 32).toNat, true, c.pushed tid⟩

/-- `ret` (R169): the newest entry; a thread without one fails at the `ret` (R168), whose own offset its record holds for want of a target
(R163, DESIGN CHOICE, log 15). -/
def retPop (f : Fields) (s : State) : Out := jumpUnit .ret .ret false f s fun c tid =>
  match (c.th tid).ret with
  | [] => .ok ⟨c.s.issue.ipc.toNat, true, []⟩
  | a :: r => .ok ⟨a.toNat, true, r⟩
/-- At the end of an evaluation `ret` pops nothing and returns to the bisection (R235). -/
def retEval (f : Fields) (s : State) : State :=
  s.perGroup f fun c acc =>
    (acc.advance c.g.gid (c.tids.filter fun t => !c.exec.contains t)).modGroup c.g.gid fun g => g.modThreads c.exec fun t =>
      { t with inv := t.inv.map fun e => { e with done := true } }
def State.inEval (s : State) (gid tid : Nat) : Bool := match s.thread? gid tid with | some t => t.inv.isSome | none => false
def State.evaluating (s : State) : Bool := s.issue.trick.any fun e => e.2.any (s.inEval e.1)
/-- The trick's threads of one sort alone. -/
def Issue.part (i : Issue) (p : Nat → Nat → Bool) : Issue :=
  { i with trick := (i.trick.map fun e => (e.1, e.2.filter (p e.1))).filter fun e => !e.2.isEmpty }
/-- `ret`: each thread of the trick returns to its bisection or to its caller. -/
def opRet (f : Fields) (s : State) : Out :=
  if s.evaluating then
    let s1 := retEval f { s with issue := s.issue.part s.inEval }
    match retPop f { s1 with issue := s.issue.part fun g t => !s.inEval g t } with
    | .next t => .next { t with issue := s.issue }
    | r => r
  else retPop f s

/-! ### Landing, yield, join, exit (R170 to R173) -/

def opNop (f : Fields) (s : State) : Out := .next (s.perGroup f fun c acc => acc.advance c.g.gid c.tids)
def opLand (f : Fields) (s : State) : Out := .next (s.perGroup f fun c acc => acc.advance c.g.gid c.tids)
def opYield (f : Fields) (s : State) : Out :=
  .next (s.perGroup f fun c acc =>
    (acc.advance c.g.gid c.tids).modGroup c.g.gid fun g => g.modThreads c.exec fun t => { t with yieldUntil := some (c.now + 32) })

/-- `join` (R172): the thread waits with its address and mask; its release is a step of its own (R26). -/
def opJoin (f : Fields) (s : State) : Out :=
  .next (State.settle (eachUnit .join f s (fun c tid => c.bitB 2 tid) fun c tid m s =>
    s.modThread c.g.gid tid fun t => { t with status := .join c.s.issue.upc m c.s.issue.npc }))

def opExit (f : Fields) (s : State) : Out :=
  .next (State.settle (s.perGroup f fun c acc =>
    (acc.advance c.g.gid (c.tids.filter fun t => !c.exec.contains t)).modGroup c.g.gid fun g => g.modThreads c.exec Thread.exit))

/-! ### Software traps (R174, R175) -/

/-- The software trap of a group: its threads stand at the next unit. -/
def Ctx.softTrap (c : Ctx) (cause : BitVec 16) (code : Word) : GroupTrap :=
  let info : Dword := (code.setWidth 16 : BitVec 16).setWidth 64
  ⟨cause, info, c.exec.map fun i => ⟨i, c.s.issue.npc, { cause := cause, info := info, flags := 1, word := c.s.issue.ipc }⟩⟩

def opTrap (f : Fields) (s : State) : Out :=
  .next (State.settle (s.perGroup f fun c acc =>
    match c.exec with
    | [] => acc.advance c.g.gid c.tids
    | t :: _ =>
      match (c.precheck .trap t).bind fun _ => c.sB .int 1 with
      | .error e => acc.unitTrap c c.exec (c.exec.map fun i => (i, e))
      | .ok code =>
        let s1 := acc.advance c.g.gid c.tids
        if c.f.v == 1 && c.g.attached then
          s1.modGroup c.g.gid fun g => { g with halting := true, haltRecord := some (code.setWidth 16, c.exec.map fun i => (i, c.s.issue.npc)) }
        else s1.raise c.g.gid s.issue.id (c.softTrap (if c.f.v == 1 then 0x0002 else 0x0001) (code.setWidth 32))))

/-- `tret` (R185). -/
def opTret (f : Fields) (s : State) : Out :=
  .next (State.settle (s.perGroup f fun c acc =>
    if !c.g.handler then acc.unitTrap c c.tids (c.tids.map fun i => (i, c.illegal))
    else acc.modGroup c.g.gid fun g => g.modThreads c.tids fun t => { t with status := .blocked .tret c.s.issue.npc }))

/-! ### Guard slots (R176 to R178) -/

def opGset (f : Fields) (s : State) : Out :=
  .next (s.perGroup f fun c acc =>
    match (c.precheck .gset (nth c.tids 0 0)).bind fun _ => c.sB .int 2 with
    | .error e => acc.unitTrap c c.tids (c.tids.map fun i => (i, e))
    | .ok b =>
      let val := b != 0
      let s1 := acc.modGroup c.g.gid fun g => { g with g := g.g.set c.f.d (if val then 1 else 2) }
      ((s1.decideGuards c.g c.f.d val).advance c.g.gid c.tids))
def opGclr (f : Fields) (s : State) : Out := groupUnit .gclr f s fun c =>
  .ok fun g => { g with g := g.g.set c.f.d (if c.f.b.num = 1 then 3 else 0) }

/-! ### Control registers (R182 to R184) -/

/-- guardstate (R182). -/
def Group.guardState (g : Group) : Nat :=
  ((List.range 16).zip g.g).foldl (fun s e => s + e.2.toNat * 4 ^ e.1) 0
/-- ctxstate (R183). debug is set when a halt completes and cleared by the resume (R451, R453). -/
def ctxState (g : Group) (t : Thread) : Word :=
  BitVec.ofNat 32 ((if g.handler then 2 ^ 31 else 0) + (if g.halted then 2 ^ 30 else 0) + t.spin * 2 ^ 16 + t.ret.length)
/-- A group register's value. -/
def Group.csr (g : Group) (n : Nat) : Dword :=
  match n with
  | 0 => g.trapbase.setWidth 64
  | 1 => g.trapcause.setWidth 64
  | 2 => g.trapepc.setWidth 64
  | 3 => g.trapinfo
  | 4 => g.trapmask
  | _ => BitVec.ofNat 64 g.guardState

def opCsrRd (f : Fields) (s : State) : Out := groupUnit .csrRd f s fun c =>
  let n := c.f.a.num
  .ok (if n = 5 then fun g => g.modThreads c.tids fun t => t.writeReg c.f.d (ctxState c.g t)
    else if n = 6 then fun g => g.modThreads c.tids fun t => t.writeReg c.f.d (BitVec.ofNat 32 t.unacked)
    else fun g => g.writeS c.tids c.f.d (c.g.csr n))
def opCsrWr (f : Fields) (s : State) : Out := groupUnit .csrWr f s fun c =>
  (c.sB .int 1).map fun x => fun g =>
    if c.f.a.num = 0 then { g with trapbase := x.setWidth 32 } else { g with trapepc := x.setWidth 32, epcWritten := true }

/-! ### The bisection (R236, R237) -/

/-- Ord of a domain: none for a NaN code. Domains: 0 int32, 1 uint32, 2 binary32, 3 binary16. -/
def ordOf (dom : BitVec 2) (w : Word) : Option Int :=
  match dom.toNat with
  | 0 => some w.toInt
  | 1 => some w.toNat
  | 2 =>
    let m : Nat := w.toNat % 2 ^ 31
    if 0x7F800000 < m then none else some (if 2 ^ 31 ≤ w.toNat then -(m : Int) else m)
  | _ =>
    let x : Nat := w.toNat % 2 ^ 16
    let m : Nat := x % 2 ^ 15
    if 0x7C00 < m then none else some (if 2 ^ 15 ≤ x then -(m : Int) else m)
/-- Val of a domain. -/
def valOf (dom : BitVec 2) (o : Int) : Word :=
  match dom.toNat with
  | 2 => BitVec.ofNat 32 (if o < 0 then 2 ^ 31 + o.natAbs else o.natAbs)
  | 3 => BitVec.ofNat 32 (if o < 0 then 2 ^ 15 + o.natAbs else o.natAbs)
  | _ => BitVec.ofInt 32 o
/-- An ordinal as a bracket holds it. -/
def ordIn (dom : BitVec 2) (w : Word) : Int := if dom = 1 then w.toNat else w.toInt
def ordBits (o : Int) : Word := BitVec.ofInt 32 o

/-- The value behind an ordinal. -/
def ordVal (dom : BitVec 2) (o : Int) : Val :=
  match dom.toNat with
  | 2 => Fmt.f32.decode (valOf dom o).toNat
  | 3 => Fmt.f16.decode (valOf dom o).toNat
  | _ => Val.ofInt o
/-- |f − y|, exactly; none when it is infinite. -/
def distance (dom : BitVec 2) (f y : Int) : Option (Nat × Nat) :=
  if f = y then some (0, 1)
  else match Val.add rne (ordVal dom f) (ordVal dom y).neg with
    | .fin _ a b => some (a, b)
    | _ => none
/-- The end whose f is closer to y; ties go to lo. -/
def closer (dom : BitVec 2) (b : Bracket) (y : Int) : Int :=
  let lo := ordIn dom b.lo
  let hi := ordIn dom b.hi
  match distance dom (ordIn dom b.fhi) y, distance dom (ordIn dom b.flo) y with
  | some (a, b), some (c, d) => if ratLt a b c d then hi else lo
  | some _, none => hi
  | _, _ => lo

def InvEval.key (e : InvEval) (o : Int) : Int := if e.pfx.dec then -o else o
def InvEval.br (e : InvEval) : Nat := e.pfx.br.toNat

/-- A trap of the bisection: code, reason, and the mid's ordinal (R238, R441). -/
structure InvTrap where
  cause : BitVec 16
  reason : Nat
  mid : Int
  deriving DecidableEq, Repr
def monoTrap (reason : Nat) (mid : Int) : InvTrap := ⟨0x0061, reason, mid⟩
def missTrap (reason : Nat) : InvTrap := ⟨0x0060, reason, 0⟩

def Thread.setBracket (t : Thread) (n : Nat) (b : Bracket) : Thread :=
  { t with b := t.b.set n b, spin := if t.bracket n = b then t.spin else 0 }

/-- A step of a bisection: the thread after it, and its trap (R238). -/
abbrev InvOut := Thread × Option InvTrap
/-- Finish(t, o, s) of R237. -/
def Thread.invFinish (t : Thread) (e : InvEval) (o : Int) (st : BitVec 2) : Thread :=
  let u := (t.writeReg e.d (valOf e.pfx.dom o)).setBracket e.br { t.bracket e.br with st := st }
  { u.leavesValued e.upc e.br false with repctr := 0, pc := e.npc, inv := none }
/-- Eval(t, o): the argument, and the routine's first instruction. -/
def Thread.invEval (t : Thread) (e : InvEval) (o : Int) (p : InvPhase) : Thread :=
  { t.writeReg e.a (valOf e.pfx.dom o) with
    pc := e.start, inv := some { e with trial := o, phase := p, count := 0, done := false } }

/-- From a valued bracket at a stop point: miss, stop test, limit, or the next trial. -/
def Thread.invNext (t : Thread) (e : InvEval) : InvOut :=
  let b := t.bracket e.br
  let lo := ordIn e.pfx.dom b.lo
  let hi := ordIn e.pfx.dom b.hi
  let below := e.key e.y < e.key (ordIn e.pfx.dom b.flo)
  if below || e.key (ordIn e.pfx.dom b.fhi) < e.key e.y then
    if e.pfx.clamp then (t.invFinish e (if below then lo else hi) 3, none) else (t, some (missTrap 1))
  else if hi - lo ≤ e.pfx.tol.toNat + 1 then (t.invFinish e (closer e.pfx.dom b e.y) 2, none)
  else if t.repctr = e.pfx.lim.toNat + 1 then (t.invFinish e (closer e.pfx.dom b e.y) 3, none)
  else (t.invEval e (lo + (hi - lo) / 2) .mid, none)

/-- A stop point (R241): the thread stands at its unit with a valued bracket, or goes on. -/
def Thread.invStop (t : Thread) (e : InvEval) (stop : Bool) : InvOut :=
  let u := t.leavesValued e.upc e.br true
  if stop then ({ u with pc := e.upc, inv := none }, none) else u.invNext e

/-- After an evaluation's `ret`: what the phase does with f. -/
def Thread.invReturn (t : Thread) (e : InvEval) (stop : Bool) : InvOut :=
  let f := ordOf e.pfx.dom (t.reg e.a)
  let b := t.bracket e.br
  match e.phase, f with
  | .endLo, none | .endHi, none => (t, some (monoTrap 2 0))
  | .endLo, some x => (t.invEval { e with flo := x } e.hi .endHi, none)
  | .endHi, some x =>
    if e.key x < e.key e.flo then (t, some (monoTrap 3 0))
    else
      let nb : Bracket := ⟨1, ordBits x, ordBits e.flo, ordBits e.hi, ordBits e.lo⟩
      ({ t.setBracket e.br nb with repctr := 0 }).invStop e stop
  | .mid, none => (t, some (monoTrap 4 e.trial))
  | .mid, some x =>
    if e.key x < e.key (ordIn e.pfx.dom b.flo) || e.key (ordIn e.pfx.dom b.fhi) < e.key x then (t, some (monoTrap 4 e.trial))
    else if x = e.y then
      ((t.setBracket e.br ⟨1, ordBits e.y, ordBits e.y, ordBits e.trial, ordBits e.trial⟩).invFinish e e.trial 2, none)
    else
      let nb : Bracket := if e.key x < e.key e.y then { b with lo := ordBits e.trial, flo := ordBits x }
        else { b with hi := ordBits e.trial, fhi := ordBits x }
      ({ t.setBracket e.br nb with repctr := t.repctr + 1 }).invStop e stop

/-- The start of InvCall in one thread: y, then the ends of a new bisection or the valued bracket. -/
def Thread.invBegin (t : Thread) (e : InvEval) (y : Word) : InvOut :=
  let d := e.pfx.dom
  match ordOf d y with
  | none => (t, some (missTrap 0))
  | some yo =>
    let e := { e with y := yo, arg0 := t.reg e.a }
    if (t.bracket e.br).st = 1 then (t.leavesValued e.upc e.br true).invNext e
    else match ordOf d (t.reg e.a), ordOf d (t.reg e.d) with
      | some p, some q =>
        let lo := min p q
        (t.invEval { e with lo := lo, hi := max p q } lo .endLo, none)
      | _, _ => (t, some (monoTrap 2 0))

/-- The trap record of a bisection's trap (R441). -/
def InvTrap.info (x : InvTrap) (ipc : Word) : TrapInfo :=
  { cause := x.cause, info := ipc.setWidth 64, word := ipc, detailA := BitVec.ofNat 64 x.reason, detailB := BitVec.ofInt 64 x.mid }

/-- One thread's evaluation record and y at the unit's start (R235): the target is a routine of the launch, or the call is restricted, a target
outside the text among the others (DESIGN CHOICE, log 38: R86 gives a transfer there the text-bounds trap); a routine's start has the
checks of every transfer's target (R84). -/
def Ctx.invEntry (c : Ctx) (p : InvP) (tid : Nat) : Except TrapInfo (InvEval × Word) := do
  let regs := [c.f.d] ++ [c.f.a, c.f.b].filterMap fun x => match x with | .vec n => some n | _ => none
  if regs.any fun r => c.g.nregs ≤ r then throw (c.trapHere 0x0020)
  if !(c.l.kernel.routines.any fun r => (r.1.toNat : Int) == c.direct) then throw (c.trapHere 0x0062)
  let start := BitVec.ofInt 32 c.direct
  match c.s.targetCause c.l start false with
  | some code => throw { c.trapAt code (BitVec.ofInt 64 c.direct) with word := start }
  | none => pure ()
  let y ← c.raw .bits 1 tid c.f.b
  return (⟨c.s.issue.id, c.s.issue.upc, c.s.issue.ipc, c.s.issue.npc, p, c.f.d, c.f.a.num, c.f.b, start, 0, 0, 0, 0, 0, 0, .endLo, 0,
    false⟩, y.setWidth 32)

/-- The long-immediate `call` under INV. -/
def opInvCall (p : InvP) (f : Fields) (s : State) : Out :=
  .next (s.perGroup f fun c acc =>
    let res := c.tids.map fun t => (t, (c.invEntry p t).bind fun x =>
      match (c.th t).invBegin x.1 x.2 with
      | (u, none) => .ok u
      | (_, some e) => .error (e.info c.s.issue.ipc))
    match failures res with
    | [] => acc.modGroup c.g.gid fun g => (successes res).foldl (fun g e => g.modThread e.1 fun _ => { e.2 with stamp := c.now }) g
    | errs => acc.unitTrap c c.tids errs)

/-- CALL_FAR: a bisection under INV, else a call (R235). -/
def execCallFar (f : LimmF) (s : State) : Out :=
  match s.issue.pfx.inv with
  | some p => opInvCall p f.fieldsFar s
  | none => opCall { f.fieldsFar with a := .vec 0, b := .vec 0, d := 0 } s

/-- Does the group stop at stop points: a halt, a trap entry or handler, or a pre-emption (R241)? -/
def State.stopsAt (s : State) (g : Group) (t : Thread) : Bool :=
  g.halting || g.halted || g.entering.isSome || t.held || (g.handler && !t.inHandler) ||
    (match s.team? g.tuid with | some tm => tm.state != .resident | none => false)

/-- The threads of a group that evaluate in an issue of a unit, and those of them whose evaluation has reached its `ret`. -/
def Group.evalOf (g : Group) (id : Nat) : List (Nat × Thread × InvEval) :=
  g.tidsOf.filterMap fun e => e.2.inv.bind fun v => if v.id = id then some (e.1, e.2, v) else none
/-- A trap of the bisection in some threads of a group (R238, R440): every thread that evaluates in the unit's issue is named; those that
fail keep the bracket of their last stop point. -/
def State.invTrap (s : State) (g : Group) (id : Nat) (outs : List (Nat × InvEval × InvOut)) : State :=
  let errs := outs.filterMap fun o => o.2.2.2.map fun x => (o.1, x.info o.2.1.ipc)
  match errs with
  | [] => s
  | (_, d) :: _ =>
    let s1 := outs.foldl (fun acc o => if o.2.2.2.isSome then
        let keep := (o.2.2.1.bracket o.2.1.br).st == 1
        acc.modThread g.gid o.1 fun _ =>
          { o.2.2.1.leavesValued o.2.1.upc o.2.1.br keep with inv := none, pc := o.2.1.upc }
      else acc) s
    s1.raise g.gid id ⟨d.cause, d.info, (g.evalOf id).map fun x =>
      match errs.find? fun e => e.1 == x.1 with
      | some (_, y) => ⟨x.1, x.2.2.upc, { y with flags := 1 }⟩
      | none => ⟨x.1, x.2.2.upc, { cause := d.cause, info := d.info, word := x.2.2.ipc }⟩⟩
/-- Threads that finish at one iteration, apart from others of their tag that go on, take one new tag together (R237). -/
def State.finishTags (s : State) (gid : Nat) (tids : List Nat) : State :=
  match s.group? gid with
  | none => s
  | some g =>
    let left (t : Thread) : Bool := g.tidsOf.any fun u => u.2.tag == t.tag && !u.2.exited && !tids.contains u.1
    let go := tids.filter fun i => match g.threads[i]? with | some t => left t | none => false
    let tags := (go.filterMap fun i => (g.threads[i]?).map (·.tag)).eraseDups
    { s.modGroup gid fun g => g.modThreads go fun t => { t with tag := s.fresh + tags.idxOf t.tag } with fresh := s.fresh + tags.length }
/-- INV_ITERATION: the evaluation of a thread, and those of its group's threads that evaluate with it, have reached their `ret`; their
bisections go on (R237). -/
def State.invIteration (s : State) (gid tid : Nat) : State :=
  match s.group? gid, (s.thread? gid tid).bind (·.inv) with
  | some g, some e =>
    if !e.done then s
    else
      let now := (s.core g.coreNo).cycles
      let outs := ((g.evalOf e.id).filter fun x => x.2.2.done).map fun x => (x.1, x.2.2, x.2.1.invReturn x.2.2 (s.stopsAt g x.2.1))
      if outs.any fun o => o.2.2.2.isSome then s.invTrap g e.id outs
      else
        let s1 := outs.foldl (fun acc o => acc.modThread gid o.1 fun _ => { o.2.2.1 with stamp := now }) s
        let fin := (outs.filter fun o => o.2.2.1.inv.isNone && o.2.2.1.pc == o.2.1.npc).map (·.1)
        if fin.isEmpty then s1 else s1.finishTags gid fin
  | _, _ => s

/-- INV_ITERATION (R237). -/
def execInvIteration (gid tid : Nat) (s : State) : Out := .next (s.invIteration gid tid).settle

/-! ### One meaning per row (R94 to R104) -/

/-- BRA. -/
def execBra (f : JumpF) (s : State) : Out := opBra (f.fields) s
/-- CALL. -/
def execCall (f : JumpF) (s : State) : Out := opCall (f.fields) s
/-- BRX. -/
def execBrx (f : LongF) (s : State) : Out := opBrx (f.fields) s
/-- CALLX. -/
def execCallx (f : LongF) (s : State) : Out := opCallx (f.fields) s
/-- RET. -/
def execRet (f : LongF) (s : State) : Out := opRet (f.fields) s
/-- JOIN. -/
def execJoin (f : LongF) (s : State) : Out := opJoin (f.fields) s
/-- EXIT. -/
def execExit (f : LongF) (s : State) : Out := opExit (f.fields) s
/-- TRAP. -/
def execTrap (f : LongF) (s : State) : Out := opTrap (f.fields) s
/-- YIELD. -/
def execYield (f : LongF) (s : State) : Out := opYield (f.fields) s
/-- NOP. -/
def execNop (f : LongF) (s : State) : Out := opNop (f.fields) s
/-- GSET. -/
def execGset (f : LongF) (s : State) : Out := opGset (f.fields) s
/-- GCLR. -/
def execGclr (f : LongF) (s : State) : Out := opGclr (f.fields) s
/-- CSR_RD. -/
def execCsrRd (f : LongF) (s : State) : Out := opCsrRd (f.fields) s
/-- CSR_WR. -/
def execCsrWr (f : LongF) (s : State) : Out := opCsrWr (f.fields) s
/-- TRET. -/
def execTret (f : LongF) (s : State) : Out := opTret (f.fields) s
/-- BRA_SHORT. -/
def execBraShort (off : BitVec 23) (s : State) : Out := opBra (shortJump off) s
/-- CALL_SHORT. -/
def execCallShort (off : BitVec 23) (s : State) : Out := opCall (shortJump off) s
/-- RET_SHORT. -/
def execRetShort (f : ShortF) (s : State) : Out := opRet (f.fields 0 .i32 .vec 0) s
/-- LAND. -/
def execLand (f : ShortF) (s : State) : Out := opLand (f.fields 0 .i32 .vec 0) s
/-- EXIT_SHORT. -/
def execExitShort (f : ShortF) (s : State) : Out := opExit (f.fields 0 .i32 .vec 0) s
/-- NOP_SHORT. -/
def execNopShort (f : ShortF) (s : State) : Out := opNop (f.fields 0 .i32 .vec 0) s
/-- YIELD_SHORT. -/
def execYieldShort (f : ShortF) (s : State) : Out := opYield (f.fields 0 .i32 .vec 0) s
/-- TRAP_SHORT. -/
def execTrapShort (f : ShortF) (s : State) : Out := opTrap (f.fields 0 .i32 .vec 0) s
/-- TRAP_BRK_SHORT. -/
def execTrapBrkShort (f : ShortF) (s : State) : Out := opTrap (f.fields 1 .i32 .vec 0) s
/-- JOIN_SHORT. -/
def execJoinShort (f : ShortF) (s : State) : Out := opJoin (f.fields 0 .i32 .vec 0) s
/-- BRA_FAR. -/
def execBraFar (f : LimmF) (s : State) : Out := opBra (f.fieldsFar) s
/-- JOIN_LIMM. -/
def execJoinLimm (f : LimmF) (s : State) : Out := opJoin (f.fields 0 .i32 .vec) s

end Sys2Proof.Machine
end

