-- ==== Sys2Proof/Machine/Dealer.lean ====
section
/-!
DEFINITION. The dealer slot of a core: its start, its eighteen micro-operations and its faults (21 R376 to R382).
-/

namespace Sys2Proof.Machine

/-! ### Micro-operations (R377, R378) -/

structure MicroOp where
  mop : Nat
  x : Nat
  y : Nat
  a : Nat
  b : Nat
  f : Nat
  imm : Word
  deriving DecidableEq, Repr

/-- Fields of a micro-operation; none where a reserved bit is set. -/
def MicroOp.ofWords (lo hi : Word) : Option MicroOp :=
  let n := lo.toNat
  if fieldOf n 6 2 != 0 || fieldOf n 11 1 != 0 || fieldOf n 15 1 != 0 || fieldOf n 19 1 != 0 || fieldOf n 23 1 != 0 then none
  else some ⟨fieldOf n 0 6, fieldOf n 8 3, fieldOf n 12 3, fieldOf n 16 3, fieldOf n 20 3, fieldOf n 24 8, hi⟩

/-- Which of X, Y, A, F and IMM each operation uses (R379). -/
def mopUses (m : Nat) : Option (Bool × Bool × Bool × Bool × Bool) :=
  match m with
  | 0 | 17 => some (false, false, false, false, false)
  | 1 | 2 => some (true, false, true, true, true)
  | 3 => some (true, false, true, false, true)
  | 4 => some (true, false, false, true, false)
  | 5 => some (true, true, true, false, false)
  | 6 | 7 => some (true, true, false, true, false)
  | 8 | 9 => some (true, true, false, false, false)
  | 10 | 11 | 12 | 13 | 15 | 16 => some (false, false, true, false, true)
  | 14 => some (false, false, false, false, true)
  | _ => none
/-- A legal micro-operation: a known MOP, unused fields zero, F and IMM within their values. -/
def MicroOp.legal (m : MicroOp) : Bool :=
  match mopUses m.mop with
  | none => false
  | some (x, y, a, f, i) =>
    (x || m.x == 0) && (y || m.y == 0) && (a || m.a == 0) && (f || m.f == 0) && (i || m.imm == 0) && m.b == 0
      && (!(m.mop == 1 || m.mop == 2 || m.mop == 4) || m.f ≤ 3) && (!(m.mop == 6 || m.mop == 7) || m.f ≤ 7)
      && (!(m.mop == 15 || m.mop == 16) || m.imm.toNat < 4096)

/-- What a dealer does next: the micro-operation, or the reason of a fault (R381). -/
def State.microOp (s : State) (l : Launch) (d : Dealer) : Except Nat MicroOp :=
  let w := d.base + 2 * d.idx
  if l.kernel.constCount ≤ w + 1 then .error 2
  else if s.constBad l w || s.constBad l (w + 1) then .error 5
  else match MicroOp.ofWords (s.constWord l w) (s.constWord l (w + 1)) with
    | none => .error 1
    | some m => if m.legal then .ok m else .error 1

/-! ### Faults (R381) -/

/-- The dealer stops with a fault: the chutes of its core are failed. -/
def State.dealerFault (s : State) (core reason : Nat) : State :=
  let k := s.core core
  let d := { k.dealer with running := false, reason := BitVec.ofNat 8 reason, asked := none, got := [] }
  ((s.setCore core { k with dealer := d, failed := true }).report 2 5 [core, k.dealer.lid, reason, k.dealer.idx]).trapChutes
    core 1 fun _ => true

/-! ### One micro-operation -/

def State.setDealer (s : State) (core : Nat) (d : Dealer) : State := s.setCore core { s.core core with dealer := d }
def Dealer.reg (d : Dealer) (n : Nat) : Dword := nth d.d n 0
def Dealer.setReg (d : Dealer) (n : Nat) (x : Dword) : Dealer := { d with d := d.d.set n x }
def Dealer.buf (d : Dealer) (n : Nat) : List Word := nth d.e n []
def Dealer.setBuf (d : Dealer) (n : Nat) (ws : List Word) : Dealer := { d with e := d.e.set n ws }
def Dealer.ahead (d : Dealer) : Dealer := { d with idx := d.idx + 1, asked := none, got := [] }
def Dealer.at (d : Dealer) (i : Word) : Dealer := { d with idx := i.toNat }
/-- Sixty-four words of 256 bytes, and the bytes of words. -/
def wordsOf (bs : List Byte) : List Word := (List.range 64).map fun k => BitVec.ofNat 32 (leNat ((bs.drop (4 * k)).take 4))
def bytesOfWords (ws : List Word) : List Byte := ws.flatMap fun w => leBytes 4 w.toNat
/-- d[A] + IMM. -/
def Dealer.addr (d : Dealer) (m : MicroOp) : Nat := (d.reg m.a + m.imm.signExtend 64).toNat

/-- What a micro-operation meets: it completes, it waits, it asks for a page or a peer, it faults. -/
inductive MopOut where
  | done (s : State)
  | wait
  | page (pg : Nat) (write : Bool)
  | ask (va n : Nat) (r : PeerAsk)
  | fault (reason : Nat)
  deriving DecidableEq, Repr

/-- What a stopped engine access makes of a micro-operation. -/
def EngStop.mop : EngStop → MopOut
  | .page pg w => .page pg w
  | .ask va n r => .ask va n r
  | .fail r => .fault r
/-- The bytes of a read and where they were read. -/
def State.dealerRead (s : State) (asid die : Nat) (d : Dealer) (sp va n : Nat) : Except MopOut EngData :=
  match s.engRead asid die sp va n 3 5 d.got with
  | .ok x => .ok x
  | .error e => .error e.mop

/-- GETS: 64 words at a stride. -/
def State.dealerGather (s : State) (asid die : Nat) (d : Dealer) (m : MicroOp) : Except MopOut (List EngData) :=
  let adr (k : Nat) : Nat := (d.reg m.a + BitVec.ofNat 64 k * m.imm.signExtend 64).toNat
  if (List.range 64).any fun k => adr k % 4 != 0 then .error (.fault 8)
  else (List.range 64).mapM fun k => s.dealerRead asid die d m.f (adr k) 4

/-- EXPAND: two blocks from byte 0, and the bytes consumed. -/
def expandTwo (bs : List Byte) : Option (List Word × Nat) :=
  let block (o : Nat) : Option (List Word × Nat) :=
    (deltaWidth (nth bs o 0)).map fun w =>
      ((expandBlock 4 w (leNat ((bs.drop (o + 1)).take 4)) ((bs.drop (o + 5)).take (4 * w))).map fun x => BitVec.ofNat 32 x, 5 + 4 * w)
  match block 0 with
  | none => none
  | some (a, n) => (block n).map fun (b, k) => (a ++ b, n + k)

/-- CVTN and CVTW under R371. -/
def narrowBuf (img : BitVec 128) (ws : List Word) : Option (List Word) :=
  if !copySlotOk img then none
  else
    let n := if slotFmt img = 5 then 2 else elemBits (slotFmt img) / 8
    (ws.mapM fun (w : Word) => engConvert img true w.toNat).map fun cs => wordsOf ((cs.flatMap fun c => leBytes n c) ++ List.replicate 256 0)
def widenBuf (img : BitVec 128) (ws : List Word) : Option (List Word) :=
  if !copySlotOk img then none
  else
    let n := if slotFmt img = 5 then 2 else elemBits (slotFmt img) / 8
    let bs := bytesOfWords ws
    ((List.range 64).mapM fun k => engConvert img false (leNat ((bs.drop (n * k)).take n))).map fun cs => cs.map fun c => BitVec.ofNat 32 c

/-- The effect of a legal micro-operation (R379). -/
def State.mopEffect (s : State) (core : Nat) (l : Launch) (m : MicroOp) : MopOut :=
  let k := s.core core
  let d := k.dealer
  let die := core / 64
  let img := nth l.kernel.slots m.f 0
  let put (d : Dealer) : MopOut := .done (s.setDealer core d.ahead)
  match m.mop with
  | 0 => .done (s.setDealer core { d with running := false })
  | 1 => match s.dealerRead l.asid die d m.f (d.addr m) 256 with
    | .ok x => .done ((s.engMarks die x.2).setDealer core (d.setBuf m.x (wordsOf x.1)).ahead)
    | .error e => e
  | 2 => match s.dealerGather l.asid die d m with
    | .ok xs => .done ((s.engMarks die (xs.flatMap fun x => x.2)).setDealer core
        (d.setBuf m.x (xs.map fun x => BitVec.ofNat 32 (leNat x.1))).ahead)
    | .error e => e
  | 3 => match s.engPlaces l.asid die 0 (d.addr m) 256 3 true with
    | .ok ps => .done ((s.engWrite ps (bytesOfWords (d.buf m.x))).setDealer core d.ahead)
    | .error e => e.mop
  | 4 =>
    if chuteCap ≤ (k.chute m.f).length then .wait
    else
      let s1 := s.setCore core { k with chutes := k.chutes.set m.f (k.chute m.f ++ [d.buf m.x]), dealer := d.ahead }
      .done (s1.serveChute core m.f 128)
  | 5 => match expandTwo (bytesOfWords (d.buf m.y)) with
    | some (ws, n) => put ((d.setBuf m.x ws).setReg m.a (d.reg m.a + BitVec.ofNat 64 n))
    | none => .fault 7
  | 6 => match narrowBuf img (d.buf m.y) with
    | some ws => put (d.setBuf m.x ws)
    | none => .fault 6
  | 7 => match widenBuf img (d.buf m.y) with
    | some ws => put (d.setBuf m.x ws)
    | none => .fault 6
  | 8 => put (d.setBuf m.x ((List.range 64).map fun i => nth (d.buf m.y) (8 * (i % 8) + i / 8) 0))
  | 9 => put (d.setBuf m.x (d.buf m.y))
  | 10 => put (d.setReg m.a (m.imm.signExtend 64))
  | 11 => put (d.setReg m.a (d.reg m.a + m.imm.signExtend 64))
  | 12 =>
    if l.kernel.constCount ≤ m.imm.toNat + 1 then .fault 2
    else if s.constBad l m.imm.toNat || s.constBad l (m.imm.toNat + 1) then .fault 5
    else put (d.setReg m.a (s.constWord l (m.imm.toNat + 1) ++ s.constWord l m.imm.toNat))
  | 13 =>
    let x := d.reg m.a - 1
    let d1 := d.setReg m.a x
    if x = 0 then put d1 else .done (s.setDealer core (d1.at m.imm))
  | 14 => .done (s.setDealer core (d.at m.imm))
  | 15 => if (d.reg m.a).setWidth 32 ≤ s.sem die m.imm.toNat then put d else .wait
  | 16 => .done ((s.semAdd die m.imm.toNat ((d.reg m.a).setWidth 32 : Word).toNat).setDealer core d.ahead)
  | _ => put d

/-- One step of a running dealer whose micro-operation is `n`; a faulting word is MOP_HALT's (DESIGN CHOICE, log 19). -/
def State.mopStep (s : State) (core n : Nat) : State :=
  let d := (s.core core).dealer
  match s.launch? d.lid with
  | none => s
  | some l =>
    if !d.running then s
    else match s.microOp l d with
      | .error r => if n = 0 then s.dealerFault core r else s
      | .ok m =>
        if m.mop != n then s
        else match s.mopEffect core l m with
          | .done s1 => s1
          | .wait => s
          | .page pg w => s.pageAsk (core / 64) l.asid pg w
          | .ask va _ r =>
            if d.asked.isSome || !s.pairRoom (core / 64) r.module then s
            else (r.send s (core / 64) (.dealer core s.fresh)).bump.setDealer core { d with asked := some (va, s.fresh) }
          | .fault r => s.dealerFault core r

/-! ### Starting (R376) -/

/-- A start of the dealer of a core. -/
def Dealer.start (lid tuid base : Nat) (d0 d1 : Dword) : Dealer :=
  { Dealer.idle with running := true, lid := lid, tuid := tuid, base := base, d0 := d0, d1 := d1, d := d0 :: d1 :: List.replicate 6 0 }
/-- The core is free for a launch's dealer start. -/
def Core.takes (k : Core) (lid : Nat) : Bool := (k.owner.isNone || k.owner == some lid) && !k.dealer.running
/-- DEALER_START: the start store of a thread, once its guard is decided (R178), takes the dealer and chutes of its core. -/
def State.dealerStart (s : State) (gid tid seq : Nat) : State :=
  match s.startStore gid tid seq true with
  | none => s
  | some (g, _, a, _, bs) =>
    let k := s.core g.coreNo
    if !k.takes g.lid || a.guard.isSome then s
    else
      let d := Dealer.start g.lid g.tuid (leNat bs % 65536) (BitVec.ofNat 64 (leNat bs / 2 ^ 64 % 2 ^ 32)) (BitVec.ofNat 64 (leNat bs / 2 ^ 96 % 2 ^ 32))
      ((s.setCore g.coreNo { k with failed := false, dealer := d }).ownChutes g.coreNo g.lid).startDone g tid seq

/-! ### One meaning per row -/

/-- DEALER_START (R376). -/
def execDealerStart (gid tid seq : Nat) (s : State) : Out := .next (s.dealerStart gid tid seq)
/-- MOP_HALT (R379). -/
def execMopHalt (core : Nat) (s : State) : Out := .next (s.mopStep core 0)
/-- MOP_GET (R379). -/
def execMopGet (core : Nat) (s : State) : Out := .next (s.mopStep core 1)
/-- MOP_GETS (R379). -/
def execMopGets (core : Nat) (s : State) : Out := .next (s.mopStep core 2)
/-- MOP_PUTM (R379). -/
def execMopPutm (core : Nat) (s : State) : Out := .next (s.mopStep core 3)
/-- MOP_PUT (R379). -/
def execMopPut (core : Nat) (s : State) : Out := .next (s.mopStep core 4)
/-- MOP_EXPAND (R379). -/
def execMopExpand (core : Nat) (s : State) : Out := .next (s.mopStep core 5)
/-- MOP_CVTN (R379). -/
def execMopCvtn (core : Nat) (s : State) : Out := .next (s.mopStep core 6)
/-- MOP_CVTW (R379). -/
def execMopCvtw (core : Nat) (s : State) : Out := .next (s.mopStep core 7)
/-- MOP_TR8 (R379). -/
def execMopTr8 (core : Nat) (s : State) : Out := .next (s.mopStep core 8)
/-- MOP_COPY (R379). -/
def execMopCopy (core : Nat) (s : State) : Out := .next (s.mopStep core 9)
/-- MOP_MOVI (R379). -/
def execMopMovi (core : Nat) (s : State) : Out := .next (s.mopStep core 10)
/-- MOP_ADDI (R379). -/
def execMopAddi (core : Nat) (s : State) : Out := .next (s.mopStep core 11)
/-- MOP_LDK (R379). -/
def execMopLdk (core : Nat) (s : State) : Out := .next (s.mopStep core 12)
/-- MOP_LOOP (R379). -/
def execMopLoop (core : Nat) (s : State) : Out := .next (s.mopStep core 13)
/-- MOP_JMP (R379). -/
def execMopJmp (core : Nat) (s : State) : Out := .next (s.mopStep core 14)
/-- MOP_SEMW (R379). -/
def execMopSemw (core : Nat) (s : State) : Out := .next (s.mopStep core 15)
/-- MOP_SIG (R379). -/
def execMopSig (core : Nat) (s : State) : Out := .next (s.mopStep core 16)
/-- MOP_FENCE (R379). -/
def execMopFence (core : Nat) (s : State) : Out := .next (s.mopStep core 17)

end Sys2Proof.Machine
end

