-- ==== Sys2Proof/Machine/MatrixEvents.lean ====
section
/-!
DEFINITION. The matrix engine's own steps: grants, completions and rises of priority (15 R246, R256, 16 R273, R275, R279 to R284). A
step whose condition does not hold changes nothing (DESIGN CHOICE, log 17).
-/

namespace Sys2Proof.Machine

/-! ### Passes (R256) -/

/-- Is a pass eligible: decided, not granted, and first of its group on its handles? -/
def Quad.eligible (q : Quad) (c : MatCmd) : Bool := c.op.isPass && c.guard.isNone && c.granted.isNone && q.first c
/-- The eligible entry that the arbiter grants: the highest priority, the oldest among equals. -/
def Quad.winner (q : Quad) : Option MatCmd :=
  leastBy (fun x y => y.prio < x.prio || (x.prio == y.prio && x.entered < y.entered)) (q.cmds.filter q.eligible)
def State.passGrant (s : State) (qn : Nat) : State :=
  let q := s.quad qn
  match q.winner with
  | none => s
  | some c => s.bump.setQuad qn { q with cmds := q.cmds.map fun x => if x.cid = c.cid then { x with granted := some s.fresh } else x }

/-- The granted pass that completes next: passes are applied in grant order (R263). -/
def Quad.firstGranted (q : Quad) : Option MatCmd :=
  leastBy (fun x y => x.granted.getD 0 < y.granted.getD 0) (q.cmds.filter fun c => c.granted.isSome)
def State.passComplete (s : State) (qn : Nat) : State :=
  match (s.quad qn).firstGranted with
  | none => s
  | some c => (s.setQuad qn ((s.quad qn).commit c)).settleQuad qn

/-- An entry that has spent another 1,024 cycles in the table rises one level, up to 7. -/
def MatCmd.risesNow (c : MatCmd) (now : Nat) : Bool :=
  c.op.isPass && c.granted.isNone && c.prio < 7 && c.entered + 1024 * (c.rises + 1) ≤ now
def State.priorityRise (s : State) (qn cid : Nat) : State :=
  let q := s.quad qn
  let now := s.quadNow qn
  s.setQuad qn { q with cmds := q.cmds.map fun c =>
    if c.cid = cid && c.risesNow now then { c with prio := c.prio + 1, rises := c.rises + 1 } else c }

/-! ### Other commands -/

/-- A command that may complete now: decided, and first of its group on its handles. -/
def Quad.ready? (q : Quad) (cid : Nat) (k : MatOp → Bool) : Option MatCmd :=
  q.cmds.find? fun c => c.cid == cid && k c.op && c.guard.isNone && q.first c
def MatOp.isOload : MatOp → Bool
  | .oload .. => true
  | _ => false
def MatOp.isAload : MatOp → Bool
  | .aload _ _ => true
  | _ => false
def MatOp.isAread : MatOp → Bool
  | .aread _ _ _ _ => true
  | _ => false
def MatOp.isDrain : MatOp → Bool
  | .drain _ _ _ => true
  | _ => false

/-- A load's data reaches its slot or tile (R271, R280). -/
def State.loadComplete (s : State) (qn cid : Nat) (k : MatOp → Bool) : State :=
  match (s.quad qn).ready? cid k with
  | none => s
  | some c => (s.setQuad qn ((s.quad qn).commit c)).settleQuad qn

/-- `aread` writes its registers (R279). -/
def State.areadComplete (s : State) (qn cid : Nat) : State :=
  match (s.quad qn).ready? cid MatOp.isAread with
  | none => s
  | some c =>
    match c.op with
    | .aread t part cols d =>
      let tile := (s.quad qn).tile t
      let s1 := s.modGroup c.gid fun g => cols.foldl (fun g e =>
        g.modThread e.1 fun th => th.writeReg d ((tile.cell e.1 e.2).read part)) g
      ((s1.unpend c).setQuad qn ((s.quad qn).dropCmd c.cid)).settleQuad qn
    | _ => s

/-- The trap of a drain with faulting elements (R213, R283): the threads stand at the unit, and their generators as before it. -/
def State.drainTrap (s : State) (c : MatCmd) (p : DrainSpec) (errs : List (Nat × Nat × PolicyCase)) : State :=
  match s.group? c.gid with
  | none => s
  | some g =>
    let ipc := s.faultWord g (nth c.tids 0 0)
    let entry (i : Nat) : Trapped :=
      let base : TrapInfo := { cause := 0x0051, info := ipc.setWidth 64, word := ipc }
      let pc := match g.threads[i]? with | some t => t.pc | none => 0
      match errs.find? fun e => e.1 == i with
      | some (_, j, k) => ⟨i, pc, { base with flags := 1, detailA := BitVec.ofNat 64 j, detailB := BitVec.ofNat 64 k.code }⟩
      | none => ⟨i, pc, base⟩
    let s1 := s.modGroup c.gid fun g => c.tids.foldl (fun g i => g.modThread i fun t =>
      { t with status := .ready, lfsr := match p.seeds.find? fun e => e.1 == i with | some e => e.2 | none => t.lfsr }) g
    s1.raise c.gid c.id ⟨0x0051, ipc.setWidth 64, c.tids.map entry⟩

/-- A drain writes its registers, or traps before it writes one (R281 to R283). -/
def State.drainComplete (s : State) (qn cid : Nat) : State :=
  match (s.quad qn).ready? cid MatOp.isDrain with
  | none => s
  | some c =>
    match c.op with
    | .drain t d p =>
      let q := s.quad qn
      let tile := q.tile t
      let seed (i : Nat) : Word := match p.seeds.find? fun e => e.1 == i with | some e => e.2 | none => 0
      let rows := c.tids.map fun i => (i, tile.drainRow p i p.cols 0 (seed i))
      let errs := rows.filterMap fun r => match r.2 with | .error e => some (r.1, e) | .ok _ => none
      let done (s : State) : State := (s.setQuad qn (q.dropCmd c.cid)).settleQuad qn
      match errs with
      | [] =>
        let s1 := s.modGroup c.gid fun g => rows.foldl (fun g r => match r.2 with
          | .ok cs => g.modThread r.1 fun th => th.writeRegs d (packWords p.target.width cs)
          | .error _ => g) g
        done (s1.unpend c)
      | _ => (done (s.drainTrap c p errs)).trickDone c.gid c.id
    | _ => s

/-! ### One meaning per row -/

/-- PASS_GRANT (R256). -/
def execPassGrant (quad : Nat) (s : State) : Out := .next (s.passGrant quad)
/-- PASS_COMPLETE (R261). -/
def execPassComplete (quad : Nat) (s : State) : Out := .next (s.passComplete quad)
/-- PRIORITY_RISE (R256). -/
def execPriorityRise (quad cid : Nat) (s : State) : Out := .next (s.priorityRise quad cid)
/-- OLOAD_COMPLETE (R271). -/
def execOloadComplete (quad cid : Nat) (s : State) : Out := .next (s.loadComplete quad cid MatOp.isOload)
/-- ALOAD_COMPLETE (R280). -/
def execAloadComplete (quad cid : Nat) (s : State) : Out := .next (s.loadComplete quad cid MatOp.isAload)
/-- AREAD_COMPLETE (R279). -/
def execAreadComplete (quad cid : Nat) (s : State) : Out := .next (s.areadComplete quad cid)
/-- DRAIN_COMPLETE (R283). -/
def execDrainComplete (quad cid : Nat) (s : State) : Out := .next (s.drainComplete quad cid)

end Sys2Proof.Machine
end

