-- ==== Sys2Proof/Machine/Replay.lean ====
section
/-!
DEFINITION. The replay of parked accesses when their page is there (18 R296, R305, R306, 20 R347): plain requests, the stack accesses of a
trick, and units that read memory as a whole.
-/

namespace Sys2Proof.Machine

/-- A parked request with its thread: group, %tid, request, where the thread goes on. -/
abbrev Parked := Nat × Nat × MemReq × Word
def Parked.gid (e : Parked) : Nat := e.1
def Parked.tid (e : Parked) : Nat := e.2.1
def Parked.req (e : Parked) : MemReq := e.2.2.1
/-- The parked requests by what a function names, in the order in which they stand. -/
def partsOf {α : Type} [DecidableEq α] (k : Parked → α) (l : List Parked) : List (List Parked) :=
  ((l.map k).eraseDups).map fun x => l.filter fun e => k e == x

/-! ### Requests of one access -/

/-- The trap of some parked threads of one unit of a group: the failing ones and, with the code of the lowest, the others (R347, R440). -/
def State.parkedTrap (s : State) (l : List Parked) (errs : List (Nat × TrapInfo)) : State :=
  match l, errs with
  | e0 :: _, (_, d) :: _ =>
    match s.group? e0.gid with
    | none => s
    | some g =>
      let entry (e : Parked) : Trapped :=
        let pc := match g.threads[e.tid]? with | some t => t.pc | none => 0
        match errs.find? fun x => x.1 == e.tid with
        | some (_, x) => ⟨e.tid, pc, { x with flags := x.flags ||| 1 }⟩
        | none => ⟨e.tid, pc, { cause := d.cause, info := d.info, word := d.word }⟩
      let s1 := s.modGroup e0.gid fun h => h.modThreads (l.map Parked.tid) fun t => { t with status := .ready }
      (errs.foldl (fun a x => a.reportBad x.2) s1).raise e0.gid e0.req.trick ⟨d.cause, d.info, l.map entry⟩
  | _, _ => s
/-- The trap that a parked request meets now, if any. -/
def State.replayFault (s : State) (e : Parked) : Option (Nat × TrapInfo) :=
  match s.group? e.gid with
  | none => none
  | some g => match s.launch? g.lid with
    | none => none
    | some l => match s.resolve g l e.tid (s.wordAt g l e.tid) e.req with
      | .trap x => some (e.tid, x)
      | _ => none
/-- Replay the parked requests of one unit of a group: a trap is the group's, else each goes on or parks again. -/
def State.replayPlain (s : State) (l : List Parked) : State :=
  match sortBy (fun (x y : Nat × TrapInfo) => x.1 < y.1) (l.filterMap s.replayFault) with
  | [] => l.foldl (fun acc e => acc.replay e.1 e.2.1 e.2.2.1 e.2.2.2) s
  | errs => s.parkedTrap l errs

/-! ### Units that replay as a whole -/

/-- Where a thread of a REP unit stands after the replay of a repetition, before its counter moves (R179): an offset that is no unit's. -/
def replayMark (upc : Word) : Word := upc + 1
/-- The issue of a replay: the groups that replay, and of their threads only those that do. A repetition replays alone. -/
def Replay.again (x : Replay) (l : List Parked) : Issue :=
  { x.issue with
    trick := x.issue.trick.filter fun e => l.any fun p => p.gid == e.1
    only := some (l.map fun p => (p.gid, p.tid))
    pfx := { x.issue.pfx with rep := none }
    npc := if x.issue.pfx.rep.isSome then replayMark x.issue.upc else x.issue.npc }
/-- A group with the operands that a unit held: its scalar registers, guard slots and window; registers and predicates of its threads that
do not replay themselves. -/
def Group.withOperands (g : Group) (s : List Dword) (gs : List (BitVec 2)) (window : BitVec 9) (v : List (List Word)) (p : List (BitVec 8))
    (out : Nat → Bool) : Group :=
  { g with s := s, g := gs, window := window,
           threads := g.tidsOf.map fun e => if out e.1 then { e.2 with v := nth v e.1 e.2.v, p := nth p e.1 e.2.p } else e.2 }
/-- Execute the instruction of a replay. -/
def Replay.run (x : Replay) (s : State) : State :=
  let r : Out := match x.o with
    | .bquant => opBquant x.f s
    | .oload => opOload x.f s
    | .aload => opAload x.f s
    | .adrain => opAdrain x.f s
    | .coll => opColl x.f s
    | .call => opCall x.f s
    | .callx => opCallx x.f s
    | .ret => retPop x.f s
    | _ => .next s
  match r with
  | .next t => t
  | _ => s
/-- The threads of the groups that stay out of a replay's writes. -/
def standsOut (l : List Parked) (gid : Nat) (tid : Nat) : Bool := !(l.any fun p => p.gid == gid && p.tid == tid)
/-- The unit of a parked request. -/
def Parked.unit (e : Parked) : Option Replay := e.req.unit
/-- After a replay: a repetition's end moves its thread on (R179); a thread that waits again keeps the operands and issue of its unit. -/
def Replay.settleThread (x : Replay) (t : Thread) : Thread :=
  let t := match t.status with
    | .parked pg r npc => if r.unit.isSome then { t with status := .parked pg { r with unit := some x } npc } else t
    | .held l (some r) => { t with status := .held l (some { r with unit := some x }) }
    | _ => t
  match x.issue.pfx.rep with
  | none => t
  | some p =>
    if t.pc != replayMark x.issue.upc then t
    else if p.cnt.toNat ≤ x.issue.rep then { t with pc := x.issue.npc, repctr := 0 }
    else { t with pc := x.issue.upc, repctr := x.issue.rep + 1 }
/-- Replay a unit in the threads that parked with it, with its operands (R306). -/
def State.replayUnit (s : State) (l : List Parked) : State :=
  match l.findSome? Parked.unit with
  | none => s
  | some x =>
    let cur := s.issue
    let ready := l.foldl (fun acc e => acc.modThread e.gid e.tid fun t => { t with status := .ready }) s
    let gids := (l.map Parked.gid).eraseDups
    let unitOf (gid : Nat) : Option Replay := (l.find? fun e => e.gid == gid).bind Parked.unit
    let s1 := gids.foldl (fun acc gid => match unitOf gid with
      | some y => acc.modGroup gid fun g => g.withOperands y.s y.g y.window y.v y.p (standsOut l gid)
      | none => acc) ready
    let s2 := x.run { s1 with issue := x.again l }
    let s3 := gids.foldl (fun acc gid => match s.group? gid with
      | some g => acc.modGroup gid fun h => h.withOperands g.s g.g g.window (g.threads.map (·.v)) (g.threads.map (·.p)) (standsOut l gid)
      | none => acc) s2
    { l.foldl (fun acc e => match e.unit with
        | some y => acc.modThread e.gid e.tid y.settleThread
        | none => acc) s3 with issue := cur }

/-! ### All of them -/

/-- Replay parked requests in one cycle (R305, R306): those of one access by unit and group, then the stack accesses of each trick, then
whole units by trick. -/
def State.replayAll (s : State) (l : List Parked) : State :=
  let whole := l.filter fun e => e.unit.isSome
  let stack := l.filter fun e => e.unit.isNone && e.req.stackPage
  let plain := l.filter fun e => e.unit.isNone && !e.req.stackPage
  let s1 := (partsOf (fun e => (e.gid, e.req.trick)) plain).foldl State.replayPlain s
  let s2 := (partsOf (fun e => e.req.trick) stack).foldl State.replayStack s1
  (partsOf (fun e => e.req.trick) whole).foldl State.replayUnit s2

/-- Units that waited for accesses in their replay go on once these have been performed. -/
def State.replayHeld (s : State) : State :=
  let l : List Parked := s.groups.flatMap fun g => g.tidsOf.filterMap fun e => match e.2.status with
    | .held w (some r) => if w.any s.isPending then none else some (g.gid, e.1, r, 0)
    | _ => none
  if l.isEmpty then s else (partsOf (fun e => e.req.trick) l).foldl State.replayUnit s

end Sys2Proof.Machine
end

