-- ==== Sys2Proof/Machine/Paging.lean ====
section
/-!
DEFINITION. The memory core: page tables, frames and the service of not-present faults and page requests (18 R295, R301, R302, R304
to R308, R465).
-/

namespace Sys2Proof.Machine

/-! ### Tables -/

def tableSize : Nat := 32768
/-- Write an entry of a table in system-die SRAM. -/
def State.setEntry (s : State) (table i : Nat) (e : Dword) : State :=
  { s with sram := wrBytes s.sram (table + 8 * i) (leBytes 8 e.toNat) }
/-- The tables that the 128 MiB of SRAM hold beside the window table of 256 KiB (R1, R297, R396); the system cores' own data takes no part of it
(DESIGN CHOICE, log 25). -/
def tableCount : Nat := 4096 - 8
/-- A new table: the next free 32 KiB of SRAM, zero; none when SRAM is full. -/
def State.newTable (s : State) : Option (Nat × State) :=
  if tableCount ≤ s.nextTable then none else some (s.nextTable * tableSize, { s with nextTable := s.nextTable + 1 })
/-- A table entry that the walkers follow: bits [14:2] and [63:27] are zero (R302). -/
def followed (e : Dword) : Bool := e.extractLsb' 2 13 == (0 : BitVec 13) && e.extractLsb' 27 37 == (0 : BitVec 37)
/-- Write the entry for a virtual address at a level, making the tables above it; none when SRAM has no room for one, or an entry above it is a bad
one. -/
def State.mapAt (s : State) (va : Nat) (e : Dword) (level : Nat) : Nat → Nat → Nat → Option State
  | 0, _, _ => some s
  | fuel + 1, at_, table =>
    let i := va / 2 ^ (52 - 12 * at_) % 4096
    if at_ = level then some (s.setEntry table i e)
    else
      let x := s.entry table i
      if x.getLsbD 0 then
        (if x.getLsbD 1 then some s else if !followed x then none else s.mapAt va e level fuel (at_ + 1) (x.toNat / 2 ^ 15 * 2 ^ 15))
      else s.newTable.bind fun n => (n.2.setEntry table i (BitVec.ofNat 64 (n.1 + 1))).mapAt va e level fuel (at_ + 1) n.1
/-- Write a level-3 entry of a space. -/
def State.mapPage (s : State) (asid va : Nat) (e : Dword) : Option State := (s.space? asid).bind fun x => s.mapAt va e 3 4 0 x.root

/-! ### Frames -/

def pageSize : Nat := 65536
/-- Frames of a kind on a die: the first frame number and how many. Expansion memory stands as one die. -/
def State.framesOf (s : State) (kind die : Nat) : Nat × Nat :=
  match kind with
  | 0 => (die * dieSpan / pageSize, scratchSize / pageSize)
  | 4 =>
    let n := match s.boot.hbm.getLsbD (2 * die), s.boot.hbm.getLsbD (2 * die + 1) with
      | true, true => farSpan | false, false => 0 | _, _ => farSpan / 2
    ((farBase + die * farSpan) / pageSize, n / pageSize)
  | _ => (expansionBase / pageSize, (s.expansion.filter (·.present)).foldl (fun n e => max n (e.base + e.size - expansionBase)) 0 / pageSize)
/-- The first unused frame from an offset, going round. -/
def State.firstFree (s : State) (first n : Nat) (k : Nat) : Nat → Option Nat
  | 0 => none
  | fuel + 1 =>
    let f := first + k % n
    if s.frames.contains f || (f * pageSize ≥ expansionBase && (s.phys (f * pageSize) == .unmapped || (s.bridgeAt (f * pageSize)).isSome)) then s.firstFree first n (k + 1) fuel
    else some f
/-- A free frame of a kind on a die: which one is the memory core's own choice (R465, DESIGN CHOICE, log 7). -/
def State.freeFrame (s : State) (kind die : Nat) : Option Nat :=
  let (first, n) := s.framesOf kind die
  if n = 0 then none else s.firstFree first n (Config.pickFrame s.frees n % n) (if kind = 5 then n else min n (s.frames.length + 1))
/-- A frame for a fault: on the preferred die, else on any that has one, the memory core's choice among them. -/
def State.anyFrame (s : State) (kind : Nat) (prefer : Option Nat) (dies : List Nat) : Option Nat :=
  let cands := if kind = 5 then [0] else dies
  match prefer.bind fun d => s.freeFrame kind (if kind = 5 then 0 else d) with
  | some f => some f
  | none =>
    let l := cands.filterMap fun d => s.freeFrame kind d
    l[Config.pickDie s.frees l.length % l.length]?
/-- A zeroed frame: every byte zero, its words rewritten whole. -/
def State.zeroFrame (s : State) (f : Nat) : State :=
  let lo := f * pageSize
  { s with mem := s.mem.filter fun c => c.1 < lo || lo + pageSize ≤ c.1
           badWords := s.badWords.filter fun w => 4 * w < lo || lo + pageSize ≤ 4 * w
           softWords := s.softWords.filter fun w => 4 * w < lo || lo + pageSize ≤ 4 * w
           frames := f :: s.frames, frees := s.frees + 1 }
/-- Some zeroed frames of a die's scratchpad; none where it has too few that are free. -/
def State.takeFrames (s : State) (die : Nat) : Nat → Option (List Nat × State)
  | 0 => some ([], s)
  | n + 1 => (s.freeFrame 0 die).bind fun f => ((s.zeroFrame f).takeFrames die n).map fun r => (f :: r.1, r.2)
/-- The pages that hold some bytes. -/
def pagesFor (n : Nat) : Nat := (n + pageSize - 1) / pageSize

/-! ### Service (R465) -/

/-- The range of a layout that holds an address. -/
def Space.rangeOf (x : Space) (va : Nat) : Option Range := x.layout.find? fun r => r.lo ≤ va && va < r.hi
/-- A leaf for a page: type, permissions, valid (R302). -/
def leafOf (frame : Nat) (kind : Nat) (r w : Bool) : Dword :=
  BitVec.ofNat 64 (frame * pageSize + kind * 32 + (if w then 8 else 0) + (if r then 4 else 0) + 3)

/-- The outcome of a request for a page: it is mapped, with the state after and its leaf; refused; or waits for a frame. -/
inductive Served where
  | mapped (s : State) (leaf : Dword)
  | refused
  | waits
  deriving DecidableEq, Repr

/-- Map a page of a range on a free frame of its kind; none where no frame, or no room for a table, is there. -/
def State.mapFresh (s : State) (asid page : Nat) (g : Range) (prefer : Option Nat) (dies : List Nat) : Option (State × Dword) :=
  (s.anyFrame g.kind.toNat prefer dies).bind fun f =>
    let e := leafOf f g.kind.toNat g.r g.w
    ((s.zeroFrame f).mapPage asid (page * pageSize) e).map fun t => (t, e)
/-- Serve one page of a space: what it needs, the die preferred and those allowed. -/
def State.servePage (s : State) (asid page : Nat) (r w : Bool) (prefer : Option Nat) (dies : List Nat) : Served :=
  match s.space? asid with
  | none => .refused
  | some x =>
    let va := page * pageSize
    match s.translate asid (BitVec.ofNat 64 va) with
    | .leaf e _ _ => if (r && !e.getLsbD 2) || (w && !e.getLsbD 3) then .refused else .mapped s e
    | .bad => .refused
    | .notPresent =>
      match x.rangeOf va with
      | none => .refused
      | some g =>
        if (r && !g.r) || (w && !g.w) then .refused
        else match s.mapFresh asid page g prefer dies with
          | none => if Config.refuses s.frees then .refused else .waits
          | some m => .mapped m.1 m.2

/-! ### FAULT_SERVICE (R305, R306) -/

/-- Threads parked on a page, in ascending lane then context. -/
def State.parkedOn (s : State) (core : Nat) (k : Group → Nat → MemReq → Bool) : List Parked :=
  let l := (s.groups.filter fun g => g.coreNo == core).flatMap fun g => g.tidsOf.filterMap fun e =>
    match e.2.status with
    | .parked p r npc => if k g p r then some (64 * e.2.lane + g.ctx, g.gid, e.1, r, npc) else none
    | _ => none
  (sortBy (fun x y => x.1 < y.1) l).map (·.2)
/-- Is a thread's parked page this entry? Threads of several groups of a trick may wait for one stack page (R296). -/
def State.onEntry (s : State) (e : FaultEntry) (g : Group) (p : Nat) (_ : MemReq) : Bool :=
  e.page == p && (isStackEntry p || s.asidOf g == e.asid)
/-- Threads that parked while the buffer was full translate again when an entry frees, and trap entries ask again. -/
def State.retryFull (s0 : State) (core : Nat) : State :=
  let s := s0.groups.foldl (fun acc g => match g.entering with
    | some t => if g.coreNo = core && !acc.away g then acc.askRecords g t else acc
    | none => acc) s0
  s.replayAll (s.parkedOn core fun g p r => !((s.core core).faults.any fun e => s.onEntry e g p r))
/-- A refused page: its threads trap with reason 1, those of one unit of a group together (R304). -/
def State.refuseThreads (s : State) (l : List Parked) : State :=
  (partsOf (fun e => (e.gid, e.req.trick)) l).foldl (fun acc p =>
    acc.parkedTrap p ((sortBy (fun x y => x.tid < y.tid) p).filterMap fun e => (acc.group? e.gid).map fun g =>
      (e.tid, trapInfo (acc.faultWord g e.tid) 0x0044 e.req.va 1 (acc.asidOf g)))) s

/-- A copy whose access `w` to a refused page is not allowed stops, at its source, its destination, its record or its postmark (R372,
R373). -/
def State.refuseCopy (s : State) (die chan page : Nat) (deny : Bool → Bool) (c : Copy) : State :=
  let t := c.tmpl
  let set (p : CopyPhase) : State := s.modCopy die chan c.cid fun c => { c with phase := p }
  match c.phase, s.launch? c.lid with
  | .reading, some l =>
    if c.ask.isSome then s
    else match s.copyPlan l die c with
      | .error (.page pg w) => if pg = page && deny w then s.stopCopy die chan c.cid (if w then 4 else 3) else s
      | _ => s
  | .payload 0, _ => if c.quiet && t.crc && (t.mark - 8) / pageSize = page && deny true then set (.record 4) else s
  | .record st, _ =>
    if c.quiet && t.mark != 0 && !c.flags.getLsbD 0 && t.mark / pageSize = page && deny true then set (.mark (markStatus st 4)) else s
  | _, _ => s
/-- Copies of a die that wait for a page that is refused. -/
def State.refuseCopies (s : State) (die asid page : Nat) (deny : Bool → Bool) : State :=
  ((s.die die).channels.map (·.1)).foldl (fun acc ch =>
    ((acc.die die).channel ch).queue.foldl (fun acc c =>
      if c.asid = asid && !c.squashed then acc.refuseCopy die ch page deny c else acc) acc) s
/-- Dealers of a die that wait for a page fault when it is refused. -/
def State.refuseDealers (s : State) (die asid page : Nat) (deny : Bool → Bool) : State :=
  (List.range 64).foldl (fun acc i =>
    let core := 64 * die + i
    let d := (acc.core core).dealer
    match acc.launch? d.lid with
    | some l =>
      if !d.running || l.asid != asid then acc
      else match acc.microOp l d with
        | .ok m => (match acc.mopEffect core l m with
          | .page pg w => if pg = page && deny w then acc.dealerFault core 3 else acc
          | _ => acc)
        | .error _ => acc
    | none => acc) s

def touches (page : Nat) (e : Nat × Nat × Bool) : Bool := e.1 < (page + 1) * pageSize && page * pageSize < e.1 + e.2.1
/-- Collectives of a die with a buffer on a refused page stop. -/
def State.refuseCollectives (s : State) (die asid page : Nat) (deny : Bool → Bool) : State :=
  { s with collectives := s.collectives.map fun x =>
      if x.die = die && x.asid = asid && (collBuffers x.header).any (fun e => touches page e && deny e.2.2) then { x with stopped := true }
      else x }
/-- The engines of a die whose access to a page is refused. -/
def State.refuseEngines (s : State) (die asid page : Nat) (deny : Bool → Bool) : State :=
  ((s.refuseCopies die asid page deny).refuseDealers die asid page deny).refuseCollectives die asid page deny

/-- Finish a trap entry whose record pages are all present (R441). -/
def State.retryEntry (s : State) (gid : Nat) : State :=
  match s.group? gid with
  | none => s
  | some g =>
    match g.entering with
    | some t => if t.threads.all fun x => g.stackUp x.tid recordOff then s.finishEntry gid t else s
    | none => s

def State.dropFault (s : State) (core : Nat) (e : FaultEntry) : State :=
  s.setCore core { s.core core with faults := (s.core core).faults.filter fun x => x != e }
/-- The pages of a group's trap record that are refused: the group fails (R441). -/
def State.refuseRecord (s : State) (gid page : Nat) : State :=
  match (s.group? gid).bind (·.entering) with
  | some t => if t.threads.any fun x => stackEntry gid (stackPage x.tid recordOff) == page then s.failGroup gid t t.cause t.info else s
  | none => s
/-- A stack page of a group (R295): mapped on a zeroed frame of the scratchpad of its core's die, or refused, or it waits for a frame. -/
def State.serveStack (s : State) (core gid : Nat) (e : FaultEntry) : State :=
  let hits := s.parkedOn core (s.onEntry e)
  let s1 := s.dropFault core e
  let refused := (s1.refuseThreads hits).refuseRecord gid e.page
  if Config.refuses s.frees then { refused with frees := refused.frees + 1 }
  else match s.freeFrame 0 (core / 64) with
    | none => s
    | some f =>
      let s2 := (s1.zeroFrame f).modGroup gid fun g => { g with pages := g.pages ++ [(e.page % 16, f)] }
      (s2.replayAll hits).retryEntry gid
/-- The permissions that a parked access needs (R303): an arm reads. -/
def Parked.allowed (g : Range) (e : Parked) : Bool :=
  match e.req.op with
  | .store _ => g.w
  | .atom _ _ _ _ | .cas _ _ _ _ => g.r && g.w
  | _ => g.r
/-- What the memory core makes of a fault (R465): the page is there by now; all who wait are refused; it waits for a frame; it maps the
page, where the range allows an access that waits. -/
inductive Verdict where
  | there
  | refuse
  | wait
  | map (s : State) (g : Range)
  deriving DecidableEq, Repr
def State.verdict (s : State) (asid page die : Nat) (wanted : Range → Bool) : Verdict :=
  match s.translate asid (BitVec.ofNat 64 (page * pageSize)), (s.space? asid).bind fun x => x.rangeOf (page * pageSize) with
  | .notPresent, none => .refuse
  | .notPresent, some g =>
    if !wanted g then .refuse
    else match s.mapFresh asid page g (some die) (List.range 12) with
      | some m => .map m.1 g
      | none => if Config.refuses s.frees then .refuse else .wait
  | _, _ => .there
/-- A fault of threads: those whose access the range allows replay, the others trap. -/
def State.serveThreads (s : State) (core asid page : Nat) (e : FaultEntry) : State :=
  let hits := s.parkedOn core (s.onEntry e)
  match s.verdict asid page (core / 64) fun g => if hits.isEmpty then (if e.write then g.w else g.r) else hits.any (Parked.allowed g) with
  | .there => ((s.dropFault core e).replayAll hits).retryFull core
  | .refuse => ((s.dropFault core e).refuseThreads hits).retryFull core
  | .wait => s
  | .map s1 g =>
    (((s1.dropFault core e).refuseThreads (hits.filter fun h => !h.allowed g)).replayAll (hits.filter (Parked.allowed g))).retryFull core
/-- A fault of a die's engines: their own next steps find the page. -/
def State.serveEngines (s : State) (core die asid page : Nat) (e : FaultEntry) : State :=
  match s.verdict asid page die fun g => if e.write then g.w else g.r with
  | .there => s.dropFault core e
  | .refuse =>
    let all := match (s.space? asid).bind fun x => x.rangeOf (page * pageSize) with
      | some g => (if e.write then g.w else g.r)
      | none => true
    (s.dropFault core e).refuseEngines die asid page fun w => all || w == e.write
  | .wait => s
  | .map s1 g => (s1.dropFault core e).refuseEngines die asid page fun w => if w then !g.w else !g.r
/-- FAULT_SERVICE: the memory core maps or refuses a page of a core's or an engine's fault buffer. -/
def State.faultService (s : State) (core asid page : Nat) : State :=
  match (s.core core).faults.find? fun e => e.asid == asid && e.page == page with
  | none => s
  | some e =>
    match e.stackOf with
    | some gid => ((s.serveStack core gid e).retryFull core).settle
    | none =>
      if core < 768 then (s.serveThreads core asid page e).settle else (s.serveEngines core (core - 768) asid page e).settle

/-! ### TABLE_CHANGE (R308) -/

/-- The bytes that an entry of a level covers, and the first of those that hold an address. -/
def levelSpan (level : Nat) : Nat := 2 ^ (52 - 12 * level)
def levelBase (level : Nat) (va : Dword) : Nat := va.toNat / levelSpan level * levelSpan level
/-- Accesses of a space that translated through the entries of a level at an address and are not performed: those of its threads below it,
and, wherever they lie, the requests of its engines that are out. -/
def State.usesPage (s : State) (asid level : Nat) (va : Dword) : Bool :=
  let span := levelSpan level
  let lo := levelBase level va
  let mine (lid : Nat) : Bool := ((s.launch? lid).map (·.asid)) == some asid
  (s.groups.any fun g => g.asid == asid && g.threads.any fun t => t.ops.any fun a =>
      (match a.place with | .phys _ | .peer _ _ _ _ => true | _ => false) && lo ≤ a.va.toNat && a.va.toNat < lo + span)
    || (s.dies.any fun d => d.2.channels.any fun c => c.2.queue.any fun x => x.asid == asid && (x.ask.isSome || !x.quiet))
    || s.cores.any fun c => c.2.dealer.running && mine c.2.dealer.lid && c.2.dealer.asked.isSome
/-- The memory core makes an address space with its first change: a zero root table (DESIGN CHOICE, log 25). -/
def State.makeSpace (s : State) (asid : Nat) : State :=
  if (s.space? asid).isSome then s
  else match s.newTable with
    | none => s
    | some n => { n.2 with spaces := n.2.spaces ++ [⟨asid, n.1, [], []⟩] }
def State.modSpace (s : State) (asid : Nat) (f : Space → Space) : State :=
  { s with spaces := s.spaces.map fun x => if x.asid = asid then f x else x }
/-- The table that holds the entry of a level for an address; none where an entry above it leads to none. -/
def State.tableFor (s : State) (va level : Nat) : Nat → Nat → Nat → Option Nat
  | 0, _, _ => none
  | fuel + 1, at_, table =>
    if at_ = level then some table
    else
      let x := s.entry table (va / 2 ^ (52 - 12 * at_) % 4096)
      if x.getLsbD 0 && !x.getLsbD 1 && followed x then s.tableFor va level fuel (at_ + 1) (x.toNat / 2 ^ 15 * 2 ^ 15) else none
/-- The entry of a level for an address as it stands. -/
def State.entryNow (s : State) (x : Space) (level : Nat) (va : Dword) : Dword :=
  match s.tableFor va.toNat level 4 0 x.root with
  | some t => s.entry t (va.toNat / levelSpan level % 4096)
  | none => 0
/-- The functions bound to a space that may hold translations of it (R405, R415). -/
def State.boundTo (s : State) (asid : Nat) : List Nat :=
  (s.funcs.filter fun f => f.ats && !f.failed && (f.dflt == some asid || f.pasids.any fun e => e.2 == asid)).map (·.rid)
/-- Pages that rings, queue pairs and windows hold pinned stay mapped (R396, R412, R419): does one lie in a run of bytes? -/
def State.pin (s : State) (o : PinOwner) (asid page n : Nat) : State :=
  { s with pins := s.pins ++ (List.range n).map fun i => ⟨asid, page + i, o⟩ }
def State.unpin (s : State) (o : PinOwner) : State := { s with pins := s.pins.filter fun p => p.owner != o }
def State.pinnedIn (s : State) (asid lo n : Nat) : Bool :=
  s.pins.any fun p => p.asid == asid && lo ≤ p.page * pageSize && p.page * pageSize < lo + n
/-- A frame that leaves its space is free; doorbell words in it are none any more (R402, R414). -/
def State.releaseFrame (s : State) (f : Option Nat) : State :=
  match f with
  | none => s
  | some k => { s with
      frames := s.frames.filter fun x => x != k
      dies := s.dies.map fun (d : Nat × Die) => (d.1, { d.2 with proxy := d.2.proxy.filter fun (b : Doorbell) => b.pa / pageSize != k }) }
/-- A change of a valid entry begins: every function bound to the space gets an ATS Invalidate Request (R405). -/
def State.beginChange (s : State) (asid level : Nat) (va e : Dword) (frame : Option Nat) : State :=
  { s with
    shootdowns := s.shootdowns ++ [⟨asid, level, va, e, s.boundTo asid, s.now, frame⟩]
    answers := s.answers ++ (s.boundTo asid).map fun r => .invalidate r asid (BitVec.ofNat 64 (levelBase level va)) (levelSpan level) }
/-- An unfinished change of a space that covers some of the same bytes. -/
def Shootdown.meets (d : Shootdown) (asid level : Nat) (va : Dword) : Bool :=
  d.asid == asid && levelBase d.level d.va < levelBase level va + levelSpan level && levelBase level va < levelBase d.level d.va + levelSpan d.level
def Shootdown.isOf (d : Shootdown) (asid level : Nat) (va e : Dword) : Bool := d.asid == asid && d.level == level && d.va == va && d.e == e
/-- The memory core writes an entry once every access through the old one has been performed and, where the old one was valid, every bound function
has answered its ATS Invalidate Request (R308, R405, R416). A pinned page stays as it is, and of two changes to the same bytes the later one waits
(DESIGN CHOICE, log 25). -/
def State.entryChange (s : State) (x : Space) (level : Nat) (va e : Dword) : State :=
  let put : Option State := if s.usesPage x.asid level va then none else s.mapAt va.toNat e level 4 0 x.root
  match s.shootdowns.find? fun d => d.isOf x.asid level va e with
  | some d =>
    if !d.awaiting.isEmpty then s
    else match put with
      | some t => ({ t with shootdowns := t.shootdowns.erase d } : State).releaseFrame d.frame
      | none => s
  | none =>
    if 3 < level || s.pinnedIn x.asid (levelBase level va) (levelSpan level) || s.shootdowns.any fun d => d.meets x.asid level va then s
    else if (s.entryNow x level va).getLsbD 0 && !(s.boundTo x.asid).isEmpty then s.beginChange x.asid level va e none
    else put.getD s
/-- A function has answered the oldest ATS Invalidate Request of a space that it has not answered. -/
def answeredBy (asid rid : Nat) : List Shootdown → List Shootdown
  | [] => []
  | d :: r => if d.asid = asid && d.awaiting.contains rid then { d with awaiting := d.awaiting.filter fun x => x != rid } :: r else d :: answeredBy asid rid r
/-- A page of a space that is to leave it, with its frame. -/
def State.leavePage (s : State) (asid page : Nat) : State :=
  match s.translate asid (BitVec.ofNat 64 (page * pageSize)) with
  | .leaf e _ _ => if s.pinnedIn asid (page * pageSize) pageSize then s
      else s.beginChange asid 3 (BitVec.ofNat 64 (page * pageSize)) 0 (some (e.toNat / pageSize))
  | _ => s
/-- Serve pages from a page number on; none where one is refused, must wait, or is about to change. -/
def State.servePages (s : State) (asid page : Nat) (r w : Bool) : Nat → Option State
  | 0 => some s
  | n + 1 =>
    if s.shootdowns.any fun d => d.meets asid 3 (BitVec.ofNat 64 (page * pageSize)) then none
    else match s.servePage asid page r w none (List.range 12) with
      | .mapped s1 _ => s1.servePages asid (page + 1) r w n
      | _ => none
/-- TABLE_CHANGE: the memory core changes an entry, a range of the layout or a token, or hears a function's answer. Without room in SRAM for a
table it changes nothing. -/
def State.tableChange (s : State) (asid : Nat) (c : SpaceChange) : State :=
  if asid = 0 || 4096 ≤ asid then s
  else
    let s1 := s.makeSpace asid
    match c with
    | .entry level va e =>
      match s1.space? asid with
      | some x => s1.entryChange x level va e
      | none => s1
    | .answered rid => { s with shootdowns := answeredBy asid rid s.shootdowns }
    | .reserve lo hi kind r w => s1.modSpace asid fun x => { x with layout := x.layout ++ [⟨lo, hi, kind, r, w⟩] }
    | .token i t => if 4096 ≤ i then s else s1.modSpace asid fun x => { x with tokens := tset x.tokens i t }

/-! ### One meaning per row -/

/-- FAULT_SERVICE (R305, R465). -/
def execFaultService (core asid page : Nat) (s : State) : Out := .next (s.faultService core asid page)
/-- TABLE_CHANGE (R308). -/
def execTableChange (asid : Nat) (c : SpaceChange) (s : State) : Out := .next (s.tableChange asid c)

end Sys2Proof.Machine
end

