-- ==== Sys2Proof/Machine/Admit.lean ====
section
/-!
DEFINITION. Placing and starting teams: what a core has free (02 R13, R16, R21, R22), the choice of a core (25 R435), new groups and
threads (02 R14, R17, R18), team admission and handler tasks (02 R40 to R44).
-/

namespace Sys2Proof.Machine

/-! ### What a core holds -/

/-- A team that holds its core. -/
def Team.placed (t : Team) : Bool := t.state == .resident || t.state == .stopping
/-- A group holds its lanes' contexts while its team is placed, and after its retirement until each is free (R31). -/
def State.holdsLanes (s : State) (g : Group) : Bool :=
  match s.team? g.tuid with
  | some t => t.placed
  | none => true

/-- A context in use: lane, context index, register base, registers. -/
structure Lane where
  lane : Nat
  ctx : Nat
  base : Nat
  nregs : Nat
  deriving DecidableEq, Repr

def State.lanesOf (s : State) (core : Nat) : List Lane :=
  (s.groups.filter fun g => g.coreNo == core && s.holdsLanes g).flatMap fun g =>
    (g.threads.filter fun t => !t.freed).map fun t => ⟨t.lane, g.ctx, g.regBase, g.nregs⟩

/-- Energy weights (R22). -/
def energyWeight (c : Nat) : Nat := nth [1, 2, 3, 4, 6, 8, 12, 16] c 16
/-- The weight of the groups resident on a core. -/
def State.weightOn (s : State) (core : Nat) : Nat :=
  (s.groups.filter fun g => g.coreNo == core && !g.retired).foldl (fun n g =>
    match s.team? g.tuid, s.launch? g.lid with
    | some t, some l => if t.placed then n + energyWeight l.kernel.energy else n
    | _, _ => n) 0
/-- A declared size in whole units of 256 bytes (R18). -/
def teamUnits (n : Nat) : Nat := (n + 255) / 256 * 256
/-- Team memory in use on a core, of 256 KiB. -/
def State.teamMemOn (s : State) (core : Nat) : Nat :=
  s.teams.foldl (fun n t =>
    let c := 64 * t.die + t.core
    if t.placed && (c == core || (t.paired && c + 1 == core)) then n + t.size else n) 0
def teamMemSize : Nat := 0x40000

/-! ### Placing groups (R13, R16, R21) -/

/-- The lowest register base free in every lane of a run of lanes. -/
def runAt (occ : List Lane) (base w nregs : Nat) : Option Nat :=
  let l := occ.filter fun x => base ≤ x.lane && x.lane < base + w
  let ok (b : Nat) : Bool := b + nregs ≤ 2048 && l.all fun x => b + nregs ≤ x.base || x.base + x.nregs ≤ b
  (sortBy (fun a b => a < b) (0 :: l.map fun x => x.base + x.nregs)).find? ok
/-- A place for one group: the lowest context index at which its lanes and its run are free, then the lowest base lane. -/
def placeOne (occ : List Lane) (w nregs : Nat) : Option (Nat × Nat × Nat) :=
  (List.range 32).findSome? fun ctx => (List.range (64 / w)).findSome? fun k =>
    let base := k * w
    if occ.any fun x => x.ctx == ctx && base ≤ x.lane && x.lane < base + w then none
    else (runAt occ base w nregs).map fun r => (ctx, base, r)
/-- Places for `n` groups, one after another. -/
def placeAll (occ : List Lane) (w nregs : Nat) : Nat → Option (List (Nat × Nat × Nat))
  | 0 => some []
  | n + 1 =>
    match placeOne occ w nregs with
    | none => none
    | some (ctx, base, r) =>
      let new := (List.range w).map fun i => (⟨base + i, ctx, r, nregs⟩ : Lane)
      (placeAll (new ++ occ) w nregs n).map fun rest => (ctx, base, r) :: rest

/-- What a team asks of its core or pair. -/
structure Want where
  width : Nat
  regs : Nat
  groups : Nat
  paired : Bool
  size : Nat
  weight : Nat
  deriving DecidableEq, Repr

def Kernel.want (k : Kernel) : Want := ⟨k.width, k.regs, k.groups, k.paired, teamUnits k.teamSize, energyWeight k.energy⟩
/-- Groups of a team on the first core and, when paired, on the second (R19). -/
def Want.split (w : Want) : List Nat × List Nat :=
  let all := List.range w.groups
  if w.paired then (all.filter (· % 2 == 0), all.filter (· % 2 == 1)) else (all, [])

/-- One core's part of R21: places for some groups by number. -/
def State.fits (s : State) (core : Nat) (w : Want) (nums : List Nat) : Option (List (Nat × Nat × Nat × Nat × Nat)) :=
  if teamMemSize < s.teamMemOn core + w.size || (s.core core).budget < s.weightOn core + w.weight * nums.length then none
  else (placeAll (s.lanesOf core) w.width w.regs nums.length).map fun l => (List.zip nums l).map fun e => (e.1, core, e.2)
/-- A whole team on a core, or on the pair that begins there: the groups' numbers, cores, contexts, base lanes and register bases. -/
def State.fitsTeam (s : State) (core : Nat) (w : Want) : Option (List (Nat × Nat × Nat × Nat × Nat)) :=
  if (s.die (core / 64)).stopped then none
  else if w.paired then
    match s.fits core w w.split.1, s.fits (core + 1) w w.split.2 with
    | some a, some b => some (sortBy (fun x y => x.1 < y.1) (a ++ b))
    | _, _ => none
  else s.fits core w w.split.1

/-- The weight by which a core or pair stands in the ordering (R435). -/
def State.standing (s : State) (core : Nat) (w : Want) : Nat :=
  if w.paired then max (s.weightOn core) (s.weightOn (core + 1)) else s.weightOn core
/-- Cores and pairs of the dies of a mask. -/
def coresOf (dies : List Nat) (paired : Bool) : List Nat :=
  dies.flatMap fun d => ((List.range 64).filter fun c => !paired || c % 2 == 0).map fun c => 64 * d + c
/-- The core that R435 picks, with the team's places, among those that `ok` allows. -/
def State.chooseCore (s : State) (dies : List Nat) (w : Want) (ok : Nat → Bool) :
    Option (Nat × List (Nat × Nat × Nat × Nat × Nat)) :=
  let l := (coresOf dies w.paired).filterMap fun c => if ok c then (s.fitsTeam c w).map fun p => (c, p) else none
  leastBy (fun x y => s.standing x.1 w < s.standing y.1 w || (s.standing x.1 w == s.standing y.1 w && x.1 < y.1)) l

/-! ### New groups (R14, R17) -/

/-- Scalar registers of a new group: s0 and s1, the others zero. -/
def startScalars (s0 s1 : Dword) : List Dword := s0 :: s1 :: List.replicate 62 0
/-- A group that starts; thread `i` has tag `tag + i`. Its address space is that of its launch, which `startTeam` names. -/
def Group.start (gid tuid lid number : Nat) (team : Word) (width nregs core ctx base regBase : Nat) (handler : Bool) (entry : Word)
    (payload : List Word) (s0 s1 : Dword) (stamp tag : Nat) : Group :=
  { gid := gid, tuid := tuid, lid := lid, asid := 0, number := number, team := team, width := width, base := base, ctx := ctx,
    regBase := regBase, nregs := nregs, die := core / 64, core := core % 64, s := startScalars s0 s1,
    g := List.replicate 16 0, window := 0, trapbase := 0, trapcause := 0, trapepc := 0, epcWritten := false, trapinfo := 0,
    trapmask := 0, handler := false, attached := false, halting := false, halted := false, stepping := [], haltRecord := none,
    heldTraps := [], entering := none, entryId := 0, pages := [], isHandler := handler, retired := false,
    threads := (List.range width).map fun i => Thread.new (base + i) entry nregs payload (tag + i) stamp }

/-- A team that starts, its memory as R18 says. -/
def Team.start (tuid lid : Nat) (number : Word) (core : Nat) (paired : Bool) (size : Nat) (mem : Memory) (handler : Bool) : Team :=
  { tuid := tuid, lid := lid, number := number, die := core / 64, core := core % 64, paired := paired, size := size, mem := mem,
    mem2 := [], isHandler := handler, state := .resident, drainBy := none, slots := [], tiles := [], cmds := [], copies := [],
    dealers := [], area := [] }

/-- Start the groups of a team at their places. -/
def State.startTeam (s : State) (tm : Team) (w : Want) (places : List (Nat × Nat × Nat × Nat × Nat)) (entry : Word) (payload : List Word)
    (s0 s1 : Dword) : State :=
  let s1' := { s with teams := s.teams ++ [tm] }
  places.foldl (fun acc p =>
    let g := Group.start acc.fresh tm.tuid tm.lid p.1 tm.number w.width w.regs p.2.1 p.2.2.1 p.2.2.2.1 p.2.2.2.2 tm.isHandler entry
      payload s0 s1 (acc.core p.2.1).cycles (acc.fresh + 1)
    { acc with groups := acc.groups ++ [{ g with asid := acc.asidOf g }], fresh := acc.fresh + 1 + w.width }) s1'

/-! ### Team admission (R435) -/

/-- The queue of a launch holds a slot (R431): `slotsOf` gives a queue's slot priority and when its mapping began. -/
def State.mapped (s : State) (queue : Nat) : Bool := s.slotsOf.any fun e => e.1 == queue
def State.run? (s : State) (inst : Nat) : Option Run := s.runs.find? fun r => r.inst == inst
def State.queueOf (s : State) (l : Launch) : Option Nat := (s.run? l.run).map (·.queue)
/-- A launch that may place its next team: its queue holds a slot, or it was started without one. -/
def State.mayPlace (s : State) (l : Launch) : Bool :=
  l.nextTeam < l.kernel.teams && (match s.queueOf l with | some q => s.mapped q | none => true)

/-- Is a launch offered cores before another (R435)? -/
def Launch.before (k l : Launch) : Bool := l.prio < k.prio || (k.prio == l.prio && k.order < l.order)
/-- Another launch whose next team has waited 1 ms keeps a die free of this one's teams, at its priority or below; of two such launches
the one that is offered cores first goes on (R435, DEDUCED, log 24). -/
def State.pressedOn (s : State) (l : Launch) (d : Nat) : Bool :=
  s.launches.any fun k => k.lid != l.lid && k.pressing && s.mayPlace k && l.prio ≤ k.prio && k.dies.getLsbD d && !(l.pressing && l.before k)
/-- Dies on which a launch may place a team. -/
def State.openDies (s : State) (l : Launch) : List Nat := (maskBits l.dies 12).filter fun d => !s.pressedOn l d
/-- The storage of a launch's declared pigeonholes, an item of 64 bits each, in pages (R34, R35). -/
def Launch.holePages (l : Launch) : Nat := pagesFor ((l.holes.filter (·.declared)).foldl (fun n h => n + 8 * 2 ^ h.cap) 0)
/-- Carve that storage from the home die's scratchpad before the launch's first team starts (R34, DESIGN CHOICE, log 24); none where the
die has too few free frames. -/
def State.carveHoles (s : State) (l : Launch) : Option State :=
  if l.nextTeam != 0 then some s
  else (s.takeFrames l.home l.holePages).map fun r => r.2.modLaunch l.lid fun l => { l with holeFrames := r.1 }
def State.roomFor (s : State) (l : Launch) : Option (Nat × List (Nat × Nat × Nat × Nat × Nat)) :=
  if (s.carveHoles l).isNone then none else s.chooseCore (s.openDies l) l.kernel.want fun _ => true
/-- A launch's next team is the one that is admitted now. -/
def State.admitsNow (s : State) (l : Launch) : Bool :=
  s.mayPlace l && !(s.launches.any fun k => k.lid != l.lid && s.mayPlace k && k.before l && (s.roomFor k).isSome)

/-- TEAM_ADMIT: the next team of a launch starts whole. -/
def State.teamAdmit (s : State) (lid team : Nat) : State :=
  match s.launch? lid with
  | none => s
  | some l =>
    if l.nextTeam != team || !s.admitsNow l then s
    else match s.roomFor l, s.carveHoles l with
      | some (core, places), some s0 =>
        let image := wrBytes [] 0 (s.loadedBytes l.kernel.imageBase l.kernel.imageSize)
        let tm := Team.start s.fresh lid (BitVec.ofNat 32 team) core l.kernel.paired (teamUnits l.kernel.teamSize) image false
        let s1 := s0.bump.startTeam tm l.kernel.want places l.kernel.entry [] 0 0
        s1.modLaunch lid fun l => { l with nextTeam := team + 1, waitSince := s.now, pressing := false }
      | _, _ => s

/-- ADMISSION_WAIT_LIMIT: a team has waited 1 ms. -/
def admissionLimit : Nat := 1000000
def State.admissionWait (s : State) (lid team : Nat) : State :=
  match s.launch? lid with
  | none => s
  | some l =>
    if l.nextTeam != team || !s.mayPlace l || l.pressing then s
    else (s.atLeast (l.waitSince + admissionLimit)).modLaunch lid fun l => { l with pressing := true }

/-! ### Messages and handler tasks (R40 to R44, R394, R399) -/

/-- A handler entry: entry, width, registers, present, team memory (R131). -/
def Kernel.handler (k : Kernel) (n : Nat) : Option (Word × Nat × Nat × Bool × Nat) := k.handlers[n]?
/-- Why a message is discarded (R43, R44, R399); 0 where no reason byte is given. -/
def State.messageFault (s : State) (m : Msg) : Option Nat :=
  match s.launch? m.lid.toNat with
  | none => some 0
  | some l =>
    if m.srcModule != s.boot.position && !l.mask.getLsbD m.srcModule then some 8
    else match l.kernel.handler m.handler with
      | none => some 0
      | some (_, _, regs, present, _) => if !present || regs < m.words.length then some 0 else none
/-- A discarded message is counted, and the errors core is told (R43). -/
def State.discardMessage (s : State) (m : Msg) (why : Nat) : State :=
  (s.setDie m.die { s.die m.die with messageErrors := (s.die m.die).messageErrors + 1 }).report 2 7
    [m.srcModule, m.srcDie, m.srcCore, m.srcLane, m.srcTeam.toNat, m.lid.toNat, m.handler, why]

/-- s0 of a handler (R44). -/
def senderWord (m : Msg) : Dword :=
  BitVec.ofNat 64 (m.srcModule % 256 * 2 ^ 40 + m.srcDie % 256 * 2 ^ 32 + m.srcCore % 256 * 2 ^ 24 + m.srcLane % 256 * 2 ^ 16
    + m.srcTeam.toNat % 2 ^ 16)
def Launch.handlerWant (l : Launch) (h : Word × Nat × Nat × Bool × Nat) : Want :=
  ⟨h.2.1, h.2.2.1, 1, false, teamUnits h.2.2.2.2, energyWeight l.kernel.energy⟩
/-- The lowest-numbered core of a die that admits a handler's team. -/
def State.handlerCore (s : State) (l : Launch) (die : Nat) (w : Want) : Option (Nat × List (Nat × Nat × Nat × Nat × Nat)) :=
  if s.pressedOn l die then none else (coresOf [die] false).findSome? fun c => (s.fitsTeam c w).map fun p => (c, p)
/-- A handler task starts: a team of one group. Its team memory starts zero and not with the launch's image, since its entry names none (R18, R40,
DESIGN CHOICE, log 24). -/
def State.startHandler (s : State) (l : Launch) (m : Msg) (h : Word × Nat × Nat × Bool × Nat) (core : Nat)
    (places : List (Nat × Nat × Nat × Nat × Nat)) : State :=
  let tm := Team.start s.fresh l.lid 0xFFFFFFFF core false (teamUnits h.2.2.2.2) [] true
  s.bump.startTeam tm (l.handlerWant h) places h.1 m.words (senderWord m) (BitVec.ofNat 64 (4 * m.words.length))

/-- A message of another module has left this one's hands: its credit returns (R394, R399). -/
def State.returnCredit (s : State) (m : Msg) : State :=
  if m.srcModule = s.boot.position then s else s.pushTo m.die m.srcModule (.response m.srcDie 0 (.credit m.die))
/-- A message is taken off its die's queue: there is room for senders. -/
def State.messageGone (s : State) (die : Nat) (m : Msg) : State :=
  ((s.setDie die { s.die die with messages := (s.die die).messages.drop 1 }).returnCredit m).serveSenders
/-- HANDLER_START: the oldest message of a die's queue starts its handler, or is discarded. A launch must have started its teams (R44). -/
def State.handlerStart (s : State) (die : Nat) : State :=
  match (s.die die).messages with
  | [] => s
  | m :: _ =>
    match s.messageFault m with
    | some n => ((s.messageGone die m).discardMessage m n).settle
    | none =>
      match s.launch? m.lid.toNat with
      | none => s
      | some l =>
        match l.kernel.handler m.handler with
        | none => s
        | some h =>
          match s.handlerCore l die (l.handlerWant h) with
          | some (c, p) => if l.nextTeam < l.kernel.teams then s else ((s.startHandler l m h c p).messageGone die m).settle
          | none => s

/-- Who sent a message, as its order with others of one sender needs it (R355). -/
def Outgoing.sender (e : Outgoing) : List Nat := [e.gid, e.tid, e.m.srcModule, e.m.srcDie, e.m.srcCore, e.m.srcLane]
/-- Messages that may land next: those of one thread to one die in its program order (R355). -/
def landsNext (position : Nat) : List Outgoing → List Outgoing → List Outgoing
  | _, [] => []
  | before, e :: r =>
    let rest := landsNext position (before ++ [e]) r
    if e.module == position && !(before.any fun x => x.module == position && x.sender == e.sender && x.m.die == e.m.die) then e :: rest else rest
/-- MESSAGE_WHOLE: a message has landed. It leaves the list of those on their way to this module's dies, and queues, or is discarded
(R41 to R43, R399). -/
def State.messageWhole (s : State) (m : Msg) : State :=
  match (landsNext s.boot.position [] s.messagesOut).find? fun e => e.m == m with
  | none => s
  | some e =>
    if messageQueue ≤ (s.die m.die).messages.length then s else
    let s1 := { s with messagesOut := s.messagesOut.erase e }
    match s1.messageFault m with
    | some n => ((s1.discardMessage m n).returnCredit m).settle
    | none => s1.setDie m.die { s1.die m.die with messages := (s1.die m.die).messages ++ [m] }

/-! ### One meaning per row -/

/-- TEAM_ADMIT (R21, R435). -/
def execTeamAdmit (lid team : Nat) (s : State) : Out := .next (s.teamAdmit lid team)
/-- ADMISSION_WAIT_LIMIT (R435). -/
def execAdmissionWaitLimit (lid team : Nat) (s : State) : Out := .next (s.admissionWait lid team)
/-- MESSAGE_WHOLE (R41). -/
def execMessageWhole (m : Msg) (s : State) : Out := .next (s.messageWhole m)
/-- HANDLER_START (R41). -/
def execHandlerStart (die : Nat) (s : State) : Out := .next (s.handlerStart die)

end Sys2Proof.Machine
end

