-- ==== Sys2Proof/Machine/Crypto.lean ====
section
/-!
DEFINITION. SHA-256, the check of an ECDSA signature on P-256, which an object's and an image's signature block name (07 R135, R136,
27 R455), and AES-256 in GCM with 96-bit nonces, which seals flits (22 R386, R388). Their constants and steps are those of the standards that the spec names (PRESUMED, log 9).
-/

namespace Sys2Proof.Machine

/-! ### SHA-256 -/

/-- The round constants. -/
def shaK : List Word :=
  [0x428A2F98, 0x71374491, 0xB5C0FBCF, 0xE9B5DBA5, 0x3956C25B, 0x59F111F1, 0x923F82A4, 0xAB1C5ED5,
   0xD807AA98, 0x12835B01, 0x243185BE, 0x550C7DC3, 0x72BE5D74, 0x80DEB1FE, 0x9BDC06A7, 0xC19BF174] ++
  [0xE49B69C1, 0xEFBE4786, 0x0FC19DC6, 0x240CA1CC, 0x2DE92C6F, 0x4A7484AA, 0x5CB0A9DC, 0x76F988DA,
   0x983E5152, 0xA831C66D, 0xB00327C8, 0xBF597FC7, 0xC6E00BF3, 0xD5A79147, 0x06CA6351, 0x14292967] ++
  [0x27B70A85, 0x2E1B2138, 0x4D2C6DFC, 0x53380D13, 0x650A7354, 0x766A0ABB, 0x81C2C92E, 0x92722C85,
   0xA2BFE8A1, 0xA81A664B, 0xC24B8B70, 0xC76C51A3, 0xD192E819, 0xD6990624, 0xF40E3585, 0x106AA070] ++
  [0x19A4C116, 0x1E376C08, 0x2748774C, 0x34B0BCB5, 0x391C0CB3, 0x4ED8AA4A, 0x5B9CCA4F, 0x682E6FF3,
   0x748F82EE, 0x78A5636F, 0x84C87814, 0x8CC70208, 0x90BEFFFA, 0xA4506CEB, 0xBEF9A3F7, 0xC67178F2]
/-- The chaining value, eight words. -/
structure Sha where
  a : Word
  b : Word
  c : Word
  d : Word
  e : Word
  f : Word
  g : Word
  h : Word
  deriving DecidableEq, Repr
def Sha.first : Sha := ⟨0x6A09E667, 0xBB67AE85, 0x3C6EF372, 0xA54FF53A, 0x510E527F, 0x9B05688C, 0x1F83D9AB, 0x5BE0CD19⟩
def Sha.add (x y : Sha) : Sha := ⟨x.a + y.a, x.b + y.b, x.c + y.c, x.d + y.d, x.e + y.e, x.f + y.f, x.g + y.g, x.h + y.h⟩
def Sha.words (x : Sha) : List Word := [x.a, x.b, x.c, x.d, x.e, x.f, x.g, x.h]
/-- One round, with its constant and schedule word. -/
def Sha.round (x : Sha) (k w : Word) : Sha :=
  let s1 := x.e.rotateRight 6 ^^^ x.e.rotateRight 11 ^^^ x.e.rotateRight 25
  let t1 := x.h + s1 + ((x.e &&& x.f) ^^^ (~~~x.e &&& x.g)) + k + w
  let s0 := x.a.rotateRight 2 ^^^ x.a.rotateRight 13 ^^^ x.a.rotateRight 22
  ⟨t1 + s0 + ((x.a &&& x.b) ^^^ (x.a &&& x.c) ^^^ (x.b &&& x.c)), x.a, x.b, x.c, x.d + t1, x.e, x.f, x.g⟩
/-- The next schedule word of a window of the last sixteen. -/
def shaNext (w : List Word) : Word :=
  let at_ (i : Nat) : Word := (w[i]?).getD 0
  let x := at_ 1
  let y := at_ 14
  at_ 0 + (x.rotateRight 7 ^^^ x.rotateRight 18 ^^^ (x >>> 3)) + at_ 9 + (y.rotateRight 17 ^^^ y.rotateRight 19 ^^^ (y >>> 10))
/-- The rounds of a block, with the window of schedule words before each. -/
def Sha.rounds (x : Sha) (w : List Word) : List Word → Sha
  | [] => x
  | k :: r => (x.round k ((w[0]?).getD 0)).rounds (w.drop 1 ++ [shaNext w]) r
/-- A big-endian number of bytes, and the bytes of one. -/
def beNat (bs : List Byte) : Nat := bs.foldl (fun n b => 256 * n + b.toNat) 0
def beBytes (n x : Nat) : List Byte := (List.range n).map fun i => BitVec.ofNat 8 (x / 256 ^ (n - 1 - i))
def beWords (n : Nat) (bs : List Byte) : List Word := (List.range n).map fun i => BitVec.ofNat 32 (beNat ((bs.drop (4 * i)).take 4))
/-- Blocks of 64 bytes, in order. -/
def Sha.blocks (x : Sha) (bs : List Byte) : Nat → Sha
  | 0 => x
  | n + 1 => (x.add (x.rounds (beWords 16 bs) shaK)).blocks (bs.drop 64) n
/-- A message with its padding: a one bit, zeros, the length in bits. -/
def shaPad (bs : List Byte) : List Byte :=
  bs ++ [0x80] ++ List.replicate ((119 - bs.length % 64) % 64) 0 ++ beBytes 8 (8 * bs.length)
def sha256 (bs : List Byte) : List Byte :=
  let m := shaPad bs
  ((Sha.first.blocks m (m.length / 64)).words).flatMap fun w => beBytes 4 w.toNat

/-! ### P-256 -/

def curveP : Nat := 0xFFFFFFFF00000001000000000000000000000000FFFFFFFFFFFFFFFFFFFFFFFF
def curveN : Nat := 0xFFFFFFFF00000000FFFFFFFFFFFFFFFFBCE6FAADA7179E84F3B9CAC2FC632551
def curveB : Nat := 0x5AC635D8AA3A93E7B3EBBD55769886BC651D06B0CC53B0F63BCE3C3E27D2604B
/-- A point of the curve; none is the point at infinity. -/
abbrev Point := Option (Nat × Nat)
def basePoint : Point :=
  some (0x6B17D1F2E12C4247F8BCE6E563A440F277037D812DEB33A0F4A13945D898C296,
        0x4FE342E2FE1A7F9B8EE7EB4A7C0F9E162BCE33576B315ECECBB6406837BF51F5)
/-- x to the power e modulo m, over the bits of e from the highest. -/
def powMod (x e m : Nat) : Nat :=
  (List.range 256).foldl (fun r i => let q := r * r % m; if e.testBit (255 - i) then q * x % m else q) 1
/-- The inverse modulo a prime. -/
def invMod (x m : Nat) : Nat := powMod (x % m) (m - 2) m
def onCurve (x y : Nat) : Bool :=
  x < curveP && y < curveP && (y * y + 3 * x) % curveP == (x * x * x + curveB) % curveP
/-- The third point of a line with slope `l` through two points, mirrored. -/
def alongLine (l x1 y1 x2 : Nat) : Point :=
  let x := (l * l + 2 * curveP - x1 - x2) % curveP
  some (x, (l * (x1 + curveP - x) + curveP - y1) % curveP)
def Point.add (a b : Point) : Point :=
  match a, b with
  | none, q => q
  | p, none => p
  | some (x1, y1), some (x2, y2) =>
    if x1 = x2 then
      if (y1 + y2) % curveP = 0 then none
      else alongLine ((3 * x1 * x1 + curveP - 3) * invMod (2 * y1) curveP % curveP) x1 y1 x2
    else alongLine ((y2 + curveP - y1) * invMod (x2 + curveP - x1) curveP % curveP) x1 y1 x2
/-- k times a point. -/
def Point.times (k : Nat) (p : Point) : Point :=
  (List.range 256).foldl (fun (r : Point) i => let q := Point.add r r; if k.testBit (255 - i) then Point.add q p else q) none

/-- Does a signature r, s over a message verify under the key x, y? All four are big-endian numbers. -/
def ecdsaOk (kx ky msg r s : List Byte) : Bool :=
  let x := beNat kx
  let y := beNat ky
  let r := beNat r
  let s := beNat s
  onCurve x y && 1 ≤ r && r < curveN && 1 ≤ s && s < curveN &&
    (let w := invMod s curveN
     let e := beNat (sha256 msg)
     match Point.add (Point.times (e * w % curveN) basePoint) (Point.times (r * w % curveN) (some (x, y))) with
     | none => false
     | some (v, _) => v % curveN == r)

/-! ### AES-256 -/

/-- Twice a byte in the field of AES, and the product of two. -/
def xtime (x : Byte) : Byte := if x.getLsbD 7 then (x <<< 1) ^^^ 0x1B else x <<< 1
def gmul (x y : Byte) : Byte :=
  (List.range 8).foldl (fun r i => let q := xtime r; if x.getLsbD (7 - i) then q ^^^ y else q) 0
/-- The S-box: the inverse, which is the power of 254, and an affine map. -/
def ginv (x : Byte) : Byte := (List.range 8).foldl (fun r i => let q := gmul r r; if i < 7 then gmul q x else q) 1
def sbox (x : Byte) : Byte :=
  let b := ginv x
  b ^^^ b.rotateLeft 1 ^^^ b.rotateLeft 2 ^^^ b.rotateLeft 3 ^^^ b.rotateLeft 4 ^^^ 0x63
def xorBytes (a b : List Byte) : List Byte := List.zipWith (· ^^^ ·) a b
/-- The key schedule: words of four bytes, from the eight before each; `n` more from word `i` on. -/
def keyWords (i : Nat) (r : Byte) (w : List (List Byte)) : Nat → List (List Byte)
  | 0 => w
  | n + 1 =>
    let at_ (k : Nat) : List Byte := (w[k]?).getD []
    let t := at_ (i - 1)
    let u := if i % 8 = 0 then xorBytes ((t.drop 1 ++ t.take 1).map sbox) [r, 0, 0, 0] else if i % 8 = 4 then t.map sbox else t
    keyWords (i + 1) (if i % 8 = 0 then xtime r else r) (w ++ [xorBytes (at_ (i - 8)) u]) n
/-- The fifteen round keys of a key of 32 bytes. -/
def roundKeys (key : List Byte) : List (List Byte) :=
  let w := keyWords 8 1 ((List.range 8).map fun i => (key.drop (4 * i)).take 4) 52
  (List.range 15).map fun i => ((w.drop (4 * i)).take 4).flatten
/-- A block is sixteen bytes, column by column. -/
def shiftRows (b : List Byte) : List Byte := (List.range 16).map fun i => (b[5 * i % 16]?).getD 0
def mixColumn (col : List Byte) : List Byte :=
  let at_ (k : Nat) : Byte := (col[k % 4]?).getD 0
  (List.range 4).map fun i => xtime (at_ i) ^^^ xtime (at_ (i + 1)) ^^^ at_ (i + 1) ^^^ at_ (i + 2) ^^^ at_ (i + 3)
def mixColumns (b : List Byte) : List Byte := (List.range 4).flatMap fun i => mixColumn ((b.drop (4 * i)).take 4)
def aesBlock (keys : List (List Byte)) (b : List Byte) : List Byte :=
  let at_ (k : Nat) : List Byte := (keys[k]?).getD []
  let inner := (List.range 13).foldl (fun x i => xorBytes (mixColumns (shiftRows (x.map sbox))) (at_ (i + 1))) (xorBytes b (at_ 0))
  xorBytes (shiftRows (inner.map sbox)) (at_ 14)

/-! ### GCM -/

/-- The product in the field of GHASH, whose bit 0 is the highest of a block. -/
def ghashMul (x y : BitVec 128) : BitVec 128 :=
  ((List.range 128).foldl (fun (e : BitVec 128 × BitVec 128) i =>
    (if x.getLsbD (127 - i) then e.1 ^^^ e.2 else e.1,
     if e.2.getLsbD 0 then (e.2 >>> 1) ^^^ ((0xE1 : BitVec 128) <<< 120) else e.2 >>> 1)) (0, y)).1
def padBlock (bs : List Byte) : List Byte := bs ++ List.replicate ((16 - bs.length % 16) % 16) 0
def ghash (h : BitVec 128) (bs : List Byte) : BitVec 128 :=
  (List.range (bs.length / 16)).foldl (fun y i => ghashMul (y ^^^ BitVec.ofNat 128 (beNat ((bs.drop (16 * i)).take 16))) h) 0
/-- The key stream of a nonce, from a counter. -/
def gcmStream (keys : List (List Byte)) (nonce : List Byte) (ctr n : Nat) : List Byte :=
  (List.range ((n + 15) / 16)).flatMap fun i => aesBlock keys (nonce ++ beBytes 4 (ctr + i))
def gcmTag (keys : List (List Byte)) (nonce aad text : List Byte) : List Byte :=
  let h := BitVec.ofNat 128 (beNat (aesBlock keys (List.replicate 16 0)))
  let y := ghash h (padBlock aad ++ padBlock text ++ beBytes 8 (8 * aad.length) ++ beBytes 8 (8 * text.length))
  xorBytes (beBytes 16 y.toNat) (gcmStream keys nonce 1 16)
/-- The ciphertext of a plaintext, or the plaintext of a ciphertext. -/
def gcmCrypt (keys : List (List Byte)) (nonce text : List Byte) : List Byte := xorBytes text (gcmStream keys nonce 2 text.length)

end Sys2Proof.Machine
end

