-- ==== Sys2Proof/Machine/Runs.lean ====
section
/-!
DEFINITION. Completions, queue slots, launches and runs (25 R427, R430 to R433), the retirement of groups and teams and the
completion of launches (02 R31 to R33).
-/

namespace Sys2Proof.Machine

/-! ### Completions and objects -/

/-- A command's completion on the transport session that carried it (R427). -/
def State.complete (s : State) (session : Nat) (cmd : List Byte) (status result : Nat) : State :=
  { s with completions := s.completions ++
      [(session, leBytes 1 (u8 cmd 0) ++ leBytes 1 status ++ leBytes 2 (u16 cmd 2) ++ leBytes 4 (u32 cmd 4) ++ leBytes 4 result ++ leBytes 4 0)] }

def State.object? (s : State) (handle : Nat) : Option Obj := s.objects.find? fun o => o.handle == handle
def State.swq (s : State) (q : Nat) : SwQueue := tget s.queues q SwQueue.reset
def State.setSwq (s : State) (q : Nat) (x : SwQueue) : State := { s with queues := tset s.queues q x }
def State.modRun (s : State) (inst : Nat) (f : Run → Run) : State :=
  { s with runs := s.runs.map fun r => if r.inst = inst then f r else r }

/-! ### Queue slots (R431, R432) -/

/-- A queue's launches. -/
def State.launchesOf (s : State) (q : Nat) : List Launch := s.launches.filter fun l => s.queueOf l == some q
/-- Map a queue: its slot's priority is its level now. -/
def State.mapQueue (s : State) (q : Nat) : State :=
  let x := s.swq q
  let s1 := ({ s with slotsOf := tset s.slotsOf q (x.eff, s.now) }).setSwq q { x with heldFrom := s.now }
  (s1.launchesOf q).foldl (fun acc l => acc.modLaunch l.lid fun l => { l with prio := x.eff, waitSince := s.now, pressing := false }) s1
/-- A queue loses its slot: its waiting teams are withdrawn, and its resident teams are to be pre-empted (R432, R435, R445). -/
def State.unmapQueue (s : State) (q : Nat) : State :=
  let x := s.swq q
  let s1 := ({ s with slotsOf := tdel s.slotsOf q }).setSwq q { x with lastEnd := some s.now, waitFrom := s.now }
  (s1.launchesOf q).foldl (fun acc l =>
    let s2 := acc.modLaunch l.lid fun l => { l with pressing := false }
    { s2 with teams := s2.teams.map fun t =>
        if t.lid = l.lid && t.state == .resident then { t with state := .stopping, drainBy := none } else t }) s1
def slotCount : Nat := 64
/-- A queue gains work: it takes a free slot at once, or waits. -/
def State.gainWork (s : State) (q : Nat) : State :=
  if s.mapped q then s
  else if s.slotsOf.length < slotCount then s.mapQueue q
  else s.setSwq q { s.swq q with waitFrom := s.now }

/-! ### Launching nodes (R430) -/

def State.graphOf (s : State) (r : Run) : List Node :=
  match s.object? r.handle with
  | some o => nth o.graphs r.graph []
  | none => []
def nodeOf (g : List Node) (id : Nat) : Option Node := g.find? fun n => n.id == id

/-- Launch(run, n). -/
def State.launchNode (s : State) (r : Run) (n : Node) : State :=
  match s.object? r.handle with
  | none => s
  | some o =>
    match o.kernels[n.kernel]? with
    | none => s
    | some k =>
      let l : Launch :=
        { lid := r.inst * 1024 + n.id, run := r.inst, node := n.id, kernel := k, home := o.home, asid := u16 r.cmd 0xE,
          dies := BitVec.ofNat 16 (u16 r.cmd 0x10), mask := BitVec.ofNat 16 (u16 r.cmd 0x12), prio := (tget s.slotsOf r.queue (0, 0)).1,
          order := s.fresh, nextTeam := 0, waitSince := s.now, pressing := false, holes := k.holes, holeFrames := [], lastPost := false, failed := false }
      ({ s.bump with launches := s.launches ++ [l] }).modRun r.inst fun r => { r with launched := r.launched ++ [n.id] }

/-! ### The end of a run -/

/-- A run's queue pair returns (R412, R429): its doorbells are doorbells no longer, the pages of its rings leave the address space, and the PASID is
unbound where no other pair of the function needs it. -/
def State.freePair (s : State) (q : QueuePair) : State :=
  let off (b : Doorbell) : Doorbell := if q.bells.contains b.pa then { b with live := false } else b
  let s1 : State := { s with
    queuePairs := s.queuePairs.filter fun x => x.run != q.run
    dies := s.dies.map fun (d : Nat × Die) => (d.1, { d.2 with proxy := d.2.proxy.map off }) }
  let s2 := (List.range q.pages).foldl (fun acc i => acc.leavePage q.asid (q.page + i)) (s1.unpin (.pair q.run))
  if s2.queuePairs.any fun x => x.rid == q.rid && x.asid == q.asid then s2
  else
    let unbind (f : Func) : Func := if f.rid = q.rid then { f with pasids := f.pasids.filter fun e => e.2 != q.asid } else f
    { s2 with funcs := s2.funcs.map unbind }
/-- Channels, queue pair and queue of a run return; a queue with no work is back at its base level (R429, R433). -/
def State.freeRun (s0 : State) (r : Run) : State :=
  let s := (s0.queuePairs.filter fun q => q.run == r.inst).foldl State.freePair s0
  let s1 := { s with
    runs := s.runs.filter fun x => x.inst != r.inst
    dies := s.dies.map fun (d : Nat × Die) => (d.1, { d.2 with
      channels := d.2.channels.map fun (c : Nat × Channel) => (c.1, if c.2.owner == some r.inst then { c.2 with owner := none } else c.2) }) }
  let x := s1.swq r.queue
  s1.setSwq r.queue { x with cmds := x.cmds.drop 1, running := none, eff := x.base }

/-- Complete(run) once no launch of it runs. -/
def State.settleRun (s : State) (inst : Nat) : State :=
  match s.run? inst with
  | none => s
  | some r =>
    if !r.begun || s.launches.any fun l => l.run == inst then s
    else if r.failed then (s.freeRun r).complete r.session r.cmd 0x24 r.firstFail
    else if (s.graphOf r).all fun n => r.finished.contains n.id then (s.freeRun r).complete r.session r.cmd 0 0
    else s

/-- One successor's counter falls; at zero the node launches, unless the run has failed. -/
def State.dropPred (s : State) (inst id : Nat) : State :=
  let s1 := s.modRun inst fun r => { r with counts := tset r.counts id (tget r.counts id 0 - 1) }
  match s1.run? inst with
  | none => s1
  | some r =>
    match nodeOf (s1.graphOf r) id with
    | some n => if tget r.counts id 0 = 0 && !r.failed && !r.launched.contains id then s1.launchNode r n else s1
    | none => s1

/-- On completion of a launch (R430). -/
def State.nodeDone (s : State) (l : Launch) (failed : Bool) : State :=
  let s1 := { s with
    launches := s.launches.filter fun k => k.lid != l.lid
    frames := s.frames.filter fun f => !l.holeFrames.contains f }
  let s2 := match s1.run? l.run with
    | none => s1
    | some r =>
      if failed then
        s1.modRun l.run fun r => { r with failed := true, firstFail := if r.failed then r.firstFail else l.node }
      else
        let s2 := s1.modRun l.run fun r => { r with finished := r.finished ++ [l.node] }
        match nodeOf (s2.graphOf r) l.node with
        | some n => n.succs.foldl (fun acc k => acc.dropPred l.run k) s2
        | none => s2
  s2.settleRun l.run

/-! ### Retirement (R31 to R33) -/

/-- CONTEXT_FREE: an exited thread's context returns once no store of it is unacknowledged; a retired group with all contexts
free and nothing in flight is gone. -/
def Group.gone (g : Group) : Bool := g.retired && g.threads.all fun t => t.freed && t.ops.isEmpty
def State.dropGone (s : State) : State := { s with groups := s.groups.filter fun g => !g.gone }
def State.contextFree (s : State) (gid tid : Nat) : State :=
  match s.thread? gid tid with
  | none => s
  | some t =>
    if t.exited && !t.freed && t.unacked = 0 then (s.modThread gid tid fun t => { t with freed := true }).dropGone else s

/-- A group with granted passes does not retire yet. -/
def State.granted (s : State) (g : Group) : Bool :=
  (s.quad g.quadNo).cmds.any fun c => c.gid == g.gid && c.granted.isSome
/-- A quad without a group's commands and claims. -/
def Quad.dropGroup (q : Quad) (gid : Nat) : Quad :=
  { slots := q.slots.map fun e => (e.1, if e.2.holder == some gid then { e.2 with holder := none } else e.2)
    tiles := q.tiles.map fun e => (e.1, if e.2.holder == some gid then { e.2 with holder := none } else e.2)
    cmds := q.cmds.filter fun c => c.gid != gid }
/-- Undecided guarded starts of a group leave its channels and store buffers. -/
def Thread.dropGuarded (t : Thread) : Thread :=
  t.ops.foldl (fun u a => if a.guard.isSome then { u.dropOp a.seq with unacked := u.unacked - 1 } else u) t
def State.dropGuarded (s : State) (gid : Nat) : State :=
  let s1 := s.modGroup gid fun g => { g with threads := g.threads.map Thread.dropGuarded }
  { s1 with dies := s1.dies.map fun d => (d.1, { d.2 with
      channels := d.2.channels.map fun c => (c.1, { c.2 with queue := c.2.queue.filter fun x => !(x.gid = gid && x.guard.isSome) }) }) }

/-- A dealer that stops: it is idle, and after a fault its reason and index stay for the records of R381, until the next start. -/
def Core.stoppedDealer (k : Core) : Dealer :=
  if k.failed then { Dealer.idle with reason := k.dealer.reason, idx := k.dealer.idx } else Dealer.idle
/-- A core whose chutes' owner has no team left on it loses the ownership, with what the chutes hold (R376, R357). -/
def State.teamsOn (s : State) (core lid : Nat) : Bool :=
  s.teams.any fun t => t.placed && t.lid == lid && (64 * t.die + t.core == core || (t.paired && 64 * t.die + t.core + 1 == core))
def State.lapseChutes (s : State) (core : Nat) : State :=
  let k := s.core core
  match k.owner with
  | none => s
  | some lid =>
    if s.teamsOn core lid then s
    else s.setCore core { k with owner := none, chutes := [[], [], [], []], dealer := k.stoppedDealer }

/-- A team retires with its last group (R33). -/
def State.retireTeam (s : State) (tuid : Nat) : State :=
  match s.team? tuid with
  | none => s
  | some t =>
    if s.groups.any fun g => g.tuid == tuid && !g.retired then s
    else
      let c := 64 * t.die + t.core
      let s1 := { s with teams := s.teams.filter fun x => x.tuid != tuid }
      let s2 := s1.lapseChutes c
      if t.paired then s2.lapseChutes (c + 1) else s2

/-- GROUP_RETIRE (R32). -/
def State.groupRetire (s : State) (gid : Nat) : State :=
  match s.group? gid with
  | none => s
  | some g =>
    if g.retired || !(g.threads.all Thread.exited) || s.granted g then s
    else
      let s1 := s.dropGuarded gid
      let s2 := (s1.setQuad g.quadNo ((s1.quad g.quadNo).dropGroup gid)).settleQuad g.quadNo
      let s3 := s2.modGroup gid fun g =>
        { g with retired := true, s := List.replicate 64 0, g := List.replicate 16 0, pages := [], entering := none, heldTraps := [],
                 threads := g.threads.map fun t => { t with stack := [] } }
      let k := s3.core g.coreNo
      let s4 := { s3.setCore g.coreNo { k with faults := k.faults.filter fun e => e.stackOf != some gid } with
        frames := s3.frames.filter fun f => !(g.pages.any fun p => p.2 == f) }
      ((s4.retryFull g.coreNo).retireTeam g.tuid).dropGone.settle

/-! ### Launch completion (R33) -/

/-- Copies that threads of a launch started and that are not complete, start stores included. -/
def State.copiesOf (s : State) (lid : Nat) : Bool :=
  (s.dies.any fun d => d.2.channels.any fun c => c.2.queue.any fun x => x.lid == lid)
    || s.groups.any fun g => g.lid == lid && g.threads.any fun t => t.ops.any fun a =>
        a.op.isStore && (match a.place with | .phys pa => isAperture pa | _ => false)
/-- Nothing of a launch is left but items that nothing collects. -/
def State.launchIdle (s : State) (l : Launch) : Bool :=
  l.nextTeam == l.kernel.teams && !(s.teams.any fun t => t.lid == l.lid) && !s.copiesOf l.lid
    && (List.range l.holes.length).all fun h => s.inFlight l.lid h == 0
/-- LAUNCH_COMPLETE. -/
def State.launchComplete (s : State) (lid : Nat) : State :=
  match s.launch? lid with
  | none => s
  | some l =>
    if !s.launchIdle l then s
    else
      let left := (List.range l.holes.length).filterMap fun h =>
        let n := (l.hole h).items.length
        if n = 0 then none else some [h, n]
      let s1 := if left.isEmpty then s else s.report 2 8 (lid :: left.flatten)
      s1.nodeDone l (l.failed || !left.isEmpty)

/-! ### One meaning per row -/

/-- CONTEXT_FREE (R31). -/
def execContextFree (gid tid : Nat) (s : State) : Out := .next (s.contextFree gid tid)
/-- GROUP_RETIRE (R32). -/
def execGroupRetire (gid : Nat) (s : State) : Out := .next (s.groupRetire gid)
/-- LAUNCH_COMPLETE (R33). -/
def execLaunchComplete (lid : Nat) (s : State) : Out := .next (s.launchComplete lid)

end Sys2Proof.Machine
end

