-- ==== Sys2Proof/Machine/ThreadEvents.lean ====
section
/-!
DEFINITION. Events of threads: decode traps, repetitions, join release, the spin detector and `yield`, performed accesses, written
items (04 R81, R82, 09 R171, R179, 02 R26, R30, R35, 18 R309, 19 R313, R318, R321, 20 R354, 24 R402).
-/

namespace Sys2Proof.Machine

/-! ### ILLEGAL_INSTRUCTION (R82, R86, R440) -/

/-- A unit that does not decode traps in every group of its trick: all of the group's threads in the trick. -/
def State.decodeTrap (s : State) (cause : BitVec 16) (word : Word) : State :=
  let id := s.issue.id
  let s0 := { s with issue := { s.issue with trick := [] } }
  s.issue.trick.foldl (fun acc e =>
    acc.raise e.1 id ⟨cause, word.setWidth 64, e.2.map fun i =>
      ⟨i, s.issue.upc, { cause := cause, info := word.setWidth 64, flags := 1, word := word }⟩⟩) s0

/-! ### REP_REPETITION (R179) -/

/-- The threads of the trick that are still in it: not trapped and not parked in this repetition. -/
def State.stillIssuing (s : State) : List (Nat × List Nat) :=
  s.issue.trick.map fun e => (e.1, e.2.filter fun i => match s.thread? e.1 i with | some t => t.ready | none => false)
/-- Threads that stop at the stop point: halted, trapped or pre-empted (R78, R181). -/
def State.stopsHere (s : State) (gid tid : Nat) : Bool :=
  match s.group? gid with
  | some g => (match g.threads[tid]? with | some t => g.blocks t || !s.teamRuns g t | none => true)
  | none => true
/-- The end of repetition `rep`: counters rise; after the last the unit is complete. -/
def State.repRepetition (s : State) : State :=
  match s.issue.pfx.rep with
  | none => s
  | some p =>
    let r := s.issue.rep
    let trick := s.stillIssuing
    let s1 := trick.foldl (fun acc e => acc.modGroup e.1 fun g => g.modThreads e.2 fun t =>
      if t.repctr ≤ r then { t with repctr := r + 1 } else t) s
    if p.cnt.toNat + 1 ≤ r + 1 then
      State.repOver { s1 with issue := { s1.issue with trick := trick } }
    else
      let go := (trick.map fun e => (e.1, e.2.filter fun i => !s1.stopsHere e.1 i)).filter fun e => !e.2.isEmpty
      ({ s1 with issue := { s1.issue with rep := r + 1, trick := go } }).settle

/-! ### SPIN_FORCE and YIELD_EXPIRY (R30, R171) -/

def spinLimit : Nat := 4096
def State.clockTo (s : State) (core t : Nat) : State :=
  let c := s.core core
  s.setCore core { c with cycles := max c.cycles t }
def State.spinForce (s : State) (gid tid : Nat) : State :=
  match s.group? gid, s.thread? gid tid with
  | some g, some t =>
    if t.spin = 8 && t.forced.isNone && !t.exited then
      let due := t.lastIssue + spinLimit
      (s.clockTo g.coreNo due).modThread gid tid fun t => { t with forced := some due }
    else s
  | _, _ => s
def State.yieldExpiry (s : State) (gid tid : Nat) : State :=
  match s.group? gid, s.thread? gid tid with
  | some g, some t =>
    match t.yieldUntil with
    | some u => (s.clockTo g.coreNo u).modThread gid tid fun t => { t with yieldUntil := none }
    | none => s
  | _, _ => s

/-! ### Performed accesses (R309, R313, R402) -/

def State.access? (s : State) (gid tid seq : Nat) : Option Access :=
  (s.thread? gid tid).bind fun t => t.ops.find? fun a => a.seq == seq
/-- A store to a doorbell word (R402). -/
def State.isTail (s : State) (a : Access) : Bool :=
  a.op.isStore && (match a.place with | .phys pa => (s.doorbell? pa a.size).isSome | _ => false)
/-- STORE_ACK performs a store at its bank; starts, tail-pointer writes and peer stores have steps of their own. -/
def State.storeAck (s : State) (gid tid seq : Nat) : State :=
  match s.access? gid tid seq with
  | none => s
  | some a =>
    let near := match a.place with | .phys pa => !isAperture pa | .team _ _ _ => true | _ => false
    if a.op.isStore && near && !s.isTail a && a.guard.isNone then (s.performTrick gid tid seq).settle else s
/-- ACCESS_PERFORM performs a load, an atomic, an arm or a semaphore increment at its bank or unit. -/
def State.accessPerform (s : State) (gid tid seq : Nat) : State :=
  match s.access? gid tid seq with
  | none => s
  | some a =>
    let near := match a.place with | .phys _ | .team _ _ _ | .sync _ => true | _ => false
    if !a.op.isStore && near then (s.performTrick gid tid seq).settle else s
/-- TAIL_POINTER_WRITE: the bank writes the word and passes each value on, in the order in which it performs them, while the word is a doorbell
(R402, R414). -/
def State.tailWrite (s : State) (gid tid seq : Nat) : State :=
  match s.group? gid, s.access? gid tid seq with
  | some g, some a =>
    let l := s.together g a
    if !s.isTail a || !s.canTogether l || s.away g then s
    else
      let vals := l.filterMap fun e => (s.acc? e.2).bind fun o =>
        match o.op, o.place with
        | .store bs, .phys pa => ((s.doorbell? pa o.size).filter (·.live)).map fun d => (d.port, d.bus, (BitVec.ofNat 32 (leNat bs) : Word))
        | _, _ => none
      let s1 := s.performTrick gid tid seq
      ({ s1 with posted := s1.posted ++ vals }).settle
  | _, _ => s

/-! ### ITEM_WRITTEN (R35, R354) -/

/-- A post to a pigeonhole that is not written yet (R35): its thread and issue, its item, its access where the thread has gone on (none while it is
blocked), and whether what it must follow has been performed. -/
structure Posted where
  lane : Nat
  gid : Nat
  tid : Nat
  trick : Nat
  item : Dword
  seq : Option Nat
  free : Bool
  deriving DecidableEq, Repr
def State.postsOut (s : State) (lid h : Nat) : List Posted :=
  s.groups.flatMap fun g => g.tidsOf.flatMap fun e =>
    (e.2.ops.filterMap fun a => match a.op with
      | .item x => if a.place == .hole lid h then some ⟨e.2.lane, g.gid, e.1, a.trick, x, some a.seq, s.canPerform a⟩ else none
      | _ => none)
    ++ match e.2.status with
      | .blocked (.post k x trick) _ =>
        if g.lid == lid && k == h then [⟨e.2.lane, g.gid, e.1, trick, x, none, (s.waitsFor g e.1 e.2 (.hole lid h) (itemReq x trick)).isEmpty⟩] else []
      | _ => []
/-- Those that stand first in their trick, in ascending lane (R354). -/
def firstInTrick (l : List Posted) : List Posted := l.filter fun x => !(l.any fun y => y.trick == x.trick && y.lane < x.lane)
/-- A post's item has been written: its access is performed, or its blocked thread goes on. -/
def State.postDone (s : State) (x : Posted) : State :=
  match x.seq, s.group? x.gid with
  | some q, _ => s.performAcc x.gid x.tid q
  | none, some g => (s.modThread x.gid x.tid fun t => t.wakeUp (s.core g.coreNo).cycles).splitLate [(x.gid, x.tid)]
  | none, none => s
/-- One of the posts to a pigeonhole with room is written: which of several is free (DESIGN CHOICE, log 4). -/
def State.itemWritten (s : State) (lid h : Nat) : State :=
  let l := (firstInTrick (s.postsOut lid h)).filter Posted.free
  let pick := match l with
    | [x] => some x
    | _ => l[Config.pickItem s.choices l.length % l.length]?
  match pick, s.launch? lid with
  | some x, some k =>
    if k.holeRoom h then
      let s1 := { s with choices := s.choices + 1 }
      let s2 := s1.modLaunch lid fun l => l.setHole h { l.hole h with items := (l.hole h).items ++ [x.item] }
      (((s2.postDone x).giveItems lid h).dropGone).settle
    else s
  | _, _ => s

/-! ### One meaning per row -/

/-- REP_REPETITION (R179). -/
def execRepRepetition (s : State) : Out := .next s.repRepetition
/-- JOIN_RELEASE (R26). -/
def execJoinRelease (gid : Nat) (adr : BitVec 32) (s : State) : Out := .next (s.joinRelease gid adr).settle
/-- SPIN_FORCE (R30). -/
def execSpinForce (gid tid : Nat) (s : State) : Out := .next (s.spinForce gid tid)
/-- YIELD_EXPIRY (R171). -/
def execYieldExpiry (gid tid : Nat) (s : State) : Out := .next (s.yieldExpiry gid tid)
/-- STORE_ACK (R309). -/
def execStoreAck (gid tid seq : Nat) (s : State) : Out := .next (s.storeAck gid tid seq)
/-- ACCESS_PERFORM (R313). -/
def execAccessPerform (gid tid seq : Nat) (s : State) : Out := .next (s.accessPerform gid tid seq)
/-- TAIL_POINTER_WRITE (R402). -/
def execTailPointerWrite (gid tid seq : Nat) (s : State) : Out := .next (s.tailWrite gid tid seq)
/-- ITEM_WRITTEN (R35). -/
def execItemWritten (lid hole : Nat) (s : State) : Out := .next (s.itemWritten lid hole)
/-- ILLEGAL_INSTRUCTION (R81, R82). -/
def execIllegalInstruction (cause : BitVec 16) (word : BitVec 32) (s : State) : Out := .next (s.decodeTrap cause word)

end Sys2Proof.Machine
end

