-- ==== Sys2Proof/Machine/Tree.lean ====
section
/-!
DEFINITION. The peripheral tree: interrupts, translation for endpoints, page requests, endpoint and bridge requests, function
failures, hot-added devices, and the queue pair of a run (23 R403, R405, R406, 24 R409 to R416).
-/

namespace Sys2Proof.Machine

def State.func? (s : State) (rid : Nat) : Option Func := s.funcs.find? fun f => f.rid == rid
def State.modFunc (s : State) (rid : Nat) (f : Func → Func) : State :=
  { s with funcs := s.funcs.map fun x => if x.rid = rid then f x else x }
def State.answer (s : State) (a : Answer) : State := { s with answers := s.answers ++ [a] }

/-! ### Interrupts (R403) -/

def msixBase : Nat := 0xFEE0000000
/-- MSIX_INCREMENT: an increment of a semaphore, or a dropped message and a letter. -/
def State.msix (s : State) (adr : Dword) (data : Word) : State :=
  let o := adr.toNat - msixBase
  let die := o / 0x10000
  let off := o % 0x10000
  if adr.toNat < msixBase || 11 < die || off % 4 != 0 || 0x4000 ≤ off || data.toNat % 65536 = 0 || 65536 ≤ data.toNat then
    s.report 4 9 [adr.toNat, data.toNat]
  else (s.semAdd die (off / 4) (data.toNat % 65536)).settle

/-! ### Translation (R405, R415) -/

/-- The address space of a function's request: its PASID's binding, or its default. -/
def Func.spaceFor (f : Func) (pasid : Option Nat) : Option Nat :=
  match pasid with
  | some p => (f.pasids.find? fun e => e.1 == p).map (·.2)
  | none => f.dflt
/-- Leaf types that an endpoint may reach. -/
def endpointTypes : List Nat := [0, 4, 5]
/-- Does a place lie in the windows of a bridge's partner, which only copy engines reach (R411)? -/
def Place.beyond (p : Place) (s : State) : Bool :=
  match p with
  | .phys pa => (s.bridgeAt pa).isSome
  | _ => false
/-- The place of one untranslated access of an endpoint within a page. -/
def State.endpointAt (s : State) (asid va : Nat) (write : Bool) : Option Place :=
  match s.access asid 0 (BitVec.ofNat 64 va) endpointTypes (!write) write with
  | .ok p => if p.beyond s then none else some p
  | _ => none
/-- ATS_TRANSLATION_REQUEST: the page, its size, R and W, or no access; one with the execute or privileged bit is refused. -/
def State.atsRequest (s : State) (rid : Nat) (pasid : Option Nat) (va : Dword) (write privExec : Bool) : State :=
  match (s.func? rid).bind fun f => if f.failed || !f.enabled || !f.ats || privExec then none else f.spaceFor pasid with
  | none => s.answer (.unsupported rid)
  | some asid =>
    match s.translate asid va with
    | .leaf e off size =>
      let typ := (e.extractLsb' 5 3).toNat
      let w := e.getLsbD 3 && !(typ ≤ 1 && s.readOnly e.toNat)
      let need := if write then w else e.getLsbD 2
      match s.placeOf asid 0 e off with
      | .phys pa =>
        if endpointTypes.contains typ && need && s.exists (.phys pa) then s.answer (.translation rid (pa - off) size (e.getLsbD 2) w)
        else s.answer (.translation rid 0 0 false false)
      | _ => s.answer (.translation rid 0 0 false false)
    | _ => s.answer (.translation rid 0 0 false false)

/-! ### Page requests (R405, R406, R416) -/

/-- The body of a page letter, from offset 0x08. -/
def pageBody (va : Nat) (asid : Nat) (r w : Bool) (port rid grp result : Nat) (leaf : Dword) : List Byte :=
  leBytes 8 va ++ leBytes 2 asid ++ leBytes 1 ((if r then 1 else 0) + if w then 2 else 0) ++ leBytes 1 port ++ leBytes 2 rid
    ++ leBytes 2 grp ++ leBytes 1 result ++ leBytes 7 0 ++ leBytes 8 leaf.toNat ++ leBytes 24 0
def pageLimit : Nat := 512
/-- PAGE_REQUEST: a letter to the memory core, or Invalid Request at once. -/
def State.pageRequest (s : State) (rid : Nat) (pasid : Option Nat) (va : Dword) (r w : Bool) (grp : Nat) : State :=
  match s.func? rid with
  | none => s.answer (.unsupported rid)
  | some f =>
    match f.spaceFor pasid with
    | none => s.answer (.prg rid grp false)
    | some asid =>
      if f.failed || pageLimit ≤ f.groups.length then s.answer (.prg rid grp false)
      else
        (s.modFunc rid fun f => { f with groups := f.groups ++ [(pasid.getD 0, grp)] }).send 4 3 0x21
          (pageBody (va.toNat / pageSize * pageSize) asid r w f.port rid grp 0 0)
/-- The oldest letter of a box with a kind, and the box without it. -/
def takeLetter (kind : Nat) : List Letter → Option (Letter × List Letter)
  | [] => none
  | l :: r => if l.kind = kind then some (l, r) else (takeLetter kind r).map fun e => (e.1, l :: e.2)
def State.setBox (s : State) (src dst : Nat) (l : List Letter) : State := { s with letters := tset s.letters (boxNo src dst) l }
/-- Dies that a page of a space may stand on for an endpoint: the masks of the runs that use it (R465). -/
def State.spaceDies (s : State) (asid : Nat) : List Nat :=
  let ms := (s.runs.filter fun r => u16 r.cmd 0xE == asid).map fun r => (BitVec.ofNat 16 (u16 r.cmd 0x10) : BitVec 16)
  maskBits (ms.foldl (fun a b => a ||| b) 0) 12
/-- A leaf that an endpoint may use as it asked: of one of its types, and for a write one that is not read-only (R405, R415). -/
def State.endpointLeaf (s : State) (e : Dword) (w : Bool) : Bool :=
  let typ := (e.extractLsb' 5 3).toNat
  endpointTypes.contains typ && !(w && typ ≤ 1 && s.readOnly e.toNat)
/-- PAGE_REQUEST_SERVICE: the memory core maps or refuses the page of its oldest request and replies. -/
def State.pageService (s : State) : State :=
  match takeLetter 0x21 (s.box 4 3) with
  | none => s
  | some (l, rest) =>
    let va := le l.body 0 8
    let asid := le l.body 8 2
    let acc := le l.body 10 1
    let r := acc % 2 = 1
    let w := acc / 2 % 2 = 1
    let reply (s : State) (res : Nat) (leaf : Dword) : State :=
      (s.setBox 4 3 rest).send 3 4 0x22 (pageBody va asid r w (le l.body 11 1) (le l.body 12 2) (le l.body 14 2) res leaf)
    match s.servePage asid (va / pageSize) r w none (s.spaceDies asid) with
    | .mapped s1 e => if s1.endpointLeaf e w then reply s1 0 e else reply { s with frees := s.frees + 1 } 1 0
    | .refused => reply { s with frees := s.frees + 1 } 1 0
    | .waits => s
/-- PAGE_RESPONSE: the tree core answers the function. -/
def State.pageResponse (s : State) : State :=
  match takeLetter 0x22 (s.box 3 4) with
  | none => s
  | some (l, rest) =>
    let rid := le l.body 12 2
    let grp := le l.body 14 2
    let s1 := (s.setBox 3 4 rest).modFunc rid fun f =>
      { f with groups := match f.groups.find? fun e => e.2 == grp with | some e => f.groups.erase e | none => f.groups }
    s1.answer (.prg rid grp (le l.body 16 1 == 0))
/-- STOP_MARKER: a PASID's outstanding group indices are released. -/
def State.stopMarker (s : State) (rid pasid : Nat) : State :=
  s.modFunc rid fun f => { f with groups := f.groups.filter fun e => e.1 != pasid }

/-! ### Endpoint and bridge requests (R411, R415) -/

/-- Read at places; a read of a marked word is poisoned, and one-bit errors are corrected (R310, R415). -/
def State.deviceRead (s : State) (ps : List (Place × Nat)) : List Byte × Bool :=
  (ps.flatMap fun e => s.readPlace e.1 e.2, ps.any fun e => match e.1 with | .phys pa => s.badAt pa e.2 | _ => false)
def State.endpointPlaces (s : State) (f : Func) (r : EndpointRequest) : Option (List (Place × Nat)) :=
  let n := match r.data with | some bs => bs.length | none => r.len
  if r.translated then
    if !f.ats || (r.data.isSome && (s.readOnly r.adr.toNat || s.readOnly (r.adr.toNat + n - 1))) then none
    else
      match s.phys r.adr.toNat, s.phys (r.adr.toNat + n - 1) with
      | .scratch a, .scratch b => if a = b then some [(.phys r.adr.toNat, n)] else none
      | .far a, .far b => if a = b then some [(.phys r.adr.toNat, n)] else none
      | .expansion, .expansion => if Place.beyond (.phys r.adr.toNat) s then none else some [(.phys r.adr.toNat, n)]
      | _, _ => none
  else (f.spaceFor r.pasid).bind fun asid =>
    (cutPage r.adr.toNat n).mapM fun p => (s.endpointAt asid p.1 r.data.isSome).map fun q => (q, p.2)
/-- A refused request: Unsupported Request, and for a translated one a letter to the errors core (R415). -/
def State.refuseRequest (s : State) (r : EndpointRequest) : State :=
  (if r.translated then s.report 4 10 [r.rid, r.adr.toNat] else s).answer (.unsupported r.rid)
/-- ENDPOINT_REQUEST. A requester ID that is not of the port's bus range fails source validation, which AER tells (R408, R409). -/
def State.endpointRequest (s : State) (r : EndpointRequest) : State :=
  if r.rid / 8192 != r.port then (s.report 4 24 [r.rid, r.port]).answer (.unsupported r.rid)
  else match s.func? r.rid with
  | none => s.refuseRequest r
  | some f =>
    if f.failed || !f.enabled then s.refuseRequest r
    else if r.privExec then s.answer (.unsupported r.rid)
    else match s.endpointPlaces f r with
      | none => s.refuseRequest r
      | some ps =>
        match r.data with
        | some bs => (s.engWrite ps bs).settle
        | none =>
          let d := s.deviceRead ps
          let s1 := s.engMarks 0 ps
          (if d.2 then s1.report 4 11 [r.rid, r.adr.toNat] else s1).answer (.data r.rid d.1 d.2)

/-- BRIDGE_REQUEST: a window of the port, its permission and its space; a marked word is answered poisoned (DEDUCED, log 40). -/
def State.bridgeRequest (s : State) (port : Nat) (adr : Dword) (write : Bool) (bytes : List Byte) (len : Nat) : State :=
  let n := if write then bytes.length else len
  let bad (s : State) : State := ({ s with bridgeErrors := s.bridgeErrors + 1 }).answer (.bridge port none false)
  match (tget s.bridges port []).find? fun w => w.lo ≤ adr.toNat && adr.toNat + n ≤ w.lo + w.size with
  | none => bad s
  | some w =>
    let va := w.base + (adr.toNat - w.lo)
    if (write && !w.w) || (!write && !w.r) then bad s
    else if w.msix then
      (if write && n = 4 then s.msix (BitVec.ofNat 64 va) (BitVec.ofNat 32 (leNat bytes)) else bad s)
    else
      match (cutPage va n).mapM fun p => match s.access w.asid 0 (BitVec.ofNat 64 p.1) [0, 4] (!write) write with
          | .ok q => some (q, p.2)
          | _ => none with
      | none => bad s
      | some ps =>
        if write then (s.engWrite ps bytes).settle
        else
          let d := s.deviceRead ps
          let s1 := s.engMarks 0 ps
          (if d.2 then s1.report 4 11 [port, adr.toNat] else s1).answer (.bridge port (some d.1) d.2)

/-! ### Failures (R414) -/

/-- Fail the queues of a function: the status word, then the semaphore; its doorbells are doorbells no longer. -/
def State.failQueue (s : State) (code : Nat) (q : QueuePair) : State :=
  let s1 := match s.engPlaces q.asid q.die 0 (q.qrecord.toNat + 0x2C) 4 3 false with
    | .ok ps => s.engWrite ps (leBytes 4 code)
    | .error _ => s
  s1.semAdd q.die q.sem 0x40000000
/-- A device that is gone takes its expansion memory with it. -/
def State.withdraw (s : State) (rid : Nat) : State :=
  { s with expansion := s.expansion.map fun (e : Expansion) => if e.rid = rid then { e with present := false } else e }
/-- FUNCTION_FAILURE: an uncorrectable error, which AER reports (R408), a removal, or an invalidation without answer. The function answers no
invalidation any more (R416). -/
def State.failFunction (s0 : State) (rid code : Nat) : State :=
  let s := if code = 2 then s0.withdraw rid else s0
  match s.func? rid with
  | none => s
  | some f =>
    if f.failed then s
    else
      let s1 := (if code = 1 then s.report 4 24 [rid, code] else s).modFunc rid fun f => { f with failed := true, enabled := false }
      let s2 := (s1.queuePairs.filter fun q => q.rid == rid).foldl (fun acc q => acc.failQueue code q) s1
      let s3 := { s2 with
        dies := s2.dies.map fun (d : Nat × Die) => (d.1, { d.2 with proxy := d.2.proxy.map fun (b : Doorbell) =>
          if b.rid = rid then { b with live := false } else b })
        shootdowns := s2.shootdowns.map fun (d : Shootdown) => { d with awaiting := d.awaiting.filter fun x => x != rid } }
      s3.settle
/-- INVALIDATE_TIMEOUT: a function has not answered an ATS Invalidate Request for 10 ms. -/
def invalidateLimit : Nat := 10000000
def State.invalidateTimeout (s : State) (rid : Nat) : State :=
  match s.shootdowns.find? fun d => d.awaiting.contains rid with
  | none => s
  | some d => (s.atLeast (d.since + invalidateLimit)).failFunction rid 3

/-! ### Hot-added devices (R409, R410) -/

/-- Device classes with a driver, where the image that booted has the drivers: 1 NVMe, 2 NIC, 3 CXL Type-3 (the model's own codes, DESIGN CHOICE,
log 20). -/
def State.hasDriver (s : State) (cls : Nat) : Bool := s.boot.drivers && 1 ≤ cls && cls ≤ 3
/-- A function that a driver claims: it interrupts by MSI-X, and is one of at most 64 virtual functions of its physical function (R408, R410). -/
def functionLimit : Nat := 64
def State.claims (s : State) (d : Device) : Bool :=
  s.hasDriver d.cls && d.msix && (d.pf.isNone || (s.funcs.filter fun f => f.pf == d.pf && f.rid != d.rid).length < functionLimit)
def expansionUnit : Nat := 2 ^ 28
/-- Expansion memory of a size in units is placed above what is placed. -/
def State.placeExpansion (s : State) (rid units : Nat) : List Expansion :=
  s.expansion ++ [⟨s.expansion.foldl (fun n e => max n (e.base + e.size)) expansionBase, units * expansionUnit, rid, true⟩]
/-- HOT_ADD: a function in its port's bus range; a CXL device's memory is placed. A bridge port enumerates nothing: the windows of its partner
appear as expansion memory (R411). Without a boot no port runs (R455). -/
def State.hotAdd (s : State) (port : Nat) (d : Device) : State :=
  if !s.boot.booted || 8 ≤ port || d.rid / 8192 != port then s
  else if nth s.boot.rootPorts port 0 = 3 then (if 0 < d.units then { s with expansion := s.placeExpansion d.rid d.units } else s)
  else
    let on := s.claims d
    { s with funcs := s.funcs.filter (fun x => x.rid != d.rid) ++ [⟨d.rid, port, d.cls, d.pf, on, d.ats && on, [], if on then d.dflt else none, [], false⟩]
             expansion := if on && d.cls = 3 && 0 < d.units then s.placeExpansion d.rid d.units else s.expansion }

/-! ### A run's queue pair (R412) -/

/-- Pages of a new range: each from the die's scratchpad, mapped with R and W. -/
def State.mapRange (s : State) (asid die va : Nat) : Nat → Option State
  | 0 => some s
  | n + 1 =>
    match s.translate asid (BitVec.ofNat 64 va), s.freeFrame 0 die with
    | .notPresent, some f =>
      ((s.zeroFrame f).mapPage asid va (leafOf f 0 true true)).bind fun t => t.mapRange asid die (va + pageSize) n
    | _, _ => none
/-- The physical address of a mapped scratchpad word. -/
def State.scratchAt (s : State) (asid va : Nat) (write : Bool) : Option Nat :=
  match s.access asid 0 (BitVec.ofNat 64 va) [0] (!write) write with
  | .ok (.phys pa) => some pa
  | _ => none
def State.addDoorbell (s : State) (pa port rid : Nat) (bus : Dword) : Option State :=
  let d := s.die (homeDie pa)
  if 256 ≤ (d.proxy.filter (·.live)).length then none else some (s.setDie (homeDie pa) { d with proxy := d.proxy ++ [⟨pa, port, bus, rid, true⟩] })
/-- The queue record (R412). -/
def queueRecord (sq cq sqdb cqdb entries sqsize cqsize sem die : Nat) : List Byte :=
  leBytes 8 sq ++ leBytes 8 cq ++ leBytes 8 sqdb ++ leBytes 8 cqdb ++ leBytes 4 entries ++ leBytes 2 sqsize ++ leBytes 2 cqsize
    ++ leBytes 2 sem ++ leBytes 1 die ++ leBytes 1 0 ++ leBytes 4 0 ++ leBytes 16 0
/-- Does a run's command ask for a queue pair with values that R412 allows? -/
def pairOk (c : List Byte) : Bool :=
  let die := u8 c 0x2C
  die < 12 && u16 c 0x10 / 2 ^ die % 2 = 1 && u16 c 0x14 ≤ u16 c 0x2E && u16 c 0x2E < u16 c 0x14 + u16 c 0x16 && 1 ≤ u8 c 0x2A
    && u8 c 0x2A ≤ 16 && (u16 c 0x30 == 16 || u16 c 0x30 == 32 || u16 c 0x30 == 64) && (u16 c 0x32 == 16 || u16 c 0x32 == 32)
/-- QUEUE_PAIR_SETUP: rings, doorbells, the PASID and the record; none where a step fails. Virtual addresses, device registers and
the device's own answers are free (DESIGN CHOICE, log 10). -/
def State.setupPair (s : State) (r : Run) : Option State := do
  let c := r.cmd
  let rid := u16 c 0x28
  let asid := u16 c 0xE
  let die := u8 c 0x2C
  let f ← s.func? rid
  if f.failed || !f.enabled || f.cls = 3 || !pairOk c || !Config.queuePairOk s.frees then none
  let n := 2 ^ u8 c 0x2A
  let sqPages := (n * u16 c 0x30 + pageSize - 1) / pageSize
  let cqPages := (n * u16 c 0x32 + pageSize - 1) / pageSize
  let (x, s1) := s.draw
  let sq := x.toNat / pageSize * pageSize % 2 ^ 63
  let cq := sq + sqPages * pageSize
  let db := cq + cqPages * pageSize
  let s2 ← s1.mapRange asid die sq (sqPages + cqPages + 1)
  let sqdb ← s2.scratchAt asid db true
  let (b1, s3) := s2.draw
  let (b2, s4) := s3.draw
  let head := Config.hasHeadWord rid
  let s5 ← s4.addDoorbell sqdb f.port rid b1
  let s6 ← if head then s5.addDoorbell (sqdb + 64) f.port rid b2 else some s5
  let s7 := s6.modFunc rid fun f => { f with pasids := (f.pasids.filter fun e => e.1 != asid) ++ [(asid, asid)] }
  let q := u64 c 0x20
  let places ← match s7.engPlaces asid die 0 q 64 3 true with | .ok ps => some ps | .error _ => none
  let s8 := s7.engWrite places (queueRecord sq cq db (if head then db + 64 else 0) n (u16 c 0x30) (u16 c 0x32) (u16 c 0x2E) die)
  let pages := sqPages + cqPages + 1
  return { s8.pin (.pair r.inst) asid (sq / pageSize) pages with queuePairs := s8.queuePairs ++
    [⟨r.inst, rid, asid, BitVec.ofNat 64 q, u16 c 0x2E, die, if head then [sqdb, sqdb + 64] else [sqdb], sq / pageSize, pages⟩] }

/-! ### One meaning per row -/

/-- MSIX_INCREMENT (R403). -/
def execMsixIncrement (_port : Nat) (adr : BitVec 64) (data : BitVec 32) (s : State) : Out := .next (s.msix adr data)
/-- ATS_TRANSLATION_REQUEST (R405). -/
def execAtsTranslationRequest (rid : Nat) (pasid : Option Nat) (va : BitVec 64) (ask : AtsAsk) (s : State) : Out :=
  .next (s.atsRequest rid pasid va ask.write ask.privExec)
/-- PAGE_REQUEST (R405, R416). -/
def execPageRequest (rid : Nat) (pasid : Option Nat) (va : BitVec 64) (read write : Bool) (grp : Nat) (s : State) : Out :=
  .next (s.pageRequest rid pasid va read write grp)
/-- PAGE_REQUEST_SERVICE (R405, R465). -/
def execPageRequestService (s : State) : Out := .next s.pageService
/-- PAGE_RESPONSE (R405). -/
def execPageResponse (s : State) : Out := .next s.pageResponse
/-- STOP_MARKER (R416). -/
def execStopMarker (rid pasid : Nat) (s : State) : Out := .next (s.stopMarker rid pasid)
/-- ENDPOINT_REQUEST (R415). -/
def execEndpointRequest (r : EndpointRequest) (s : State) : Out := .next (s.endpointRequest r)
/-- BRIDGE_REQUEST (R411). -/
def execBridgeRequest (port : Nat) (adr : BitVec 64) (write : Bool) (bytes : List (BitVec 8)) (len : Nat) (s : State) : Out :=
  .next (s.bridgeRequest port adr write bytes len)
/-- FUNCTION_FAILURE (R414). -/
def execFunctionFailure (rid code : Nat) (s : State) : Out := .next (s.failFunction rid code)
/-- INVALIDATE_TIMEOUT (R416). -/
def execInvalidateTimeout (rid : Nat) (s : State) : Out := .next (s.invalidateTimeout rid)
/-- HOT_ADD (R409). -/
def execHotAdd (port rid cls : Nat) (offers : DeviceOffers) (units : Nat) (dflt : Option Nat) (s : State) : Out :=
  .next (s.hotAdd port ⟨rid, cls, offers.msix, offers.ats, units, dflt, offers.pf⟩)

end Sys2Proof.Machine
end

