-- ==== Sys2Proof/Machine/Fabric.lean ====
section
/-!
DEFINITION. The fabric: training, flits, link replay, keys, detours, end-to-end recovery, requests at their target under a grant token,
and responses at their source (22 R384 to R399, 20 R343).
-/

namespace Sys2Proof.Machine

/-! ### Ports (R384, R387 to R390) -/

/-- The network core and the boot and security core. -/
def networkCore : Nat := 5
def bootCore : Nat := 0
/-- A letter about a port: it comes from the tree core's side of the system die (DESIGN CHOICE, log 12). -/
def State.portLetter (s : State) (dst subject port : Nat) : State := s.send 4 dst (Config.letterKind subject) (leBytes 8 port)
/-- A port leaves service: its flits that are not acknowledged are dropped, and the network core is told (R387). Those that no end-to-end recovery
sends again, such as a credit, go by another port (DEDUCED, log 13). -/
def State.portOut (s : State) (p : Nat) : State :=
  let s1 := (s.setPort p { s.port p with trained := false, replay := [], retrain := true }).portLetter networkCore 22 p
  ((s.port p).replay.filter fun e => !e.body.recovers).foldl (fun acc e => acc.pushTo (p / 4) e.dest e.body) s1
/-- The port at the other end of a port of this module (R384). -/
def State.partnerPort (s : State) (p : Nat) : Nat :=
  let k := portsPerPeer s.boot.n
  k * (s.boot.n - 1 - (p / k + 1)) + p % k
/-- The failed state of a peer's pairs ends: a route is reported (R393). -/
def State.pairsBack (s : State) (peer : Nat) : State :=
  { s with pairs := s.pairs.map fun (e : Nat × Pair) => (e.1, if e.1 % 16 = peer then { e.2 with failed := false } else e.2) }
/-- This end's share in the training of a number: a point of the curve, signed with the device identity key (R388). -/
def ownShare (n : Nat) : List Byte :=
  match Point.times (Config.shareSecret n).toNat basePoint with
  | some (x, y) => beBytes 32 x ++ beBytes 32 y ++ beBytes 64 (Config.identitySign (beBytes 32 x ++ beBytes 32 y)).toNat
  | none => []
/-- The shared secret of a training with a module's share; none where that is no point or its signature does not verify (R388). -/
def sharedSecret (n partner : Nat) (share : List Byte) : Option Nat :=
  let at_ (o : Nat) : List Byte := (share.drop o).take 32
  let key := beBytes 64 (Config.identityKey partner).toNat
  if share.length = 128 && onCurve (beNat (at_ 0)) (beNat (at_ 32)) && ecdsaOk (key.take 32) (key.drop 32) (share.take 64) (at_ 64) (at_ 96) then
    (Point.times (Config.shareSecret n).toNat (some (beNat (at_ 0), beNat (at_ 32)))).map (·.1)
  else none
/-- LINK_TRAINING: the partner's module and port are checked, and the keys are agreed; a trained port has new keys, and its peer needs no detour.
Without a boot no port trains (R455). -/
def State.linkTraining (s : State) (p partner partnerPort : Nat) (share : List Byte) : State :=
  match s.portPeer p with
  | none => s
  | some j =>
    if !s.boot.booted then s
    else if partner != j || partnerPort != s.partnerPort p then s.portOut p
    else match sharedSecret s.fresh j share with
      | none => (s.bump.answer (.share p (ownShare s.fresh))).portOut p
      | some k =>
        let s1 := (s.bump.answer (.share p (ownShare s.fresh))).setPort p { Port.reset with trained := true, secret := k }
        ({ s1.pairsBack j with detours := tdel s1.detours j } : State).drainFabric

/-- An acknowledgement of every flit up to a sequence number. -/
def Port.acked (p : Port) (seq : BitVec 12) : Port :=
  if p.replay.any fun e => e.seq == seq then { p with replay := (p.replay.dropWhile fun e => e.seq != seq).drop 1 } else p
/-- The flit of a sequence number and every later one are sent again, each under a new count. -/
def State.sendAgain (s : State) (p : Nat) (seq : BitVec 12) : State :=
  ((s.port p).replay.dropWhile fun e => e.seq != seq).foldl (fun acc e => acc.emit p 0 e.seq e.body) s
def State.replayRequest (s : State) (p : Nat) (seq : BitVec 12) : State := if (s.port p).trained then s.sendAgain p seq else s

/-- A flit's link header and its 128 bytes (R386). The body is sealed by AES-GCM-256 under the port's key and nonce, with the header in clear and
authenticated, and its tag is cut to 96 bits (R388). -/
def Flit.header (f : Flit) : List Byte := leBytes 8 (f.seq.toNat * 2 ^ 52 + f.ack.toNat * 2 ^ 40 + f.kind.toNat * 2 ^ 36)
def FlitBody.bytes : FlitBody → List Byte
  | .relayed bs => bs
  | .request r => Config.requestBody r
  | .response d q r => Config.responseBody d q r
  | .control => []
/-- The round keys of a direction of a port in a key generation. -/
def directionKeys (secret module port : Nat) (gen : BitVec 16) : List (List Byte) := roundKeys (beBytes 32 (Config.portKey secret module port gen).toNat)
def tagBytes : Nat := 12
def Flit.bytes (f : Flit) : List Byte :=
  let keys := directionKeys f.secret (f.nonce.extractLsb' 92 4).toNat (f.nonce.extractLsb' 80 8).toNat (f.nonce.extractLsb' 64 16)
  let nonce := beBytes 12 f.nonce.toNat
  let text := gcmCrypt keys nonce (sized 104 f.body.bytes)
  let x := f.header ++ text ++ (gcmTag keys nonce f.header text).take tagBytes
  x ++ leBytes 4 (crc32c x).toNat

/-- The fields of a link header (R386). -/
def flitSeq (f : List Byte) : BitVec 12 := BitVec.ofNat 12 (fieldOf (le f 0 8) 52 12)
def flitAck (f : List Byte) : BitVec 12 := BitVec.ofNat 12 (fieldOf (le f 0 8) 40 12)
def flitKind (f : List Byte) : Nat := fieldOf (le f 0 8) 36 4
def crcOk (f : List Byte) : Bool := (crc32c (f.take 124)).toNat == le f 124 4
/-- The nonce of the flit that a port receives now: the partner's position, this module's, the partner's port, its generation and the flits that have
come under it (R388). -/
def State.comingNonce (s : State) (p : Nat) : BitVec 96 :=
  BitVec.ofNat 4 ((s.portPeer p).getD 0) ++ BitVec.ofNat 4 s.boot.position ++ BitVec.ofNat 8 (s.partnerPort p) ++ (s.port p).rxGen
    ++ BitVec.ofNat 64 (s.port p).rxCount
/-- The body of a flit whose tag is right (R386, R388). -/
def State.openFlit (s : State) (p : Nat) (f : List Byte) : Option (List Byte) :=
  let keys := directionKeys (s.port p).secret ((s.portPeer p).getD 0) (s.partnerPort p) (s.port p).rxGen
  let nonce := beBytes 12 (s.comingNonce p).toNat
  let text := (f.drop 8).take 104
  if (gcmTag keys nonce (f.take 8) text).take tagBytes == (f.drop 112).take tagBytes then some (gcmCrypt keys nonce text) else none

/-- A tag failure: the sixteenth within 1 ms takes the port out. -/
def tagWindow : Nat := 1000000
def State.tagFailure (s : State) (p : Nat) : State :=
  let x := s.port p
  let l := (x.tagFails.filter fun t => s.now < t + tagWindow) ++ [s.now]
  let s1 := s.setPort p { x with tagFails := l }
  if 16 ≤ l.length then s1.portOut p else s1
/-- The kinds of control flit. -/
def kindReplay : BitVec 4 := 1
def kindIdle : BitVec 4 := 2
def kindSwitch : BitVec 4 := 3
/-- What a body for this module completes: a request or a response, which then arrives (R386, DESIGN CHOICE, log 21). -/
def State.takeBody (s : State) (body : List Byte) : State :=
  let s1 := match Config.bodyRequest body with | some r => { s with arrived := s.arrived ++ [r] } | none => s
  match Config.bodyResponse body with | some r => { s1 with answered := s1.answered ++ [r] } | none => s1
/-- A data flit that came in order: a relay forwards one that is for another module by a direct port of its own, with its body as it was,
or drops and counts it (R390); of one for this module the request or response arrives. -/
def State.relay (s : State) (p : Nat) (body : List Byte) : State :=
  match (Config.relayTarget body).filter fun j => j != s.boot.position with
  | none => s.takeBody body
  | some j => s.pushTo (p / 4) j (.relayed body)
/-- What a good flit does: its acknowledgement, then by kind. A data flit that is not the next in order is not taken: the replay of the one
before it brings it again. An idle flit acknowledges a data flit at once, and a reserved kind does nothing (DESIGN CHOICE, log 21). -/
def State.takeFlit (s : State) (p : Nat) (f body : List Byte) : State :=
  let y := (s.port p).acked (flitAck f)
  let s1 := s.setPort p y
  match flitKind f with
  | 0 =>
    if flitSeq f = y.rxSeq then ((s.setPort p { y with rxSeq := y.rxSeq + 1 }).emit p kindIdle 0 .control).relay p body
    else s1.emit p kindIdle 0 .control
  | 1 => s1.sendAgain p (flitSeq f)
  | 3 => s.setPort p { y with rxGen := y.rxGen + 1, rxCount := 0 }
  | _ => s1
/-- FLIT_RECEIVE: a flit whose CRC or tag fails is discarded and a replay request that names its sequence number is sent. -/
def State.flitReceive (s : State) (p : Nat) (f : List Byte) : State :=
  let x := s.port p
  if !x.trained || f.length != 128 then s
  else
    let s1 := s.setPort p { x with rxCount := x.rxCount + 1 }
    if !crcOk f then s1.emit p kindReplay (flitSeq f) .control
    else match s.openFlit p f with
      | none => (s1.emit p kindReplay (flitSeq f) .control).tagFailure p
      | some body => (s1.takeFlit p f body).drainFabric

/-- LINK_REPLAY_TIMEOUT: the oldest flit is unacknowledged 50 us after its first send. -/
def replayLimit : Nat := 50000
def State.replayTimeout (s : State) (p : Nat) : State :=
  let x := s.port p
  match x.replay with
  | [] => s
  | e :: _ => if x.trained then (s.atLeast (e.first + replayLimit)).portOut p else s

/-- KEY_EXHAUSTED: the last count has been sent. Before that a port may switch to the next generation, while its 16 bits have one that no key has had:
the switch flit is the last under the old key (R388, R389) (DESIGN CHOICE, log 21: when is the part's own matter). -/
def State.keySwitch (s : State) (p : Nat) : State :=
  let s1 := s.emit p kindSwitch 0 .control
  s1.setPort p { s1.port p with gen := (s1.port p).gen + 1, count := 0 }
def State.keyExhausted (s : State) (p : Nat) : State :=
  let x := s.port p
  if !x.trained then s
  else if lastCount < x.count then (s.portOut p).portLetter bootCore 23 p
  else if x.gen = 0xFFFF then s
  else s.keySwitch p

/-- DETOUR_INSTALL: the lowest relay with both links in service; `onward` names the modules whose links to the peer are. -/
def State.relayFor (s : State) (peer : Nat) (onward : BitVec 16) : Option Nat :=
  (List.range s.boot.n).find? fun r => r != s.boot.position && r != peer && !(s.portsTo r).isEmpty && onward.getLsbD r
def State.detourInstall (s : State) (peer : Nat) (onward : BitVec 16) : State :=
  if peer = s.boot.position || s.boot.n ≤ peer || !(s.portsTo peer).isEmpty then s
  else match s.relayFor peer onward with
    | some r => ({ s.pairsBack peer with detours := tset s.detours peer r } : State).drainFabric
    | none => s

/-! ### Responses (R343, R391, R392) -/

/-- Does an operation take this response? -/
def AccOp.takes (o : AccOp) (r : PeerResponse) : Bool :=
  match r, o with
  | .reject _, _ => true
  | .marked, .load _ _ => true
  | .marked, .atom _ _ _ _ => true
  | .marked, .cas _ _ _ _ => true
  | .data _, .load _ _ => true
  | .data _, .atom _ _ _ _ => true
  | .data _, .cas _ _ _ _ => true
  | .ack, .store _ => true
  | .ack, .arm => true
  | _, _ => false

/-- The token index that a peer access named. -/
def Access.token (a : Access) : Dword :=
  match a.place with
  | .peer _ i _ _ => BitVec.ofNat 64 i
  | _ => 0
/-- The trap of a rejected access, and of marked data (R343, R398). -/
def State.peerTrap (s : State) (g : Group) (tid : Nat) (a : Access) (reason : Option (BitVec 8)) : TrapInfo :=
  let w := s.faultWord g tid
  match reason with
  | some r => { cause := 0x0046, info := a.va, reason := r, flags := 1, word := w, address := a.va, detailA := a.token }
  | none => { cause := 0x0045, info := a.va, flags := 1, word := w, address := a.va }
/-- The peer access of a unit that a thread waits for, and whether its response has come. -/
def Thread.waitsOn (t : Thread) (trick : Nat) : Option (Access × Bool) :=
  match t.status with
  | .access q _ => (t.ops.find? fun a => a.seq == q && a.trick == trick && a.place.isPeer).map fun a => (a, a.reply.isSome)
  | _ => none
/-- A performed peer access takes effect at its thread (R343, R345). -/
def State.peerDone (s : State) (g : Group) (tid : Nat) (a : Access) : State :=
  let now := (s.core g.coreNo).cycles
  match a.reply, a.op with
  | some (.got ws), .load d _ => s.deliver g tid a d ws
  | some (.got ws), .atom d _ _ _ => (s.deliver g tid a d ws).modThread g.gid tid fun u => { u with spin := 0 }
  | some (.got ws), .cas d ty o _ =>
    let s1 := s.deliver g tid a d ws
    if ws = valWords ty o then s1.modThread g.gid tid fun u => { u with spin := 0 } else s1
  | some (.armed pr q), .arm => (s.modThread g.gid tid fun u =>
      { (u.dropOp a.seq).release a.seq now with monitor := some ⟨a.place, a.woken, some (pr, q)⟩ }).tidyArms
  | _, _ => s.modThread g.gid tid fun u => { (u.dropOp a.seq).release a.seq now with unacked := u.unacked - 1 }
/-- Once every response of a unit has come in a group, the unit takes effect there; with a rejection among them it has none, and its executing
threads trap together (R343, R347). -/
def State.peerUnit (s : State) (gid trick : Nat) : State :=
  match s.group? gid with
  | none => s
  | some g =>
    let l := g.tidsOf.filterMap fun e => (e.2.waitsOn trick).map fun x => (e.1, e.2, x)
    if l.isEmpty || l.any fun e => !e.2.2.2 then s
    else
      let errs := l.filterMap fun e => match e.2.2.1.reply with | some (.rejected r) => some (e.1, r) | _ => none
      match errs with
      | [] => (l.foldl (fun acc e => acc.peerDone g e.1 e.2.2.1) s).splitLoads trick
          ((l.filter fun e => e.2.2.1.reads).map fun e => (gid, e.1, true))
      | errs => s.undoUnit gid trick errs

/-- A thread's access gets its response. A store that a discarded region had sent on is over with it, whatever it says: its thread waits for it
no more (R324, R447). -/
def State.peerAnswer (s : State) (g : Group) (tid : Nat) (a : Access) (pr : Nat) (rseq : Word) (r : PeerResponse) : State :=
  let reply : Reply := match r, a.op with
    | .reject n, _ => .rejected (s.peerTrap g tid a (some n))
    | .marked, _ => .rejected (s.peerTrap g tid a none)
    | .data bs, .load _ ty => .got (loadWords ty bs)
    | .data bs, .atom _ _ ty _ | .data bs, .cas _ ty _ _ => .got (valWords ty (BitVec.ofNat 64 (leNat bs)))
    | _, .arm => .armed pr rseq
    | _, _ => .got []
  if ((s.thread? g.gid tid).bind fun t => t.waitsOn a.trick).isNone then
    (s.modThread g.gid tid fun u => { u.dropOp a.seq with unacked := if a.op.isStore then u.unacked - 1 else u.unacked }).freed
  else
    ((s.modThread g.gid tid fun u =>
      { u with ops := u.ops.map fun o => if o.seq = a.seq then { o with reply := some reply } else o }).peerUnit g.gid a.trick).freed

/-- A copy gets a response: its source's bytes, or the acknowledgement of a write, or why it stops (R372, R373, R398). -/
def State.copyAnswer (s : State) (die chan cid : Nat) (r : PeerResponse) : State :=
  let asked := (s.copy? die chan cid).bind fun c => c.ask
  let s1 := s.modCopy die chan cid fun c => { c with outstanding := c.outstanding - 1, ask := none }
  let fail (n : Nat) : State := match s1.copy? die chan cid with
    | none => s1
    | some c => match c.phase with
      | .reading | .payload 0 => s1.stopCopy die chan cid n
      | .record 0 => s1.modCopy die chan cid fun c => { c with phase := .record (BitVec.ofNat 8 n), toSend := [] }
      | .mark st => s1.modCopy die chan cid fun c => { c with phase := .mark (markStatus st n), toSend := [] }
      | _ => s1
  match r, asked with
  | .reject _, _ => fail 2
  | .marked, _ => fail 5
  | .data bs, some (va, _) => (s1.modCopy die chan cid fun c => { c with got := c.got ++ [(va, bs)] }).moveCopy die chan cid
  | _, _ => (s1.copyPump die chan cid)

/-- A dealer gets the response to the read that it waits for; one to a read that an earlier program left is dropped (R382). -/
def State.dealerAnswer (s : State) (core ask : Nat) (r : PeerResponse) : State :=
  let d := (s.core core).dealer
  match d.running, d.asked.filter fun e => e.2 == ask, r with
  | true, some (va, _), .data bs => s.setDealer core { d with asked := none, got := d.got ++ [(va, bs)] }
  | true, some _, .reject _ => s.dealerFault core 4
  | true, some _, .marked => s.dealerFault core 5
  | _, _, _ => s

/-- A message's request is answered: it has been delivered (R399). -/
def State.messageAnswer (s : State) (peer : Nat) (m : Msg) : State :=
  { s with messagesOut := s.messagesOut.eraseP fun e => e.module == peer && e.m == m }
/-- A die of a peer returns a message credit: the message has left its queue (R42, R394). -/
def State.creditBack (s : State) (peer die : Nat) : State :=
  let k := 16 * peer + die
  { s with credits := tset s.credits k (tget s.credits k 0 - 1) }

/-- Who waits gets the response. -/
def State.deliverTo (s : State) (w : Waiter) (pr peer : Nat) (rseq : Word) (r : PeerResponse) : State :=
  match w with
  | .thread gid tid seq =>
    match s.group? gid, s.access? gid tid seq with
    | some g, some a => s.peerAnswer g tid a pr rseq r
    | _, _ => s
  | .copy die chan cid => s.copyAnswer die chan cid r
  | .dealer core ask => s.dealerAnswer core ask r
  | .message m => s.messageAnswer peer m
/-- A response of a kind that the request does not have is no response to it. -/
def State.fitsWaiter (s : State) (w : Waiter) (r : PeerResponse) : Bool :=
  match w with
  | .thread gid tid seq => match s.access? gid tid seq with
    | some a => a.op.takes r
    | none => true
  | .copy die chan cid => match s.copy? die chan cid, r with
    | _, .reject _ => true
    | some c, .data _ => c.ask.isSome
    | some c, .marked => c.ask.isSome
    | some c, .ack => c.ask.isNone
    | none, _ => true
    | _, _ => false
  | .dealer _ _ => (match r with | .data _ | .reject _ | .marked => true | _ => false)
  | .message _ => r == .ack

/-- Is an access the arm of a pair's request, whose unit is not complete? Its acknowledgement may still be out. -/
def State.armOf (s : State) (pr : Nat) (seq : Word) (gid tid : Nat) (a : Access) : Bool :=
  a.op == .arm && (a.reply == some (.armed pr seq)
    || ((tget s.pairs pr Pair.reset).out.any fun o => o.seq == seq && o.waiter == .thread gid tid a.seq))
/-- A peer's word that wakes an arm (R318, R348): the armed thread's monitor sees it, or the arm that is still on its way. -/
def State.peerWake (s : State) (pr : Nat) (seq : Word) : State :=
  let armed (t : Thread) : Bool := match t.monitor with | some m => m.remote == some (pr, seq) | none => false
  let done := s.groups.flatMap fun g => (g.tidsOf.filter fun e => armed e.2 && e.2.inMwait).map fun e => (g.gid, e.1)
  let seen (g : Group) (i : Nat) (t : Thread) : Thread :=
    if armed t then t.monitorHit (s.core g.coreNo).cycles
    else { t with ops := t.ops.map fun a => if s.armOf pr seq g.gid i a then { a with woken := true } else a }
  let gs := s.groups.map fun g => { g with threads := g.threads.mapIdx (seen g) }
  ({ s with groups := gs } : State).splitLate done

/-- RESPONSE_ARRIVE: the first response to a request ends it; a later one, or one for a request that has failed, is dropped. -/
def State.responseArrive (s : State) (die peer : Nat) (seq : Word) (r : PeerResponse) : State :=
  match r with
  | .wake => (s.peerWake (pairNo die peer) seq).settle
  | .credit d => (s.creditBack peer d).settle
  | _ =>
    let p := s.pair die peer
    match p.out.find? fun o => o.seq == seq with
    | none => s
    | some o =>
      if !s.fitsWaiter o.waiter r then s
      else
        let s1 := s.setPair die peer { p with out := p.out.filter fun x => x.seq != seq }
        ((s1.deliverTo o.waiter (pairNo die peer) peer seq r).sendPeers).settle

/-! ### Resends and failed pairs (R391, R393) -/

def noResponse : BitVec 8 := 9
/-- The network core may set the timer from 20 us to 10 ms (R391, DESIGN CHOICE, log 21). -/
def State.setResend (s : State) : State :=
  { s with
    resendAfter := match Config.resendSetting s.choices with | some n => 20000 + n % 9980001 | none => s.resendAfter
    choices := s.choices + 1 }
/-- REQUEST_RESEND: the timer of a request expires; after its eighth send the pair has failed. -/
def State.requestResend (s0 : State) (die peer : Nat) (seq : Word) : State :=
  let p := s0.pair die peer
  let s : State := match p.out.find? fun o => o.seq == seq with
    | some o => s0.setResend.atLeast (o.last + s0.setResend.resendAfter)
    | none => s0
  match p.out.find? fun o => o.seq == seq with
  | none => s
  | some o =>
    if o.sends < 8 then
      (s.setPair die peer { p with out := p.out.map fun x => if x.seq = seq then { x with sends := x.sends + 1, last := s.now } else x }).pushTo die peer (.request o.req)
    else
      let s1 := s.setPair die peer { p with out := p.out.filter fun x => x.seq != seq, failed := true }
      let s2 := if p.failed then s1 else s1.report 5 6 [die, peer]
      ((s2.deliverTo o.waiter (pairNo die peer) peer seq (.reject noResponse)).sendPeers).settle

/-! ### Grant tokens (R395 to R398) -/

/-- SipHash-2-4 of an 8-byte string. -/
structure Sip where
  a : Dword
  b : Dword
  c : Dword
  d : Dword
  deriving DecidableEq, Repr
def Sip.round (v : Sip) : Sip :=
  let a := v.a + v.b
  let b := v.b.rotateLeft 13 ^^^ a
  let a := a.rotateLeft 32
  let c := v.c + v.d
  let d := v.d.rotateLeft 16 ^^^ c
  let a := a + d
  let d := d.rotateLeft 21 ^^^ a
  let c := c + b
  let b := b.rotateLeft 17 ^^^ c
  ⟨a, b, c.rotateLeft 32, d⟩
def Sip.word (v : Sip) (m : Dword) : Sip :=
  let w := ({ v with d := v.d ^^^ m } : Sip).round.round
  { w with a := w.a ^^^ m }
def sipHash24 (key : BitVec 128) (m : Dword) : Dword :=
  let k0 : Dword := key.setWidth 64
  let k1 : Dword := key.extractLsb' 64 64
  let v : Sip := ⟨k0 ^^^ 0x736F6D6570736575, k1 ^^^ 0x646F72616E646F6D, k0 ^^^ 0x6C7967656E657261, k1 ^^^ 0x7465646279746573⟩
  let w := (v.word m).word (8 <<< 56)
  let x := ({ w with c := w.c ^^^ 0xFF } : Sip).round.round.round.round
  x.a ^^^ x.b ^^^ x.c ^^^ x.d

/-- The message that a token's code covers (R395). -/
def tokenMsg (tk : Dword) (src dst : Nat) : Dword := BitVec.ofNat 64 (tk.toNat % 2 ^ 40 + 2 ^ 40 * src + 2 ^ 44 * dst)
/-- The right that a request needs (R398). -/
def peerRight (o : PeerOp) : Nat :=
  match o with
  | .load => 0
  | .store _ => 1
  | .atom _ _ _ | .cas _ _ => 2
  | .arm => 3
  | .message _ => 8
def peerReads (o : PeerOp) : Bool :=
  match o with
  | .store _ => false
  | _ => true
def peerWrites (o : PeerOp) : Bool :=
  match o with
  | .store _ | .atom _ _ _ | .cas _ _ => true
  | _ => false

/-- Cut a run of any length at its page boundaries. -/
def cutRun : Nat → Nat → Nat → List (Nat × Nat)
  | 0, _, _ => []
  | k + 1, va, n =>
    let room := 65536 - va % 65536
    if n = 0 then [] else if n ≤ room then [(va, n)] else (va, room) :: cutRun k ((va + room) % 2 ^ 64) (n - room)
def cutPages (va n : Nat) : List (Nat × Nat) := cutRun (n / 65536 + 2) (va % 2 ^ 64) n
/-- The places of a granted run, on scratchpad leaves with the permission that the request needs. -/
def State.windowPlaces (s : State) (asid va : Nat) (r : PeerRequest) : Option (List (Nat × Nat)) :=
  (cutPages va r.len).mapM fun p =>
    match s.access asid 0 (BitVec.ofNat 64 p.1) [0] (peerReads r.op) (peerWrites r.op) with
    | .ok (.phys pa) => some (pa, p.2)
    | _ => none
/-- INGRESS_CHECK: the reason of the first failure, or the places of the request (R397). -/
def State.ingress (s : State) (r : PeerRequest) : Except (BitVec 8) (List (Nat × Nat)) :=
  let tk := r.token
  let idx := tk.toNat % 2 ^ 20
  let w : BitVec 128 := tget s.windows idx 0
  let exp := fieldOf tk.toNat 20 12
  let rights := fieldOf tk.toNat 32 8 &&& fieldOf w.toNat 115 8
  if (sipHash24 (Config.tokenKey s.boot.keyDraw r.srcModule) (tokenMsg tk r.srcModule s.boot.position)).toNat % 2 ^ 24 != fieldOf tk.toNat 40 24 then .error 1
  else if 16384 ≤ idx || !w.getLsbD 127 then .error 2
  else if fieldOf w.toNat 123 4 != r.srcModule then .error 3
  else if exp != 0xFFF && exp ≤ (fieldOf s.tokenClock 24 28 + 2 ^ 28 - fieldOf w.toNat 75 28) % 2 ^ 28 then .error 4
  else if rights / 2 ^ (peerRight r.op) % 2 = 0 then .error 5
  else if fieldOf w.toNat 48 27 * 65536 < r.offset + r.len then .error 6
  else match s.windowPlaces (fieldOf w.toNat 103 12) (fieldOf w.toNat 0 48 * 65536 + r.offset) r with
    | none => .error 7
    | some l => .ok l

/-! ### Requests at the target (R391, R392) -/

/-- One-bit errors of what a request reads are corrected (R310). -/
def State.scrubAll (s : State) (l : List (Nat × Nat)) : State := l.foldl (fun a e => a.scrub e.1 e.2) s
/-- Perform a request whose places are known: its response, and the state after. -/
def State.peerPerform (s : State) (r : PeerRequest) (l : List (Nat × Nat)) : PeerResponse × State :=
  let bs := l.flatMap fun e => s.physRead e.1 e.2
  let bad := l.any fun e => s.badAt e.1 e.2
  let ps : List (Place × Nat) := l.map fun e => (.phys e.1, e.2)
  let old : Dword := BitVec.ofNat 64 (leNat bs)
  match r.op with
  | .load => (if bad then .marked else .data bs, s.scrubAll l)
  | .store b => (.ack, s.engWrite ps (b.take r.len))
  | .atom v ty b => if bad then (.marked, s) else (.data bs, (s.scrubAll l).engWrite ps (leBytes r.len (atomNew v.toNat ty old b).toNat))
  | .cas o n =>
    let t := s.scrubAll l
    if bad then (.marked, s)
    else (.data bs, if old = o then t.engWrite ps (leBytes r.len n.toNat) else ps.foldl (fun a e => a.wake e.1 e.2) t)
  | .arm =>
    match l with
    | (pa, _) :: _ => (.ack, s.armTable ⟨bankNo pa, .peer r.srcModule r.srcDie r.seq pa⟩)
    | [] => (.ack, s)
  | .message m => (.ack, { s with messagesOut := s.messagesOut ++ [⟨s.boot.position, 0, 0, m⟩] })
/-- Check and perform: a message carries no token (R399). -/
def State.peerRequest (s : State) (r : PeerRequest) : PeerResponse × State :=
  match r.op with
  | .message _ => s.peerPerform r []
  | _ => match s.ingress r with
    | .error n => (.reject n, s)
    | .ok l => s.peerPerform r l

def targetNo (module die : Nat) : Nat := 16 * module + die
def State.target (s : State) (module die : Nat) : TargetPair := tget s.targets (targetNo module die) TargetPair.reset
def State.setTarget (s : State) (module die : Nat) (t : TargetPair) : State :=
  { s with targets := tset s.targets (targetNo module die) t }

/-- The die from which a request's response leaves: a message's target, else the die of the window's first byte. -/
def State.homeOf (s : State) (r : PeerRequest) : Nat :=
  match r.op with
  | .message m => m.die
  | _ => match s.ingress r with | .ok ((pa, _) :: _) => homeDie pa | _ => 0
/-- Perform a request that is the next of its pair; its response is kept and sent. -/
def State.performNext (s : State) (r : PeerRequest) : State :=
  let x := s.peerRequest r
  let t := x.2.target r.srcModule r.srcDie
  (x.2.setTarget r.srcModule r.srcDie { t with done := r.seq, kept := t.kept ++ [(r.seq, x.1)], held := t.held.filter fun h => h.seq != r.seq }).pushTo
    (x.2.homeOf r) r.srcModule (.response r.srcDie r.seq x.1)
/-- Held requests that are next now. -/
def State.performHeld (s : State) (module die : Nat) : Nat → State
  | 0 => s
  | fuel + 1 =>
    let t := s.target module die
    match t.held.find? fun h => h.seq == t.done + 1 with
    | some r => (s.performNext r).performHeld module die fuel
    | none => s
/-- How far a sequence number lies after another. -/
def ahead (a b : Word) : Nat := (a - b).toNat
def pairWindow : Nat := 1024
/-- REQUEST_ARRIVE: a request is performed once, in the order of its pair; one already performed gets its kept response again, and one
outside the window is dropped. -/
def State.requestArrive (s : State) (r : PeerRequest) : State :=
  if r.srcModule = s.boot.position || s.boot.n ≤ r.srcModule || 12 ≤ r.srcDie then s
  else
    let t0 := s.target r.srcModule r.srcDie
    let t := { t0 with kept := t0.kept.filter fun k => ahead r.acked k.1 ≥ 2 ^ 31 }
    let s1 := s.setTarget r.srcModule r.srcDie t
    let n := ahead r.seq t.done
    if n = 1 then ((s1.performNext r).performHeld r.srcModule r.srcDie t.held.length).settle
    else if n = 0 || 2 ^ 31 ≤ n then
      match t.kept.find? fun k => k.1 == r.seq with
      | some k => s1.pushTo (s1.homeOf r) r.srcModule (.response r.srcDie r.seq k.2)
      | none => s1
    else if pairWindow < n || t.held.any fun h => h.seq == r.seq then s1
    else s1.setTarget r.srcModule r.srcDie { t with held := t.held ++ [r] }

/-! ### Windows (R396) -/

/-- The epoch of an entry that is opened is the token clock's. -/
def stampEpoch (e : BitVec 128) (clock : Nat) : BitVec 128 :=
  e - ((e >>> 75) &&& 0xFFFFFFF) <<< 75 + (BitVec.ofNat 128 (fieldOf clock 24 28)) <<< 75
/-- WINDOW_CHANGE: the memory core writes an entry. It maps and pins every page of a window that it opens, and opens none whose pages it cannot map;
those of the entry before are pinned by it no more. -/
def State.windowChange (s : State) (i : Nat) (e : BitVec 128) : State :=
  if 16384 ≤ i then s
  else
    let asid := fieldOf e.toNat 103 12
    let page := fieldOf e.toNat 0 48
    let n := fieldOf e.toNat 48 27
    let s0 := s.unpin (.window i)
    if !e.getLsbD 127 then { s0 with windows := tset s0.windows i e }
    else match s0.servePages asid page true false n with
      | some s1 => { s1.pin (.window i) asid page n with windows := tset s1.windows i (stampEpoch e s1.tokenClock) }
      | none => { s with frees := s.frees + 1 }

/-! ### One meaning per row -/

/-- LINK_TRAINING (R384, R388). -/
def execLinkTraining (port partner : Nat) (partnerPort : PortShare) (s : State) : Out :=
  .next (s.linkTraining port partner partnerPort.port partnerPort.share)
/-- FLIT_RECEIVE (R386, R387): the link header of 8 bytes, and the rest of the flit. -/
def execFlitReceive (port : Nat) (header rest : List (BitVec 8)) (s : State) : Out := .next (s.flitReceive port (header ++ rest))
/-- REPLAY_REQUEST (R387). -/
def execReplayRequest (port seq : Nat) (s : State) : Out := .next (s.replayRequest port (BitVec.ofNat 12 seq))
/-- LINK_REPLAY_TIMEOUT (R387). -/
def execLinkReplayTimeout (port : Nat) (s : State) : Out := .next (s.replayTimeout port)
/-- KEY_EXHAUSTED (R389). -/
def execKeyExhausted (port : Nat) (s : State) : Out := .next (s.keyExhausted port)
/-- DETOUR_INSTALL (R390). -/
def execDetourInstall (peer : Nat) (onward : BitVec 16) (s : State) : Out := .next (s.detourInstall peer onward)
/-- REQUEST_RESEND (R391, R393). -/
def execRequestResend (die peer : Nat) (seq : BitVec 32) (s : State) : Out := .next (s.requestResend die peer seq)
/-- REQUEST_ARRIVE (R392, R397). -/
def execRequestArrive (r : PeerRequest) (s : State) : Out := .next (s.requestArrive r)
/-- RESPONSE_ARRIVE (R343, R391, R392). -/
def execResponseArrive (die peer : Nat) (seq : BitVec 32) (resp : PeerResponse) (s : State) : Out :=
  .next (s.responseArrive die peer seq resp)
/-- WINDOW_CHANGE (R396). -/
def execWindowChange (index : Nat) (entry : BitVec 128) (s : State) : Out := .next (s.windowChange index entry)

end Sys2Proof.Machine
end

