-- ==== Sys2Proof/Machine/Collective.lean ====
section
/-!
DEFINITION. The completion of a collective at this module (20 R359, 19 R323).
-/

namespace Sys2Proof.Machine

/-- A descriptor's kind, reduce, type, root, mask and count (R358). -/
structure Coll where
  kind : Nat
  red : Nat
  ty : Nat
  root : Nat
  mask : Nat
  count : Nat
  deriving DecidableEq, Repr
def Coll.of (d : List Byte) : Coll := ⟨u8 d 0, u8 d 1, u8 d 2, u8 d 3, u16 d 4, u32 d 0xC⟩

/-- The participants' modules in ascending order, and a module's rank. -/
def Coll.members (c : Coll) : List Nat := (List.range 16).filter fun m => c.mask / 2 ^ m % 2 = 1
def Coll.rank (c : Coll) (m : Nat) : Nat := (c.members.filter fun k => k < m).length
/-- Bytes of an element. -/
def Coll.bytes (c : Coll) : Nat := if c.ty = 0 || c.ty = 0x13 then 4 else 2
def Coll.fmt (c : Coll) : Fmt := if c.ty = 0x14 then .f16 else if c.ty = 0x15 then .bf16 else .f32

/-- `fmin` and `fmax` of two codes, the number where one operand is NaN (R221). -/
def foldMinMax (F : Fmt) (big : Bool) (x y : Nat) : Nat :=
  let a := F.decode x
  let b := F.decode y
  if a.isNan && b.isNan then F.nanCode
  else if a.isNan then y
  else if b.isNan then x
  else
    let cmp := a.cmp b
    let less : Bool := cmp < 0 || (cmp == 0 && a.isNeg && !b.isNeg)
    if less != big then x else y
/-- One step of a reduction, rounded once. -/
def Coll.step (c : Coll) (x y : Nat) : Nat :=
  if c.ty = 0 then
    let a := (BitVec.ofNat 32 x).toInt
    let b := (BitVec.ofNat 32 y).toInt
    match c.red with
    | 0 => (x + y) % 2 ^ 32
    | 1 => if a ≤ b then x else y
    | _ => if b ≤ a then x else y
  else match c.red with
    | 0 => convert0 c.fmt rne false 0 (Val.add rne (c.fmt.decode x) (c.fmt.decode y))
    | 1 => foldMinMax c.fmt false x y
    | _ => foldMinMax c.fmt true x y
/-- Elements of a source. -/
def Coll.elems (c : Coll) (bs : List Byte) : List Nat := (List.range c.count).map fun i => le bs (c.bytes * i) c.bytes
/-- The reduction of the sources in ascending module order. -/
def Coll.reduce (c : Coll) (srcs : List (List Nat)) : List Nat :=
  match srcs with
  | [] => []
  | x :: r => r.foldl (fun acc y => (List.zip acc y).map fun e => c.step e.1 e.2) x
/-- What the destination of a module receives, from each member's source in ascending order. -/
def Coll.result (c : Coll) (me : Nat) (srcs : List (Nat × List Byte)) : List Nat :=
  let all := srcs.map fun e => c.elems e.2
  match c.kind with
  | 1 => c.reduce all
  | 2 =>
    let n := c.count / c.members.length
    ((c.reduce all).drop (n * c.rank me)).take n
  | 3 => all.flatten
  | _ => match srcs.find? fun e => e.1 == c.root with
    | some e => c.elems e.2
    | none => []

/-- The places of a named buffer: module scratchpad or far memory. -/
def State.named (s : State) (asid die va n : Nat) (write : Bool) : Except EngStop (List (Place × Nat)) :=
  (cutPages va n).mapM fun p =>
    match s.access asid die (BitVec.ofNat 64 p.1) [0, 4] (!write) write with
    | .ok q => .ok (q, p.2)
    | .absent => .error (.page (p.1 / 65536) write)
    | .deny _ => .error (.fail 2)
def State.namedRead (s : State) (asid die va n : Nat) : Except EngStop EngData := do
  let ps ← s.named asid die va n false
  if ps.any fun e => s.badPlace e.1 e.2 then throw (.fail 2)
  return (ps.flatMap fun e => s.readPlace e.1 e.2, ps)

/-- Does an access lie in a named buffer, by its address or by the place that the address names now (R323, R326)? -/
def State.inBuffer (s : State) (x : Collective) (va n : Nat) (p : Option Place) : Bool :=
  (collBuffers x.header).any fun b => (va < b.1 + b.2.1 && b.1 < va + n) || (match p, s.named x.asid x.die b.1 b.2.1 b.2.2 with
    | some q, .ok ps => ps.any fun e => e.1.overlap e.2 q n
    | _, _ => false)
/-- Does the collective come after an access of its group that stood before the `coll`? A store comes before the reading of the source (R359), another
access of a named buffer before the completion (R323). A unit that reads memory as a whole counts as such an access. -/
def State.comesBefore (s : State) (x : Collective) (tid : Nat) (a : Access) : Bool :=
  (x.before.contains ⟨x.gid, tid, a.seq⟩ || x.parked.contains (tid, a.trick)) && (a.op.isStore || s.inBuffer x a.va.toNat a.size (some a.place))
def State.standsBefore (s : State) (x : Collective) (tid : Nat) (r : MemReq) : Bool :=
  x.parked.contains (tid, r.trick) && (r.op.isStore || r.unit.isSome || s.inBuffer x r.va.toNat r.size none)
/-- Nothing of the group is left that comes before the collective. -/
def State.groupDone (s : State) (x : Collective) : Bool :=
  match s.group? x.gid with
  | none => true
  | some g => g.tidsOf.all fun e => !(e.2.ops.any (s.comesBefore x e.1)) && !(e.2.request?.any (s.standsBefore x e.1))
/-- Postmark and increment, and the collective is over. -/
def State.collectiveEnd (s : State) (x : Collective) (status : Nat) (mark : List (Place × Nat)) : State :=
  let d := x.header
  let w := u32 d 8 + status * 2 ^ 48 + 0xFF * 2 ^ 56
  let s1 := s.engWrite mark (leBytes 8 w)
  let s2 := s1.semAdd x.die (u16 d 0x20) (u16 d 0x22)
  ({ s2 with collectives := s2.collectives.filter fun y => y.uid != x.uid }).settle
/-- A destination that a rejection leaves partly written: which elements were written is free (DESIGN CHOICE, log 22). -/
def partly (frees bytes : Nat) (old new : List Byte) : List Byte :=
  (List.range new.length).map fun i => if (Config.freeDword (frees + i / bytes)).getLsbD 0 then nth new i 0 else nth old i 0
/-- The places of the postmark, if it has one that may be written; none while its page is asked for. -/
def State.collectiveMark (s : State) (x : Collective) : Option (List (Place × Nat)) :=
  if u64 x.header 0x28 = 0 then some []
  else match s.named x.asid x.die (u64 x.header 0x28) 8 true with
    | .ok ps => some ps
    | .error (.page _ _) => if x.stopped then some [] else none
    | .error _ => some []
/-- What a collective at this module does when every participant's source is there, with the postmark's places: it waits for a page, fails,
or ends. -/
def State.collectiveRun (s : State) (x : Collective) (mark : List (Place × Nat)) (srcs : List (Nat × List Byte)) (rejected : Bool) :
    Except EngStop State := do
  let d := x.header
  let c := Coll.of d
  let own ← s.namedRead x.asid x.die (u64 d 0x10) (c.count * c.bytes)
  let all := sortBy (fun a b => a.1 < b.1) ((s.boot.position, own.1) :: srcs)
  let out := (c.result s.boot.position all).flatMap fun v => leBytes c.bytes v
  let ps ← s.named x.asid x.die (u64 d 0x18) out.length true
  let s0 := s.engMarks x.die own.2
  if rejected then
    let old := ps.flatMap fun e => s0.readPlace e.1 e.2
    let s1 := { s0 with frees := s0.frees + out.length }
    return (s1.engWrite ps (partly s0.frees c.bytes old out)).collectiveEnd x 2 mark
  return (s0.engWrite ps out).collectiveEnd x 0 mark
/-- The peers' groups are those of the mask, matched by the collective's id. -/
def State.collectivePeers (s : State) (x : Collective) (peers : List PeerSource) : Bool :=
  sortBy (fun a b => a < b) (peers.map (·.module)) == (Coll.of x.header).members.filter (fun m => m != s.boot.position)
    && peers.all fun p => u32 p.header 8 == u32 x.header 8
/-- COLLECTIVE_COMPLETE: headers are compared, then the data moves; a buffer of this module that may not be reached stops it with
status 2 and moves nothing (DESIGN CHOICE, log 22). Every completion writes the postmark and adds the increment. -/
def State.collectiveComplete (s : State) (uid : Nat) (peers : List PeerSource) (rejected : Bool) : State :=
  match s.collectives.find? fun x => x.uid == uid with
  | none => s
  | some x =>
    if !s.groupDone x || !s.collectivePeers x peers then s
    else match s.collectiveMark x with
      | none => s.pageAsk x.die x.asid (u64 x.header 0x28 / 65536) true
      | some mark =>
        if !(peers.all fun p => Coll.of p.header == Coll.of x.header) then s.collectiveEnd x 1 mark
        else if x.stopped then s.collectiveEnd x 2 mark
        else match s.collectiveRun x mark (peers.map fun p => (p.module, p.bytes)) rejected with
          | .ok s1 => s1
          | .error (.page pg w) => s.pageAsk x.die x.asid pg w
          | .error _ => s.collectiveEnd x 2 mark

/-- COLLECTIVE_COMPLETE (R359). -/
def execCollectiveComplete (uid : Nat) (peers : List PeerSource) (rejected : Bool) (s : State) : Out :=
  .next (s.collectiveComplete uid peers rejected)

end Sys2Proof.Machine
end

