-- ==== Sys2Proof/Machine/Ingest.lean ====
section
/-!
DEFINITION. Network ports, ingest rings, pause, and the wake filter (24 R418 to R423).
-/

namespace Sys2Proof.Machine

/-! ### Ring records (R419) -/

def ringNo (port cls : Nat) : Nat := 8 * port + cls
def State.ring (s : State) (n : Nat) : Ring := tget s.rings n (Ring.reset n)
def State.setRing (s : State) (n : Nat) (x : Ring) : State := { s with rings := tset s.rings n x }

/-- The fields of a record. -/
def Ring.field (x : Ring) (lo n : Nat) : Nat := fieldOf x.image.toNat lo n
def Ring.valid (x : Ring) : Bool := x.image.getLsbD 0
def Ring.base (x : Ring) : Nat := x.field 192 64
def Ring.prod (x : Ring) : Nat := x.field 147 45 * 8
def Ring.cons (x : Ring) : Nat := x.field 102 45 * 8
def Ring.sem (x : Ring) : Nat := x.field 90 12
def Ring.die (x : Ring) : Nat := x.field 86 4
def Ring.inc (x : Ring) : Nat := x.field 70 16
def Ring.asid (x : Ring) : Nat := x.field 58 12
def Ring.high (x : Ring) : Nat := x.field 42 16
def Ring.low (x : Ring) : Nat := x.field 26 16
def Ring.slotBytes (x : Ring) : Nat := 2 ^ x.field 22 4
def Ring.slots (x : Ring) : Nat := 2 ^ x.field 17 5
def Ring.pause (x : Ring) : Bool := x.image.getLsbD 13
/-- The leaf type of the ring's slots. -/
def Ring.space (x : Ring) : Nat := if x.image.getLsbD 12 then 4 else 0

/-! ### The engine's accesses -/

/-- Places of a ring's bytes, or none where the ring faults. -/
def State.ringPlaces (s : State) (asid va n typ : Nat) (write : Bool) : Option (List (Place × Nat)) :=
  (cutPages va n).mapM fun p =>
    match s.access asid 0 (BitVec.ofNat 64 p.1) [typ] (!write) write with
    | .ok q => some (q, p.2)
    | _ => none
/-- Write at a ring address. -/
def State.ringWrite (s : State) (asid va typ : Nat) (bs : List Byte) : Option State :=
  (s.ringPlaces asid va bs.length typ true).map fun ps => s.engWrite ps bs
/-- The consumer count; none on a translation or data failure. Index words stand on scratchpad, where `stl` and `lda` reach them
(R421). -/
def State.readCons (s : State) (x : Ring) : Option Nat :=
  match s.ringPlaces x.asid x.cons 8 0 false with
  | some ps =>
    if ps.any fun e => (match e.1 with | .phys pa => s.badAt pa e.2 | _ => false) then none
    else some (leNat (ps.flatMap fun e => s.readPlace e.1 e.2))
  | none => none

/-- A pause frame of a class (R422): port, class, quanta. -/
def State.pauseFrame (s : State) (port cls quanta : Nat) : State := { s with pauseFrames := s.pauseFrames ++ [(port, cls, quanta)] }
/-- A ring that stops running asserts no pause (DEDUCED, log 39), and pins no page. -/
def State.ringOff (s : State) (port cls : Nat) (x : Ring) : State :=
  let s1 := (s.unpin (.ring (ringNo port cls))).setRing (ringNo port cls) { x with image := x.image &&& ~~~1, stage := 0, paused := false }
  if x.paused then s1.pauseFrame port cls 0 else s1
/-- RING_FAULT: valid is cleared and the errors core is told. -/
def State.ringFault (s : State) (port cls : Nat) : State :=
  let x := s.ring (ringNo port cls)
  (s.ringOff port cls { x with fault := true }).report 5 14 [port, cls]

/-- A read of the consumer count at or below the low watermark releases pause (R422). -/
def State.pauseEase (s : State) (port cls c : Nat) : State :=
  let n := ringNo port cls
  let x := s.ring n
  if x.paused && x.p - c ≤ x.low then (s.setRing n { x with paused := false }).pauseFrame port cls 0 else s

/-! ### IngestFrame (R420) -/

/-- The header of a slot. -/
def slotHeader (len cls port n : Nat) : List Byte :=
  leBytes 2 len ++ leBytes 1 cls ++ leBytes 1 port ++ leBytes 1 1 ++ leBytes 3 0 ++ leBytes 8 n
def Ring.drop (x : Ring) : Ring := { x with drops := x.drops + 1 }
/-- The engine reads C, at which it may release pause; the frame's slot is written, or the frame is dropped, or the ring faults (R420, R422). -/
def State.ingest (s : State) (port cls : Nat) (bytes : List Byte) : State :=
  let n := ringNo port cls
  let x := s.ring n
  match s.readCons x with
    | none => s.ringFault port cls
    | some c =>
      if x.p < c then s.ringFault port cls
      else
        let s0 := s.pauseEase port cls c
        let y := s0.ring n
        if y.slotBytes < bytes.length + 16 || y.slots ≤ y.p - c then s0.setRing n y.drop
        else
          let va := (y.base + y.slotBytes * (y.p % y.slots)) % 2 ^ 64
          match s0.ringWrite y.asid va y.space (slotHeader bytes.length cls port y.p ++ bytes) with
          | none => s0.ringFault port cls
          | some s1 => s1.setRing n { y with stage := 1, lastC := c }
/-- PRODUCER_WRITE: the slot is acknowledged; P rises and is written. -/
def State.producerWrite (s : State) (port cls : Nat) : State :=
  let n := ringNo port cls
  let x := s.ring n
  if x.stage != 1 then s
  else match s.ringWrite x.asid x.prod 0 (leBytes 8 (x.p + 1)) with
    | none => s.ringFault port cls
    | some s1 => s1.setRing n { x with p := x.p + 1, stage := 2 }
/-- INGEST_INCREMENT: the producer word is acknowledged; the semaphore, and pause at the high watermark. -/
def State.ingestIncrement (s : State) (port cls : Nat) : State :=
  let n := ringNo port cls
  let x := s.ring n
  if x.stage != 2 then s
  else
    let s1 := if x.inc = 0 then s else s.semAdd x.die x.sem x.inc
    let press := x.pause && x.high + 1 ≤ x.p - x.lastC && !x.paused
    let s2 := s1.setRing n { x with stage := 0, paused := x.paused || press }
    if press then s2.pauseFrame port cls 0xFFFF else s2

/-! ### Frames (R418) -/

/-- A frame's class: its VLAN priority, or 0 (PRESUMED, log 32). -/
def frameClass (b : List Byte) : Nat := if u8 b 12 = 0x81 && u8 b 13 = 0 then u8 b 14 / 32 else 0
def State.dropFrame (s : State) (port : Nat) : State := { s with portDrops := tset s.portDrops port (tget s.portDrops port 0 + 1) }
/-- A good frame goes to its class's ring, whose engine has handled every earlier frame whole; without a ring it is the network
core's. -/
def State.steer (s : State) (port : Nat) (bytes : List Byte) : State :=
  let cls := frameClass bytes
  if (s.ring (ringNo port cls)).valid then
    let s1 := (s.producerWrite port cls).ingestIncrement port cls
    if (s1.ring (ringNo port cls)).valid then s1.ingest port cls bytes else s1
  else s

/-! ### The wake filter (R423) -/

/-- Sixteen bytes of a frame from an offset, byte 0 lowest. -/
def frameWindow (b : List Byte) (o : Nat) : BitVec 128 := BitVec.ofNat 128 (leNat ((b.drop o).take 16))
/-- A valid entry that watches the port and whose masked bits lie in the frame and equal its value (DEDUCED, log 23). -/
def filterMatch (e : BitVec 272) (port : Nat) (b : List Byte) : Bool :=
  let o := fieldOf e.toNat 257 7
  let mask : BitVec 128 := e.extractLsb' 128 128
  let val : BitVec 128 := e.setWidth 128
  e.getLsbD 256 && e.getLsbD (264 + port) && (mask >>> (8 * (b.length - o))) == 0 && (frameWindow b o &&& mask) == (val &&& mask)
/-- A frame while the filter is armed: kept when it matches and none is held; dropped and counted otherwise. -/
def State.wakeFrame (s : State) (port : Nat) (bytes : List Byte) : State :=
  if s.heldFrame.isNone && s.filter.any fun e => filterMatch e port bytes then
    { s with heldFrame := some (port, bytes) }.restoreCore networkCore
  else s.dropFrame port
/-- WAKE_FILTER_MATCH. -/
def State.wakeFilterMatch (s : State) (port : Nat) (bytes : List Byte) : State :=
  if s.armed && s.heldFrame.isNone && s.filter.any fun e => filterMatch e port bytes then s.wakeFrame port bytes else s
/-- FRAME_RECEIVE: bytes without the FCS, of 64 to 9,216 with it (PRESUMED, log 32). -/
def State.frameReceive (s : State) (port : Nat) (fcsOk : Bool) (bytes : List Byte) : State :=
  if 8 ≤ port then s
  else if !fcsOk || bytes.length < 60 || 9212 < bytes.length then s.dropFrame port
  else if s.armed then s.wakeFrame port bytes
  else (s.steer port bytes).settle
/-- HELD_FRAME_REPLAY: the network core disarms the filter and handles the frame; one for no ring may carry a command, and restores the
intake core. -/
def State.heldReplay (s : State) : State :=
  match s.heldFrame with
  | none => s
  | some (port, bytes) =>
    if !s.running.getLsbD networkCore then s
    else
      let s1 := { s with armed := false, heldFrame := none }
      let s2 := if (s1.ring (ringNo port (frameClass bytes))).valid then s1 else s1.restoreCore 1
      (s2.steer port bytes).settle

/-! ### Pause (R422) -/

/-- PAUSE_POLL: C is read; pause is released at or below the low watermark. -/
def State.pausePoll (s : State) (port cls : Nat) : State :=
  let n := ringNo port cls
  let x := s.ring n
  if !x.valid || !x.paused then s
  else match s.readCons x with
    | none => s.ringFault port cls
    | some c =>
      if x.p < c then s.ringFault port cls else s.pauseEase port cls c
/-- PAUSE_REPEAT. -/
def State.pauseRepeat (s : State) (port cls : Nat) : State :=
  if (s.ring (ringNo port cls)).paused then s.pauseFrame port cls 0xFFFF else s

/-! ### One meaning per row -/

/-- FRAME_RECEIVE (R418, R420). -/
def execFrameReceive (port : Nat) (fcsOk : Bool) (bytes : List (BitVec 8)) (s : State) : Out := .next (s.frameReceive port fcsOk bytes)
/-- PRODUCER_WRITE (R420). -/
def execProducerWrite (port cls : Nat) (s : State) : Out := .next (s.producerWrite port cls).settle
/-- INGEST_INCREMENT (R420). -/
def execIngestIncrement (port cls : Nat) (s : State) : Out := .next (s.ingestIncrement port cls).settle
/-- PAUSE_POLL (R422). -/
def execPausePoll (port cls : Nat) (s : State) : Out := .next (s.pausePoll port cls)
/-- PAUSE_REPEAT (R422). -/
def execPauseRepeat (port cls : Nat) (s : State) : Out := .next (s.pauseRepeat port cls)
/-- WAKE_FILTER_MATCH (R423). -/
def execWakeFilterMatch (port : Nat) (bytes : List (BitVec 8)) (s : State) : Out := .next (s.wakeFilterMatch port bytes)
/-- HELD_FRAME_REPLAY (R423). -/
def execHeldFrameReplay (s : State) : Out := .next s.heldReplay

end Sys2Proof.Machine
end

