-- ==== Sys2Proof/Machine/Object.lean ====
section
/-!
DEFINITION. Linked objects: their layout, the checks of a load and their reasons, relocation at load, and the kernels and graphs that
become resident (07 R126 to R138, 11 R203).
-/

namespace Sys2Proof.Machine

/-! ### Header and sections (R126 to R128) -/

/-- A section-table entry. -/
structure Section where
  typ : Nat
  kernel : Nat
  link : Nat
  align : Nat
  off : Nat
  size : Nat
  deriving DecidableEq, Repr

/-- A linked object as its bytes give it. -/
structure Sof where
  bytes : List Byte
  kernels : Nat
  graphs : Nat
  symbols : Nat
  strings : Nat
  sections : List Section
  deriving DecidableEq, Repr

def allZero (bs : List Byte) : Bool := bs.all (· == 0)
def bytesAt (b : List Byte) (o n : Nat) : List Byte := (b.drop o).take n
def sectionAt (b : List Byte) (o : Nat) : Section := ⟨le b o 2, le b (o + 2) 2, le b (o + 4) 2, u8 b (o + 6), le b (o + 8) 8, le b (o + 16) 8⟩
/-- Step 1 of R137: the header. -/
def sofHeader (b : List Byte) : Except Nat Sof :=
  let n := u32 b 0xC
  let t := u64 b 0x10
  if b.length < 64 || u32 b 0 != 0x1A464F53 || u16 b 4 != 1 || u16 b 6 != 2 || u32 b 8 != 0 || n = 0 || 65535 < n || t % 8 != 0
      || u64 b 0x18 != b.length || u32 b 0x24 != 0 || !allZero (bytesAt b 0x2C 20) || n ≤ u16 b 0x28 || n ≤ u16 b 0x2A
      || b.length < t + 32 * n then .error 1
  else .ok ⟨b, u16 b 0x20, u16 b 0x22, u16 b 0x28, u16 b 0x2A, (List.range n).map fun i => sectionAt b (t + 32 * i)⟩

/-- Section types of a kernel, and the alignment of each type (R128). -/
def typeAlign (t : Nat) : Nat := if t = 1 || t = 4 || t = 5 then 6 else 3
def Section.within (x : Section) (n : Nat) : Bool := x.off + x.size ≤ n
def Section.apart (x y : Section) : Bool := x.size == 0 || y.size == 0 || x.off + x.size ≤ y.off || y.off + y.size ≤ x.off
def allApart : List Section → Bool
  | [] => true
  | x :: r => r.all x.apart && allApart r
def Sof.ofKernel (o : Sof) (k t : Nat) : List Section := o.sections.filter fun x => x.kernel == k && x.typ == t
def Sof.ofType (o : Sof) (t : Nat) : List Section := o.sections.filter fun x => x.typ == t
def Sof.data (o : Sof) (x : Section) : List Byte := bytesAt o.bytes x.off x.size
/-- Entry bytes that a section's size counts in. -/
def typeUnit (t : Nat) : Nat := nth [1, 64, 1, 4, 256, 64, 16, 8, 8, 8, 4, 1, 24, 1, 24, 136] t 1
/-- A section's type, owner, link, alignment, place and size (R127, R128). A graph section's link may name any section, or none: the spec does not
say what section a graph belongs to (DESIGN CHOICE, log 48). -/
def Section.ok (x : Section) (o : Sof) : Bool :=
  let own := 1 ≤ x.typ && x.typ ≤ 10
  1 ≤ x.typ && x.typ ≤ 15 && (if own then x.kernel < o.kernels else x.kernel == 0xFFFF)
    && (match x.typ with
        | 14 => x.link < o.sections.length
        | 11 => x.link < o.sections.length || x.link == 0xFFFF
        | _ => x.link == 0xFFFF)
    && x.align == typeAlign x.typ && x.off % 2 ^ x.align == 0 && x.within o.bytes.length && x.size % typeUnit x.typ == 0
    && (x.typ != 4 || x.size == 256) && (x.typ != 15 || x.size == 136)
/-- The first byte of a UTF-8 character: the bytes that follow it, and the range of the first of them. -/
def utf8Lead (x : Nat) : Option (Nat × Nat × Nat) :=
  if x < 0x80 then some (0, 0x80, 0xBF)
  else if x < 0xC2 then none
  else if x < 0xE0 then some (1, 0x80, 0xBF)
  else if x < 0xF0 then some (2, if x = 0xE0 then 0xA0 else 0x80, if x = 0xED then 0x9F else 0xBF)
  else if x < 0xF5 then some (3, if x = 0xF0 then 0x90 else 0x80, if x = 0xF4 then 0x8F else 0xBF)
  else none
/-- Are bytes UTF-8, where `need` more bytes of a character are awaited, the next from `lo` to `hi`? -/
def utf8From (need lo hi : Nat) : List Byte → Bool
  | [] => need == 0
  | b :: r =>
    if need = 0 then (match utf8Lead b.toNat with | some (n, l, h) => utf8From n l h r | none => false)
    else lo ≤ b.toNat && b.toNat ≤ hi && utf8From (need - 1) 0x80 0xBF r
/-- The string section: byte 0 is zero, and every name is UTF-8 and ends in a zero byte (R128). -/
def stringsOk (b : List Byte) : Bool := b.head? == some 0 && b.getLast? == some 0 && utf8From 0 0x80 0xBF b
/-- A symbol entry of a linked object (R129). -/
def Sof.symbolOk (o : Sof) (e : List Byte) : Bool :=
  let kind := u8 e 6
  let away := kind == 2 || u8 e 7 == 2
  let names := match o.sections[o.strings]? with | some x => x.size | none => 0
  u32 e 0 < names && (if away then u16 e 4 == 0xFFFF else u16 e 4 < o.sections.length) && kind ≤ 5 && u8 e 7 ≤ 2 && u32 e 0x14 == 0
    && (kind != 4 || (u8 e 7 == 1 && u64 e 8 < o.kernels)) && (kind != 5 || (u8 e 7 == 1 && u64 e 8 < o.graphs))
/-- Every symbol, and a kernel symbol for each kernel and a graph symbol for each graph. -/
def Sof.symbolsOk (o : Sof) (es : List (List Byte)) : Bool :=
  let named (kind n : Nat) : Bool := es.any fun e => u8 e 6 == kind && u64 e 8 == n
  es.all o.symbolOk && (List.range o.kernels).all (named 4) && (List.range o.graphs).all (named 5)
/-- Entries of a byte list. -/
def entries (n : Nat) (b : List Byte) : List (List Byte) := (List.range (b.length / n)).map fun i => bytesAt b (n * i) n

/-- Step 2: sections obey R127 and R128, their strings and symbols with them, and the signature is last. A symbols or strings index that
names a section of another type fails here (R126), an alignment must be the type's, and the signature is last by file offset and in the
section table (DESIGN CHOICE, log 48). -/
def Sof.sectionsOk (o : Sof) : Bool :=
  let resv := (List.range o.sections.length).all fun i =>
    let e := u64 o.bytes 0x10 + 32 * i
    u8 o.bytes (e + 7) == 0 && le o.bytes (e + 24) 8 == 0
  let kernelOk (k : Nat) : Bool :=
    ([1, 4, 10].all fun t => (o.ofKernel k t).length == 1) && [2, 3, 5, 6, 7, 8, 9].all fun t => (o.ofKernel k t).length ≤ 1
  resv && (o.sections.all fun x => x.ok o) && allApart o.sections && ((List.range o.kernels).all kernelOk)
    && (o.ofType 11).length == o.graphs
    && (match o.sections[o.symbols]?, o.sections[o.strings]? with
        | some x, some y => x.typ == 12 && y.typ == 13 && stringsOk (o.data y) && o.symbolsOk (entries 24 (o.data x))
        | _, _ => false)
    && (match o.ofType 15, o.sections.getLast? with
        | [x], some y => x == y && o.sections.all fun z => z.off ≤ x.off || z.size == 0
        | _, _ => false)

/-! ### Signature (R135, R136) -/

def Sof.signature (o : Sof) : Section := match o.sections.getLast? with | some x => x | none => ⟨0, 0, 0, 0, 0, 0⟩
def Sof.signed (o : Sof) : List Byte := o.bytes.take o.signature.off
def Sof.block (o : Sof) : List Byte := o.data o.signature
def Sof.keyKnown (o : Sof) (keys : List (List Byte)) : Bool := keys.contains (sha256 (bytesAt o.block 8 64))
/-- A signature block verifies over its range: ECDSA on P-256 with SHA-256, its numbers big-endian (R135). -/
def blockOk (b range : List Byte) : Bool :=
  u32 b 0 == 0x31474953 && u16 b 4 == 1 && u16 b 6 == 0
    && ecdsaOk (bytesAt b 8 32) (bytesAt b 0x28 32) range (bytesAt b 0x48 32) (bytesAt b 0x68 32)
/-- Step 4 of R137: the block is well formed and verifies. -/
def Sof.signatureOk (o : Sof) : Bool := blockOk o.block o.signed
def Sof.identity (o : Sof) : List Byte := sha256 o.signed

/-! ### Records, tables and graphs (R130 to R132, R203) -/

def Sof.tableOf (o : Sof) (k t : Nat) : List Byte := match o.ofKernel k t with | x :: _ => o.data x | [] => []
def widthOk (w : Nat) : Bool := w == 8 || w == 16 || w == 32 || w == 64
def regsOk (n : Nat) : Bool := 8 ≤ n && n ≤ 128 && n % 8 == 0
def slotsOfRecord (r : List Byte) : List (BitVec 128) := (List.range 8).map fun i => BitVec.ofNat 128 (le r (0x80 + 16 * i) 16)
/-- The launch record of a kernel: every field in its range, every count its section's. -/
def Sof.recordOk (o : Sof) (k : Nat) : Bool :=
  let r := o.tableOf k 4
  let n (t : Nat) : Nat := (o.tableOf k t).length
  u16 r 0 == 1 && widthOk (u8 r 2) && regsOk (u8 r 3) && 1 ≤ u8 r 4 && u8 r 4 ≤ 32 && u8 r 5 ≤ 7 && u8 r 6 ≤ 1 && u8 r 7 == 0
    && 1 ≤ u32 r 8 && u32 r 8 ≤ 65536 && u32 r 0xC % 256 == 0 && u32 r 0xC ≤ 0x40000
    && u32 r 0x18 == n 1 && n 1 ≤ 2 ^ 24 && u32 r 0x1C < n 1 && 4 * u32 r 0x28 == n 3 && u32 r 0x28 ≤ 65536
    && u32 r 0x2C == n 2 && u32 r 0x2C ≤ u32 r 0xC && 64 * u32 r 0x40 == n 5 && 16 * u16 r 0x44 == n 6 && u16 r 0x44 ≤ 256
    && 8 * u16 r 0x46 == n 7 && u16 r 0x46 ≤ 256 && 8 * u16 r 0x70 == n 8 && 8 * u16 r 0x72 == n 9 && 4 * u32 r 0x74 == n 10
    && 1 ≤ u32 r 0x74 && le r 0x78 8 == 0
    && ([0x10, 0x20, 0x30, 0x38, 0x48, 0x50, 0x58, 0x60, 0x68].all fun a => le r a 8 == 0)
    && (slotsOfRecord r).all fun i => i == 0 || slotValid i
def handlerOk (e : List Byte) : Bool :=
  allZero e || (widthOk (u8 e 4) && regsOk (u8 e 5) && u8 e 6 == 1 && u8 e 7 == 0 && u32 e 8 % 256 == 0 && u32 e 8 ≤ 0x40000 && u32 e 0xC == 0)
def holeOk (teams : Nat) (e : List Byte) : Bool :=
  allZero e || ((u32 e 0 < teams || u32 e 0 == 0xFFFFFFFF) && 4 ≤ u8 e 4 && u8 e 4 ≤ 16 && u8 e 5 == 1 && u16 e 6 == 0)
/-- Ranges in ascending order that do not overlap. -/
def rangesOk : List (Nat × Nat) → Bool
  | [] => true
  | [_] => true
  | a :: b :: r => a.2 ≤ b.1 && rangesOk (b :: r)
def routineRange (e : List Byte) : Nat × Nat := (u32 e 0, u32 e 0 + u16 e 4)
def regionRange (e : List Byte) : Nat × Nat := (u32 e 0, u32 e 4)
def apartFrom (l : List (Nat × Nat)) (x : Nat × Nat) : Bool := l.all fun y => x.2 ≤ y.1 || y.2 ≤ x.1
/-- The tables of a kernel; a routine has at least its `ret`, and no region meets a routine (R122, R131). -/
def Sof.tablesOk (o : Sof) (k : Nat) : Bool :=
  let rs := entries 8 (o.tableOf k 8)
  let gs := entries 8 (o.tableOf k 9)
  ((entries 16 (o.tableOf k 6)).all handlerOk) && ((entries 8 (o.tableOf k 7)).all (holeOk (u32 (o.tableOf k 4) 8)))
    && (rs.all fun e => u32 e 0 % 4 == 0 && 4 ≤ u16 e 4 && u16 e 4 % 4 == 0 && 1 ≤ u8 e 6 && u8 e 6 ≤ 64 && u8 e 7 == 0)
    && rangesOk (rs.map routineRange)
    && (gs.all fun e => u32 e 0 % 4 == 0 && u32 e 4 % 4 == 0 && u32 e 0 < u32 e 4) && rangesOk (gs.map regionRange)
    && (gs.map regionRange).all (apartFrom (rs.map routineRange))

/-- The nodes of a graph image. -/
def graphNodes (g : List Byte) : List Node :=
  let n := u16 g 0
  (List.range n).map fun i =>
    let e := 16 + 16 * i
    ⟨u16 g e, u16 g (e + 2), (List.range (u16 g (e + 4))).map fun j => u16 g (16 + 16 * n + 2 * (u32 g (e + 12) + j)), u32 g (e + 8)⟩
def ascending : List Nat → Bool
  | [] => true
  | [_] => true
  | a :: b :: r => a < b && ascending (b :: r)
def Sof.graphOk (o : Sof) (g : List Byte) : Bool :=
  let n := u16 g 0
  let m := u32 g 4
  let ns := graphNodes g
  16 ≤ g.length && 1 ≤ n && n ≤ 1024 && u16 g 2 == 0 && u32 g 0xC == 0 && g.length == 16 + 16 * n + 2 * m
    && (match o.sections[o.strings]? with | some x => u32 g 8 < x.size | none => false)
    && ascending (ns.map (·.id)) && (ns.foldl (fun k x => k + x.succs.length) 0) == m
    && ((List.range n).all fun i =>
      let e := 16 + 16 * i
      u16 g e ≤ 1023 && u16 g (e + 4) ≤ 64 && u16 g (e + 6) == 0 && u32 g (e + 8) < o.kernels && u32 g (e + 12) + u16 g (e + 4) ≤ m)
    && ns.all fun x => x.succs.all fun j => ns.any fun y => y.id == j
/-- Step 5. -/
def Sof.recordsOk (o : Sof) : Bool :=
  ((List.range o.kernels).all fun k => o.recordOk k && o.tablesOk k) && (o.ofType 11).all fun x => o.graphOk (o.data x)

/-! ### Text tables (step 6) -/

def textWordOf (b : List Byte) (a : Word) : Word := BitVec.ofNat 32 (le b a.toNat 4)
/-- The offsets of every `land` word of a text: not the tails that hold its code. -/
def landsOf (text : List Byte) : List Nat :=
  ((List.range (text.length / 4)).map (4 * ·)).filter fun a =>
    isLand (textWordOf text (BitVec.ofNat 32 a)) && !(wordMarks (textWordOf text) (BitVec.ofNat 32 a)).1
/-- Step 6; the landing table lists every `land` word in ascending order, and none of them is a shadow word (R128, DEDUCED, log 36). -/
def Sof.textOk (o : Sof) (k : Nat) : Bool :=
  let text := o.tableOf k 1
  let lands := (entries 4 (o.tableOf k 10)).map fun e => u32 e 0
  let r := o.tableOf k 4
  let hs := (entries 16 (o.tableOf k 6)).filter fun e => u8 e 6 == 1
  lands.contains (u32 r 0x1C) && (hs.all fun e => lands.contains (u32 e 0)) && lands == landsOf text
    && (lands.all fun a => !(wordMarks (textWordOf text) (BitVec.ofNat 32 a)).2)
    && ((entries 8 (o.tableOf k 8)).all fun e => (routineRange e).2 ≤ text.length)
    && (entries 8 (o.tableOf k 9)).all fun e => (regionRange e).2 ≤ text.length

/-! ### Loaded addresses and relocation (R130, R133, step 8) -/

/-- The sections that are loaded: those of kernels, and the graphs. -/
def Section.loaded (x : Section) : Bool := x.typ ≤ 11
/-- The loaded page at which each loaded section begins, by its number, from a first page: each section has pages of its own
(DESIGN CHOICE, log 24). -/
def loadPages (page i : Nat) : List Section → Tab Nat
  | [] => []
  | x :: r => if x.loaded then (i, page) :: loadPages (page + pagesFor x.size) (i + 1) r else loadPages page (i + 1) r
/-- The pages' contents in that order, with the permissions of their leaves: text X and R, constants R, all others R and W (R137). -/
def Sof.chunks (o : Sof) : List (Nat × List Byte) :=
  (o.sections.filter Section.loaded).flatMap fun x => (List.range (pagesFor x.size)).map fun i =>
    (match x.typ with | 1 => 20 | 3 => 4 | _ => 12, bytesAt (o.data x) (pageSize * i) pageSize)
/-- Put bytes over a list at an offset. -/
def overlay (b : List Byte) (o : Nat) (x : List Byte) : List Byte := b.take o ++ x ++ b.drop (o + x.length)
/-- One ABS64 relocation of a section: the loaded address of the symbol's section, its value and the addend. -/
def Sof.reloc (o : Sof) (pages : Tab Nat) (x : Section) (img : List Byte) (e : List Byte) : Option (List Byte) :=
  match o.sections[x.link]?, o.sections[o.symbols]? with
  | some tgt, some syms =>
    let sym := bytesAt (o.data syms) (24 * u32 e 8) 24
    let place := u64 e 0
    if u16 e 0xC != 7 || u16 e 0xE != 0 || syms.size ≤ 24 * u32 e 8 || !([2, 3, 4, 5].contains tgt.typ) || tgt.size < place + 8
        || u8 sym 7 = 2 then none
    else (pages.find? fun p => p.1 == u16 sym 4).map fun home =>
      overlay img (tgt.off + place) (leBytes 8 ((pageSize * home.2 + u64 sym 8 + u64 e 0x10) % 2 ^ 64))
  | _, _ => none
def Sof.relocate (o : Sof) (pages : Tab Nat) : Option (List Byte) :=
  ((o.ofType 14).flatMap fun x => (entries 24 (o.data x)).map fun e => (x, e)).foldlM (fun img p => o.reloc pages p.1 img p.2) o.bytes
/-- The bases of a relocated launch record are the loaded addresses of the kernel's own sections; that of an absent table is zero, and
that of an empty one may be (R130). With another base the load ends with reason 8, though R137 lists no check for it (DESIGN CHOICE, log 48). -/
def Sof.basesOk (o : Sof) (pages : Tab Nat) (k : Nat) : Bool :=
  let r := o.tableOf k 4
  [(0x10, 1), (0x20, 3), (0x30, 2), (0x38, 5), (0x48, 6), (0x50, 7), (0x58, 8), (0x60, 9), (0x68, 10)].all fun e =>
    match o.sections.findIdx? fun x => x.kernel == k && x.typ == e.2 with
    | none => u64 r e.1 == 0
    | some i => u64 r e.1 == pageSize * tget pages i 0 || (u64 r e.1 == 0 && (o.tableOf k e.2).isEmpty)

/-! ### Kernels (R130, R131) -/

/-- A kernel of the relocated bytes. -/
def Sof.kernel (o : Sof) (k : Nat) : Kernel :=
  let r := o.tableOf k 4
  { width := u8 r 2, regs := u8 r 3, groups := u8 r 4, energy := u8 r 5, paired := u8 r 6 == 1, teams := u32 r 8, teamSize := u32 r 0xC,
    textBase := u64 r 0x10, textSize := u32 r 0x18, entry := BitVec.ofNat 32 (u32 r 0x1C), constBase := u64 r 0x20,
    constCount := u32 r 0x28, imageSize := u32 r 0x2C, imageBase := u64 r 0x30, templateBase := u64 r 0x38, templateCount := u32 r 0x40,
    handlers := (entries 16 (o.tableOf k 6)).map fun e => (BitVec.ofNat 32 (u32 e 0), u8 e 4, u8 e 5, u8 e 6 == 1, u32 e 8),
    holes := (entries 8 (o.tableOf k 7)).map fun e => ⟨u8 e 5 == 1, BitVec.ofNat 32 (u32 e 0), u8 e 4, []⟩,
    routines := (entries 8 (o.tableOf k 8)).map fun e => (BitVec.ofNat 32 (u32 e 0), u16 e 4, u8 e 6),
    regions := (entries 8 (o.tableOf k 9)).map fun e => (BitVec.ofNat 32 (u32 e 0), BitVec.ofNat 32 (u32 e 4)),
    landing := (entries 4 (o.tableOf k 10)).map fun e => BitVec.ofNat 32 (u32 e 0),
    slots := slotsOfRecord r }

/-! ### Loading (R137, R138) -/

/-- Steps 1 to 6. -/
def checkObject (keys : List (List Byte)) (b : List Byte) : Except Nat Sof := do
  let o ← sofHeader b
  if !o.sectionsOk then throw 2
  if !o.keyKnown keys then throw 3
  if !o.signatureOk then throw 4
  if !o.recordsOk then throw 5
  if !((List.range o.kernels).all o.textOk) then throw 6
  return o

/-- The first loaded page of a new object: beyond all pages of resident objects, the launch core's choice (DESIGN CHOICE, log 24). -/
def State.loadPage (s : State) : Nat := s.pinned.foldl (fun n e => max n e.1) 0 + 1 + Config.loadBase s.frees % 2 ^ 16
/-- Write pages to their frames. -/
def State.writePages (s : State) (l : List (Nat × Nat × List Byte)) : State := l.foldl (fun acc e => acc.physWrite (pageSize * e.1) e.2.2) s
/-- Steps 7 and 8: the object's sections on frames of its home die, mapped and pinned, its kernels and graphs (R137, R304). -/
def State.place (s : State) (o : Sof) (home handle : Nat) : Except Nat (State × Obj) :=
  match s.takeFrames home o.chunks.length with
  | none => .error 7
  | some (fs, s1) =>
    let first := s.loadPage
    let pages := loadPages first 0 o.sections
    match o.relocate pages with
    | none => .error 8
    | some img =>
      let o' := { o with bytes := img }
      if !((List.range o.kernels).all (o'.basesOk pages)) then .error 8
      else
        let l := fs.zip o'.chunks
        let nums := (List.range l.length).map (first + ·)
        let leaves := (nums.zip l).map fun e => (e.1, BitVec.ofNat 64 (pageSize * e.2.1 + e.2.2.1 + 3))
        let obj : Obj := ⟨handle, o.identity, home, (List.range o.kernels).map o'.kernel, (o.ofType 11).map fun x => graphNodes (o.data x),
          fs, nums, false⟩
        .ok ({ s1.writePages l with pinned := s1.pinned ++ leaves, objects := s1.objects ++ [obj] }, obj)
/-- The resident object with an identity (R138). -/
def State.resident (s : State) (o : Sof) : Option Obj := s.objects.find? fun x => x.ident == o.identity
/-- The outcome of a load: its handle, or a reason; an object that is resident is not loaded twice (R138) (DEDUCED, log 36). -/
def State.load (s : State) (b : List Byte) (home handle : Nat) : Except Nat (State × Nat) := do
  let o ← checkObject s.boot.keys b
  match s.resident o with
  | some x => if x.unloading then throw 0x25 else return (s, x.handle)
  | none =>
    let (s1, x) ← s.place o home handle
    return (s1, x.handle)

/-- An object leaves: its pages are unmapped and its frames are free. -/
def State.dropObject (s : State) (handle : Nat) : State :=
  match s.object? handle with
  | none => s
  | some o => { s with
    objects := s.objects.filter fun x => x.handle != handle
    pinned := s.pinned.filter fun e => !o.pages.contains e.1
    frames := s.frames.filter fun f => !o.frames.contains f }

end Sys2Proof.Machine
end

