-- ==== Sys2Proof/Machine/Schedule.lean ====
section
/-!
DEFINITION. Commands, runs and queue slots: the intake, load, unload, open and close commands, the beginning of a run, the quantum
boundary and level rise (25 R426 to R436, 07 R137, R138, 24 R419, 27 R460, R461).
-/

namespace Sys2Proof.Machine

/-! ### Commands at the intake core (R426 to R428) -/

/-- May a command come in? Its frames reach the intake core of a module that has booted, and none passes an armed wake filter (R423, R455, R462):
there the frame comes in under FRAME_RECEIVE, and the command after its replay (DEDUCED, log 23). -/
def State.hears (s : State) : Bool := s.boot.booted && !s.armed
/-- A command waits on the software queue that it names. -/
def State.enqueue (s : State) (session : Nat) (bytes object : List Byte) : State :=
  let q := u16 bytes 2
  let x := s.swq q
  if s.hears then ((s.restoreCore networkCore).restoreCore 1).setSwq q { x with cmds := x.cmds ++ [⟨bytes, object, session, none⟩] } else s
/-- The head command of a queue, when nothing of it has begun. -/
def SwQueue.head (x : SwQueue) : Option Command := if x.running.isSome || x.waits then none else x.cmds.head?
/-- A command ends: its completion, and the next one may begin. -/
def State.finish (s : State) (q : Nat) (c : Command) (status result : Nat) : State :=
  let x := s.swq q
  (s.setSwq q { x with cmds := x.cmds.drop 1, waits := false }).complete c.session c.bytes status result
/-- Take in a command of a kind, or perform the head of a queue when it is of that kind. -/
def State.intake (s : State) (kind : Nat) (c : Intake) (act : State → Nat → Command → State) : State :=
  match c with
  | .arrives n b o => if b.length = 64 && u8 b 0 = kind then s.enqueue n b o else s
  | .head q => match (s.swq q).head with
    | some x => if u8 x.bytes 0 = kind then act (s.restoreCore 2) q x else s
    | none => s

/-- The command's fields; a queue pair's values are checked with the pair (R412). -/
def runFieldsOk (b : List Byte) : Bool :=
  let dies := u16 b 0x10
  let base := u16 b 0x14
  let n := u16 b 0x16
  u8 b 1 == 0 && u8 b 0x2B == 0 && u8 b 0x2D == 0 && allZero (bytesAt b 0x34 12) && u16 b 2 ≤ 1023 && 1 ≤ u16 b 0xE && u16 b 0xE ≤ 4095
    && dies != 0 && dies < 4096 && base + n ≤ 4096
/-- A run's command that names an object by its handle. -/
def Command.names (c : Command) (h : Nat) : Bool := u8 c.bytes 0 == 3 && u32 c.bytes 8 == h
def Command.fails (c : Command) (h r : Nat) : Command := if c.names h then { c with failed := some r } else c
/-- Every run that names the object of a load that has failed is to complete with its reason, when it is at the head of its queue (R138, R428). -/
def State.failWaiting (s : State) (h r : Nat) : State :=
  { s with queues := s.queues.map fun (e : Nat × SwQueue) => (e.1, { e.2 with cmds := e.2.cmds.map fun c => c.fails h r }) }
/-- A load ends: the object is resident, or its reason is told. -/
def State.endLoad (s : State) (q handle home : Nat) (c : Command) : State :=
  let s1 := { s with loads := s.loads.filter fun l => l.queue != q }
  match s1.load c.object home handle with
  | .ok (s2, h) => s2.finish q c 0 h
  | .error r => ((if r ≤ 8 then s1.report 2 15 [r] else s1).finish q c r 0).failWaiting handle r
/-- LOAD_OBJECT (R137, R138): at the head of its queue it begins, and a second occurrence ends it. -/
def State.loadCommand (s : State) (q : Nat) (c : Command) : State :=
  let home := u8 c.bytes 0xC
  match s.loads.find? fun l => l.queue == q with
  | some l => s.endLoad q l.handle home c
  | none =>
    if 11 < home || u32 c.bytes 8 != c.object.length || 2 ^ 30 < c.object.length then s.finish q c 0x20 0
    else if !(s.swq q).opened then s.finish q c 0x21 0
    else ({ s with loads := s.loads ++ [⟨q, s.fresh⟩] } : State).bump

/-- UNLOAD_OBJECT: from now on the object's graphs are refused; the command ends when the unload takes effect. -/
def State.unloadCommand (s : State) (q : Nat) (c : Command) : State :=
  let h := u32 c.bytes 8
  match s.object? h with
  | none => s.finish q c 0x21 0
  | some o =>
    if !(s.swq q).opened then s.finish q c 0x21 0
    else if o.unloading then s.finish q c 0x25 0
    else ({ s with objects := s.objects.map fun (x : Obj) => if x.handle = h then { x with unloading := true } else x } : State).setSwq q
      { s.swq q with waits := true }
/-- Does a launch of an object run? -/
def State.runsOf (s : State) (h : Nat) : Bool := s.launches.any fun l => (s.run? l.run).any fun r => r.handle == h
/-- The queue whose head unloads an object. -/
def State.unloader (s : State) (h : Nat) : Option (Nat × Command) :=
  (s.queues.find? fun e => e.2.waits && (match e.2.cmds with | c :: _ => u32 c.bytes 8 == h | [] => false)).bind fun e =>
    (e.2.cmds.head?).map fun c => (e.1, c)
/-- UNLOAD_EFFECT: no launch of the object runs. -/
def State.unloadEffect (s : State) (h : Nat) : State :=
  match s.object? h with
  | none => s
  | some o =>
    if !o.unloading || s.runsOf h then s
    else
      let s1 := s.dropObject h
      match s.unloader h with
      | some (q, c) => s1.finish q c 0 0
      | none => s1

/-- OPEN_QUEUE. -/
def State.openQueue (s : State) (q : Nat) (c : Command) : State :=
  let level := u8 c.bytes 8
  if 1023 < q || 7 < level then s.finish q c 0x20 0
  else (s.setSwq q { s.swq q with opened := true, base := level, eff := level }).finish q c 0 0

/-! ### Rings (R419) -/

def ringRecord (b : List Byte) : BitVec 256 := BitVec.ofNat 256 (le b 0x20 32)
/-- A record with each field in its range; class and port read as the record's position. -/
def Ring.recordOk (x : Ring) : Bool :=
  x.valid && x.base % 64 == 0 && x.die ≤ 11 && x.high + 1 ≤ x.slots && x.low ≤ x.high && 11 ≤ x.field 22 4 && x.field 22 4 ≤ 14
    && 4 ≤ x.field 17 5 && x.field 17 5 ≤ 16 && x.field 1 7 == 0 && 1 ≤ x.asid
def placedRecord (i : BitVec 256) (port cls : Nat) : BitVec 256 :=
  BitVec.ofNat 256 (i.toNat - fieldOf i.toNat 14 3 * 2 ^ 14 - fieldOf i.toNat 8 4 * 2 ^ 8 + cls * 2 ^ 14 + port * 2 ^ 8)
def pagesOf (va n : Nat) : Nat × Nat := (va / pageSize, (va % pageSize + n + pageSize - 1) / pageSize)
/-- Map a ring's pages and pin them, and start P and C at zero. -/
def State.pinRing (s : State) (n : Nat) (x : Ring) : Option State := do
  let a := pagesOf x.base (x.slotBytes * x.slots)
  let s1 ← s.servePages x.asid a.1 true true a.2
  let s2 ← s1.servePages x.asid (x.prod / pageSize) true true 1
  let s3 ← s2.servePages x.asid (x.cons / pageSize) true true 1
  let s4 ← s3.ringWrite x.asid x.prod 0 (leBytes 8 0)
  let s5 ← s4.ringWrite x.asid x.cons 0 (leBytes 8 0)
  return ((s5.pin (.ring n) x.asid a.1 a.2).pin (.ring n) x.asid (x.prod / pageSize) 1).pin (.ring n) x.asid (x.cons / pageSize) 1
/-- OPEN_RING: a ring whose pages cannot be pinned is refused (DEDUCED, log 26). -/
def State.openRing (s : State) (q : Nat) (c : Command) : State :=
  let port := u8 c.bytes 8
  let cls := u8 c.bytes 9
  let n := ringNo port cls
  let x : Ring := { Ring.reset n with image := placedRecord (ringRecord c.bytes) port cls }
  if 7 < port || 7 < cls || !x.recordOk then s.finish q c 0x20 0
  else if !(s.swq q).opened || (s.space? x.asid).isNone then s.finish q c 0x21 0
  else match (s.ringOff port cls (s.ring n)).pinRing n x with
    | some s1 => (s1.setRing n x).finish q c 0 0
    | none => ({ s with frees := s.frees + 1 } : State).finish q c 0x20 0
/-- CLOSE_RING. -/
def State.closeRing (s : State) (q : Nat) (c : Command) : State :=
  let port := u8 c.bytes 8
  let cls := u8 c.bytes 9
  if 7 < port || 7 < cls then s.finish q c 0x20 0
  else if !(s.swq q).opened then s.finish q c 0x21 0
  else (s.ringOff port cls (s.ring (ringNo port cls))).finish q c 0 0

/-- UNKNOWN_COMMAND: refused as it arrives. -/
def State.unknown (s : State) (c : Intake) : State :=
  match c with
  | .arrives n b _ => if s.hears && b.length = 64 && (u8 b 0 = 0 || 6 < u8 b 0) then
      ((s.restoreCore networkCore).restoreCore 1).complete n b 0x20 0 else s
  | .head _ => s

/-! ### The beginning of a run (R429) -/

/-- Dies, channels and semaphores of a command. -/
def runDies (b : List Byte) : List Nat := maskBits (BitVec.ofNat 16 (u16 b 0x10) : BitVec 16) 12
def runChans (b : List Byte) : List Nat := maskBits (BitVec.ofNat 64 (le b 0x18 8) : Dword) 64
def semsMeet (a b : List Byte) : Bool :=
  (runDies a).any (fun d => (runDies b).contains d) && u16 a 0x16 != 0 && u16 b 0x16 != 0 && u16 a 0x14 < u16 b 0x14 + u16 b 0x16 && u16 b 0x14 < u16 a 0x14 + u16 a 0x16
/-- A semaphore or channel of the run belongs to another run. -/
def State.taken (s : State) (b : List Byte) : Bool :=
  (s.runs.any fun r => semsMeet b r.cmd)
    || (runDies b).any fun d => (runChans b).any fun c => ((s.die d).channel c).owner.isSome
def runCap : Nat := 256
/-- The lowest free instance. -/
def State.freeInst (s : State) : Option Nat := (List.range runCap).find? fun i => (s.run? i).isNone
/-- Assign and zero the run's channels and semaphores. -/
def State.assign (s : State) (inst : Nat) (b : List Byte) : State :=
  let ds := runDies b
  let cs := runChans b
  let lo := u16 b 0x14
  let hi := lo + u16 b 0x16
  let s1 := ds.foldl (fun acc d => acc.setDie d (cs.foldl (fun x c => x.setChannel c { x.channel c with owner := some inst, seqno := 0 }) (acc.die d))) s
  { s1 with sems := s1.sems.filter fun e => !(ds.contains (e.1 / 4096) && lo ≤ e.1 % 4096 && e.1 % 4096 < hi) }
/-- A run that has passed starts: its counters, its slot, its first nodes. -/
def State.startRun (s : State) (r : Run) : State :=
  let s1 := (s.assign r.inst r.cmd).setSwq r.queue { s.swq r.queue with running := some r.inst }
  let g := s1.graphOf r
  let r1 := { r with counts := g.map fun n => (n.id, n.preds), begun := true }
  let s2 := ({ s1 with runs := s1.runs ++ [r1] }).gainWork r.queue
  ((g.filter fun n => n.preds == 0).foldl (fun acc n => acc.launchNode r1 n) s2).settleRun r.inst
/-- RUN_BEGIN: the checks in their order, then the run; a run of an object that is being loaded waits (R138). -/
def State.runBegin (s0 : State) (q : Nat) : State :=
  match (s0.swq q).head with
  | none => s0
  | some c =>
    let s := s0.restoreCore 2
    let b := c.bytes
    let h := u32 b 8
    if u8 b 0 != 3 then s0
    else if !runFieldsOk b then s.finish q c 0x20 0
    else if s.loads.any fun l => l.handle == h then s0
    else match c.failed, s.object? h with
      | some r, _ => s.finish q c r 0
      | none, none => s.finish q c 0x21 0
      | none, some o =>
        if o.unloading then s.finish q c 0x25 0
        else if o.graphs.length ≤ u16 b 0xC || !(s.swq q).opened || (s.space? (u16 b 0xE)).isNone then s.finish q c 0x21 0
        else if s.taken b then s.finish q c 0x22 0
        else if le b 0x20 8 != 0 && !pairOk b then s.finish q c 0x23 0
        else match s.freeInst with
          | none => s0
          | some i =>
            let r : Run := ⟨i, q, h, u16 b 0xC, b, c.session, [], [], [], false, 0, false⟩
            if le b 0x20 8 = 0 then s.startRun r
            else match s.setupPair r with
              | some s1 => s1.startRun r
              | none => ({ s with frees := s.frees + 1 } : State).finish q c 0x23 0

/-! ### Queue slots at a quantum boundary (R432, R433) -/

def quantum : Nat := 250000
/-- Queues with work. -/
def State.working (s : State) : List Nat := (s.queues.filter fun e => e.2.running.isSome).map (·.1)
/-- The order of R432: level, then how long ago the last mapping ended, then number. -/
def State.rankBefore (s : State) (a b : Nat) : Bool :=
  let x := s.swq a
  let y := s.swq b
  let old (q : Nat) (z : SwQueue) : Nat := if s.mapped q then s.now + 1 else match z.lastEnd with | some t => t + 1 | none => 0
  y.eff < x.eff || (x.eff == y.eff && (old a x < old b y || (old a x == old b y && a < b)))
/-- A queue that has held a slot for one whole quantum is back at its base level. -/
def State.settleLevel (s : State) (q : Nat) : State :=
  let x := s.swq q
  if s.mapped q && x.heldFrom + quantum ≤ s.now then s.setSwq q { x with eff := x.base } else s
/-- Rank, unmap the rest, map the first 64. -/
def State.remap (s : State) : State :=
  let s1 := (s.slotsOf.map (·.1)).foldl (fun acc q => acc.settleLevel q) s
  let best := (sortBy s1.rankBefore s1.working).take slotCount
  let s2 := (s1.slotsOf.map (·.1)).foldl (fun acc q => if best.contains q then acc else acc.unmapQueue q) s1
  best.foldl (fun acc q => if acc.mapped q then acc else acc.mapQueue q) s2

/-! ### Energy budgets and clock plans at a boundary (R436, R460, R461) -/

/-- The sum of the last ten samples, and their mean against a bound, exactly. -/
def Boot.drawn (b : Boot) : Nat := (b.watts.take 10).foldl (fun n w => n + w) 0
def Boot.above (b : Boot) (w : Nat) : Bool := w * (b.watts.take 10).length < b.drawn
def Boot.below (b : Boot) (w : Nat) : Bool := b.drawn < w * (b.watts.take 10).length
def highPower : Nat := 5810
def calmPower : Nat := 5500
def lowerBudget (c : Core) : Core := { c with budget := c.budget - c.budget / 8 }
/-- One eighth up, rounded down, at most to the configured value (R461) (DEDUCED, log 34). -/
def raiseBudget (c : Core) : Core := { c with budget := min c.configured (c.budget + c.budget / 8) }
/-- Change every core's budget. -/
def State.budgets (s : State) (f : Core → Core) : State :=
  { s with cores := ((List.range 768).map fun c => (c, f (s.core c))) ++ s.cores.filter fun e => 768 ≤ e.1 }
/-- What the power core does to the budgets: one eighth down when the mean has passed the limit, up after 100 ms of calm. -/
def State.powerBoundary (s : State) : State :=
  if s.boot.lowPower then { s.budgets lowerBudget with boot := { s.boot with lowPower := false } }
  else if 100 ≤ s.boot.calmMs then s.budgets raiseBudget
  else s
/-- Pre-empt every team, and stop the dies until their clocks have locked again. -/
def State.stopDies (s : State) : State :=
  let s1 := { s with teams := s.teams.map fun t => if t.state == .resident then { t with state := .stopping, drainBy := none } else t }
  (List.range 12).foldl (fun acc d => acc.setDie d { acc.die d with stopped := true }) s1
/-- Harmonics of a clock that a band forbids (R459). -/
def inBand (mhz : Nat) (bands : List (Nat × Nat)) : Bool :=
  bands.any fun b => (List.range 16).any fun h => b.1 ≤ (h + 1) * mhz * 1000 && (h + 1) * mhz * 1000 ≤ b.2
def absDiff (a b : Nat) : Nat := (a - b) + (b - a)
/-- The legal frequency nearest a target in kHz, ties to the lower. -/
def nearest (lo hi target : Nat) (bands : List (Nat × Nat)) : Option Nat :=
  leastBy (fun a b => absDiff (1000 * a) target < absDiff (1000 * b) target)
    (((List.range (hi + 1 - lo)).map fun i => lo + i).filter fun f => !inBand f bands)
/-- The clocks of a plan. -/
def Plan.clocks (p : Plan) : Option (Nat × Nat) :=
  if !p.wellFormed then none
  else match nearest 880 1000 p.f p.bands, nearest 1550 1650 p.g p.bands with
    | some f, some g => some (f, g)
    | _, _ => none
/-- A selected plan takes effect. -/
def State.planBoundary (s : State) : State :=
  match s.boot.selected with
  | none => s
  | some n =>
    match (s.boot.plans[n]?).bind Plan.clocks with
    | some (f, g) =>
      let s1 := s.stopDies
      { s1 with boot := { s1.boot with plan := n, selected := none, fMHz := f, gMHz := g } }
    | none => { s with boot := { s.boot with selected := none } }
/-- QUANTUM_BOUNDARY. -/
def State.quantumBoundary (s : State) : State :=
  ((s.atLeast ((s.now / quantum + 1) * quantum)).remap.powerBoundary).planBoundary.settle

def riseTime : Nat := 10000000
/-- QUEUE_LEVEL_RISE: a queue with work and no slot has waited 10 ms. -/
def State.levelRise (s : State) (q : Nat) : State :=
  let x := s.swq q
  if x.running.isNone || s.mapped q then s
  else (s.atLeast (x.waitFrom + riseTime)).setSwq q { x with eff := min 7 (x.eff + 1), waitFrom := x.waitFrom + riseTime }

/-! ### One meaning per row -/

/-- LOAD_OBJECT (R137, R138). -/
def execLoadObject (c : Intake) (s : State) : Out := .next (s.intake 1 c State.loadCommand)
/-- UNLOAD_OBJECT (R138). -/
def execUnloadObject (c : Intake) (s : State) : Out := .next (s.intake 2 c State.unloadCommand)
/-- UNLOAD_EFFECT (R138). -/
def execUnloadEffect (handle : Nat) (s : State) : Out := .next (s.unloadEffect handle)
/-- RUN_GRAPH (R426, R428): it waits on its queue until RUN_BEGIN. -/
def execRunGraph (c : Intake) (s : State) : Out := .next (s.intake 3 c fun _ _ _ => s)
/-- OPEN_QUEUE (R426). -/
def execOpenQueue (c : Intake) (s : State) : Out := .next (s.intake 4 c State.openQueue)
/-- OPEN_RING (R426, R419). -/
def execOpenRing (c : Intake) (s : State) : Out := .next (s.intake 5 c State.openRing)
/-- CLOSE_RING (R426). -/
def execCloseRing (c : Intake) (s : State) : Out := .next (s.intake 6 c State.closeRing)
/-- UNKNOWN_COMMAND (R426, R427). -/
def execUnknownCommand (c : Intake) (s : State) : Out := .next (s.unknown c)
/-- RUN_BEGIN (R429). -/
def execRunBegin (queue : Nat) (s : State) : Out := .next (s.runBegin queue).settle
/-- QUANTUM_BOUNDARY (R432, R433, R436, R460, R461). -/
def execQuantumBoundary (s : State) : Out := .next s.quantumBoundary
/-- QUEUE_LEVEL_RISE (R433). -/
def execQueueLevelRise (queue : Nat) (s : State) : Out := .next (s.levelRise queue)

end Sys2Proof.Machine
end

