-- ==== Sys2Proof/Machine/Preempt.lean ====
section
/-!
DEFINITION. Pre-emption of a team and its resumption (26 R445 to R450, 21 R375, R382, 18 R307, 19 R324).
-/

namespace Sys2Proof.Machine

def State.groupsOf (s : State) (tuid : Nat) : List Group := s.groups.filter fun g => g.tuid == tuid
def Team.coreNo (t : Team) : Nat := 64 * t.die + t.core
def Team.quadNo (t : Team) : Nat := 16 * t.die + t.core / 4
def State.modGroups (s : State) (tuid : Nat) (f : Group → Group) : State :=
  { s with groups := s.groups.map fun g => if g.tuid = tuid then f g else g }

/-! ### Step 2: fixed operations -/

def State.teamQuiet (s : State) (t : Team) : Bool :=
  let gs := s.groupsOf t.tuid
  (gs.all fun g => g.threads.all Thread.fixedDone) && s.matrixQuiet t.quadNo (gs.map (·.gid))

/-! ### Step 3: blocked units -/

/-- A blocked or parked thread is back at the start of its unit, and its arm is dropped; one that waits at a join, at `tret`, for an access
of its own that has not been sent or for a saved command keeps its state. -/
def Thread.unblock (t : Thread) : Thread :=
  let u := { t with monitor := none, yieldUntil := none }
  match t.status with
  | .blocked .tret _ => u
  | .blocked _ _ => { u with status := .ready }
  | .parked _ _ _ => { u with status := .ready }
  | .storeFull _ _ => { u with status := .ready }
  | .held _ _ => { u with status := .ready }
  | _ => u
def State.unblockTeam (s : State) (tuid : Nat) : State :=
  let gids := (s.groupsOf tuid).map (·.gid)
  let s1 := s.modGroups tuid fun g => { g with threads := g.threads.map Thread.unblock }
  { s1 with monitors := s1.monitors.filter fun m => match m.who with | .thread g _ => !gids.contains g | .peer _ _ _ _ => true }
/-- Cores of a team. -/
def Team.cores (t : Team) : List Nat := if t.paired then [t.coreNo, t.coreNo + 1] else [t.coreNo]
/-- Somebody waits for a page of a core's fault buffer: a parked thread, or the entry of a trap in a group that is not on its way out. -/
def State.shares (s : State) (core : Nat) (e : FaultEntry) : Bool :=
  !(s.parkedOn core (s.onEntry e)).isEmpty
    || s.groups.any fun g => g.coreNo == core && g.entering.isSome && e.stackOf == some g.gid
      && ((s.team? g.tuid).map (·.state)) == some .resident
/-- Parked threads have left their entries; those that nobody shares go, and threads that waited for one translate again (R305, R307). -/
def State.leaveFaults (s : State) (core : Nat) : State :=
  let k := s.core core
  (s.setCore core { k with faults := k.faults.filter (s.shares core) }).retryFull core

/-! ### Step 4: copies (R375) -/

/-- A team's copies that have begun and go on, or await answers. -/
def Copy.drains (c : Copy) (tuid : Nat) : Bool := c.tuid == tuid && c.active && (!c.squashed || c.outstanding != 0)
def State.draining (s : State) (tuid : Nat) : Bool := s.dies.any fun d => d.2.channels.any fun c => c.2.queue.any fun x => x.drains tuid
/-- Copies that are saved: queued, undecided, or squashed with every request answered that they had sent. -/
def Copy.saves (c : Copy) (tuid : Nat) : Bool := c.tuid == tuid && (!c.active || (c.squashed && c.outstanding == 0))
def Copy.again (c : Copy) : Copy := { c with phase := .queued, squashed := false, image := [], crc := 0, count := 0, got := [], ask := none }
def State.savedCopies (s : State) (tuid : Nat) : List (Nat × Nat × Copy) :=
  s.dies.flatMap fun d => d.2.channels.flatMap fun c => (c.2.queue.filter fun x => x.saves tuid).map fun x => (d.1, c.1, x.again)
/-- Take them off their channels into the team. -/
def State.saveCopies (s : State) (tuid : Nat) : State :=
  let l := s.savedCopies tuid
  let s1 := s.modTeam tuid fun t => { t with copies := t.copies ++ l }
  { s1 with dies := s1.dies.map fun (d : Nat × Die) => (d.1, { d.2 with channels := d.2.channels.map fun (c : Nat × Channel) =>
      (c.1, { c.2 with queue := c.2.queue.filter fun x => !x.saves tuid }) }) }

/-! ### Step 5: discard or save (R446) -/

/-- The region and depth of a thread at its program counter. -/
def Thread.regionNow (t : Thread) (l : Launch) : Option (Word × Nat) := t.entered (l.regionAt t.pc)
def Thread.inRegion (t : Thread) (l : Launch) : Bool :=
  match t.regionNow l with
  | some (_, d) => t.ret.length == d
  | none => false
def State.discards (s : State) (t : Team) (l : Launch) : Bool :=
  let gs := s.groupsOf t.tuid
  (gs.all fun g => !g.handler && g.entering.isNone && g.liveThreads.all fun e => e.2.inRegion l)
    && (heldCmds (s.quad t.quadNo).cmds (gs.map (·.gid))).isEmpty && t.copies.isEmpty
    && gs.all fun g => g.threads.all fun x => x.ops.all fun o => o.guard.isNone

/-- A thread of a discarded team stands at its region's entry (R447) (DEDUCED, log 35). -/
def Thread.discard (t : Thread) (l : Launch) (tag : Nat) : Thread :=
  match t.exited, t.regionNow l with
  | false, some (e, d) =>
    { t.leaveUnit e false with pc := e, region := some (e, d), repctr := 0, spinAdr := 0, spin := 0, forced := none, status := .ready, tag := tag }
  | _, _ => t
/-- The team memory of a team that starts anew (R18). -/
def State.freshMem (s : State) (t : Team) : Memory :=
  if t.isHandler then []
  else match s.launch? t.lid with
    | some l => wrBytes [] 0 (s.loadedBytes l.kernel.imageBase l.kernel.imageSize)
    | none => []
def State.discardTeam (s : State) (t : Team) (l : Launch) : State :=
  let s1 := (s.groupsOf t.tuid).foldl (fun acc g =>
    acc.bump.modGroup g.gid fun h => { h with threads := h.threads.map fun x => x.discard l acc.fresh }) s
  s1.modTeam t.tuid fun x => { x with state := .discarded, mem := s1.freshMem x, mem2 := [] }
/-- The pages of a team's save area: its team memory, and one for the rest (R448, DESIGN CHOICE, log 35). -/
def Team.areaPages (t : Team) : Nat := 1 + pagesFor (t.cores.length * t.size)
/-- A team saved whole keeps its claims, their contents and its pending commands, and the memory core takes its save area (R448) (DEDUCED,
log 35). -/
def State.saveTeam (s0 : State) (t : Team) : State :=
  let (fs, s) := match s0.takeFrames t.die t.areaPages with | some r => r | none => ([], s0)
  let gids := (s.groupsOf t.tuid).map (·.gid)
  let q := s.quad t.quadNo
  let mine (h : Option Nat) : Bool := match h with | some g => gids.contains g | none => false
  s.modTeam t.tuid fun x => { x with state := .saved, slots := q.slots.filter fun e => mine e.2.holder,
                                     tiles := q.tiles.filter fun e => mine e.2.holder, cmds := heldCmds q.cmds gids, area := fs }

/-! ### Step 7: release -/

/-- The claims and commands of a team leave its quad. -/
def State.leaveQuad (s : State) (t : Team) : State :=
  let s1 := (s.groupsOf t.tuid).foldl (fun acc g => acc.setQuad t.quadNo ((acc.quad t.quadNo).dropGroup g.gid)) s
  s1.settleQuad t.quadNo
/-- A core's dealer stops and its chutes are emptied when they belong to the launch; the team keeps the dealer's start for that half of
it (R382). What is still blocked in `push` there finds room. -/
def State.leaveChutes (s : State) (t : Team) (core : Nat) : State :=
  let k := s.core core
  let start := Dealer.start t.lid t.tuid k.dealer.base k.dealer.d0 k.dealer.d1
  if k.owner != some t.lid then s
  else
    let s1 := if k.dealer.running then
        s.modTeam t.tuid fun x => { x with dealers := x.dealers ++ [(core - t.coreNo, start)] }
      else s
    let s2 := (s1.setCore core { k with chutes := [[], [], [], []], dealer := k.stoppedDealer }).lapseChutes core
    (List.range 4).foldl (fun acc ch => acc.serveChute core ch 128) s2
/-- The quantum boundary after now (R432) (DEDUCED, log 35). -/
def nextBoundary (now : Nat) : Nat := (now / quantum + 1) * quantum

/-- The launch core may set a die's drain limit, from 1 to 500 us (R375, DESIGN CHOICE, log 35). -/
def State.setLimit (s : State) (die : Nat) : State :=
  let s1 := { s with frees := s.frees + 1 }
  match Config.drainSetting s.frees with
  | some n => s1.setDie die { s1.die die with drainLimit := 1 + n % 500 }
  | none => s1
/-- PREEMPT: once the fixed operations are done, blocked units are undone and copies drain, and when they have drained the team is discarded
or saved and its core is free. -/
def State.preemptDrain (s : State) (t : Team) : State :=
  let s1 := (t.cores.foldl State.leaveFaults (s.unblockTeam t.tuid)).saveCopies t.tuid
  if t.drainBy.isSome then s1
  else
    let s2 := s1.setLimit t.die
    s2.modTeam t.tuid fun x => { x with drainBy := some (s2.now + 1000 * (s2.die t.die).drainLimit) }
def State.preemptEnd (s : State) (tuid : Nat) : State :=
  match s.team? tuid with
  | none => s
  | some t =>
    match s.launch? t.lid with
    | none => s
    | some l =>
      let s1 := if s.discards t l then s.discardTeam t l else s.saveTeam t
      let s2 := s1.modTeam tuid fun x => { x with drainBy := some (nextBoundary s1.now) }
      t.cores.foldl (fun acc c => acc.leaveChutes t c) (s2.leaveQuad t)
/-- The team is to be discarded, or its die has frames for its save area: else its release waits (R448) (DEDUCED, log 35). -/
def State.saveRoom (s : State) (tuid : Nat) : Bool :=
  match s.team? tuid with
  | none => true
  | some t =>
    match s.launch? t.lid with
    | none => true
    | some l => s.discards t l || (s.takeFrames t.die t.areaPages).isSome
def State.preempt (s : State) (tuid : Nat) : State :=
  match s.team? tuid with
  | none => s
  | some t =>
    if t.state != .stopping || !s.teamQuiet t then s
    else
      let s1 := s.preemptDrain t
      if s1.draining tuid || !s1.saveRoom tuid then s1 else (s1.preemptEnd tuid).settle

/-! ### Resumption (R449) -/

/-- Groups of a team that have not retired. -/
def State.goingOn (s : State) (tuid : Nat) : List Group := (s.groupsOf tuid).filter fun g => !g.retired
/-- The lanes that a group needs: those of threads whose contexts are not free. -/
def Group.lanes (g : Group) : List Nat := (g.threads.filter fun t => !t.freed).map (·.lane)
/-- A place for a group at its own lanes: context index and register base. -/
def placeAtLanes (occ : List Lane) (lanes : List Nat) (nregs : Nat) : Option (Nat × Nat) :=
  let l := occ.filter fun x => lanes.contains x.lane
  let ok (b : Nat) : Bool := b + nregs ≤ 2048 && l.all fun x => b + nregs ≤ x.base || x.base + x.nregs ≤ b
  match (List.range 32).find? fun ctx => !(l.any fun x => x.ctx == ctx), (sortBy (fun a b => a < b) (0 :: l.map fun x => x.base + x.nregs)).find? ok with
  | some ctx, some b => some (ctx, b)
  | _, _ => none
/-- Places for groups one after another on a core. -/
def placeGroups (occ : List Lane) : List Group → Option (List (Nat × Nat × Nat))
  | [] => some []
  | g :: r =>
    match placeAtLanes occ g.lanes g.nregs with
    | none => none
    | some (ctx, b) =>
      (placeGroups ((g.lanes.map fun i => (⟨i, ctx, b, g.nregs⟩ : Lane)) ++ occ) r).map fun l => (g.gid, ctx, b) :: l
def State.groupsFit (s : State) (core size weight : Nat) (gs : List Group) : Option (List (Nat × Nat × Nat × Nat)) :=
  if teamMemSize < s.teamMemOn core + size || (s.core core).budget < s.weightOn core + weight * gs.length then none
  else (placeGroups (s.lanesOf core) gs).map fun l => l.map fun e => (e.1, core, e.2.1, e.2.2)
/-- The quad has the team's slot and tile numbers free, and entries for its saved passes (R256). -/
def State.claimsFit (s : State) (t : Team) (quad : Nat) : Bool :=
  let q := s.quad quad
  q.entries + (t.cmds.filter fun c => c.op.isPass).length ≤ 32 && (t.slots.all fun e => (q.slot e.1).holder.isNone) && t.tiles.all fun e => (q.tile e.1).holder.isNone
/-- The team's places on a core or pair. -/
def State.resumeFits (s : State) (t : Team) (weight core : Nat) : Option (List (Nat × Nat × Nat × Nat)) :=
  let gs := s.goingOn t.tuid
  if (s.die (core / 64)).stopped || !s.claimsFit t (16 * (core / 64) + core % 64 / 4) then none
  else if t.paired then
    match s.groupsFit core t.size weight (gs.filter fun g => g.number % 2 == 0),
          s.groupsFit (core + 1) t.size weight (gs.filter fun g => g.number % 2 == 1) with
    | some a, some b => some (a ++ b)
    | _, _ => none
  else s.groupsFit core t.size weight gs
/-- The core that a team resumes on: its own die first, another of the mask once a boundary has passed. -/
def State.resumeCore (s : State) (t : Team) (l : Launch) : Option (Nat × List (Nat × Nat × Nat × Nat)) :=
  let w := energyWeight l.kernel.energy
  let want : Want := ⟨0, 0, 0, t.paired, 0, 0⟩
  let pick (ds : List Nat) : Option (Nat × List (Nat × Nat × Nat × Nat)) :=
    leastBy (fun x y => s.standing x.1 want < s.standing y.1 want || (s.standing x.1 want == s.standing y.1 want && x.1 < y.1))
      ((coresOf ds t.paired).filterMap fun c => (s.resumeFits t w c).map fun p => (c, p))
  match pick ([t.die].filter fun d => !s.pressedOn l d) with
  | some x => some x
  | none => if s.now < t.drainBy.getD 0 then none else pick ((s.openDies l).filter fun d => d != t.die)
/-- Put saved copies back on their channels, in the order of their starts. -/
def State.restoreCopies (s : State) (l : List (Nat × Nat × Copy)) : State :=
  l.foldl (fun acc e =>
    let d := acc.die e.1
    let ch := d.channel e.2.1
    acc.setDie e.1 (d.setChannel e.2.1 { ch with queue := insertBy (fun x y => x.cid < y.cid) e.2.2 ch.queue })) s
/-- The dealers of a team that resumed restart, each when that of its core is free (R382). -/
def State.resumeDealers (s : State) (tuid : Nat) : State :=
  match s.team? tuid with
  | none => s
  | some t =>
    if t.state != .resident then s
    else t.dealers.foldl (fun acc e =>
      let c := t.coreNo + e.1
      let k := acc.core c
      if k.takes t.lid then
        ((acc.setCore c { k with failed := false, dealer := e.2 }).ownChutes c t.lid).modTeam tuid fun x =>
          { x with dealers := x.dealers.filter fun d => d.1 != e.1 }
      else acc) s
/-- A saved command on its new quad: a pass enters the reservation table anew, at its launch's priority (R256, R449). -/
def MatCmd.reenter (c : MatCmd) (now prio : Nat) : MatCmd := { c with entered := now, prio := prio, rises := 0 }
/-- A thread on its new core: ages start anew. -/
def Thread.arrive (t : Thread) (now : Nat) : Thread := { t with stamp := now, lastIssue := now, forced := none }
/-- TEAM_RESUME. -/
def State.teamResume (s : State) (tuid : Nat) : State :=
  match s.team? tuid with
  | none => s
  | some t =>
    if t.state == .resident then s.resumeDealers tuid
    else if t.state == .stopping then s
    else match s.launch? t.lid with
      | none => s
      | some l =>
        if !(match s.queueOf l with | some q => s.mapped q | none => true) then s
        else match s.resumeCore t l with
          | none => s
          | some (core, places) =>
            let quad := 16 * (core / 64) + core % 64 / 4
            let s1 := places.foldl (fun acc p =>
              acc.modGroup p.1 fun g => { g with die := p.2.1 / 64, core := p.2.1 % 64, ctx := p.2.2.1, regBase := p.2.2.2,
                                                 threads := g.threads.map fun x => x.arrive (acc.core p.2.1).cycles }) s
            let q := s1.quad quad
            let s2 := s1.setQuad quad { slots := t.slots.foldl (fun m e => tset m e.1 e.2) q.slots,
                                        tiles := t.tiles.foldl (fun m e => tset m e.1 e.2) q.tiles,
                                        cmds := t.cmds.map (fun c => c.reenter (s1.quadNow quad) l.prio) ++ q.cmds }
            let s3 := s2.modTeam tuid fun x => { x with die := core / 64, core := core % 64, state := .resident, drainBy := none,
                                                        slots := [], tiles := [], cmds := [], copies := [], area := [] }
            let s4 := { s3 with frames := s3.frames.filter fun f => !t.area.contains f }
            let s5 := (s4.goingOn tuid).foldl (fun acc g => match g.entering with
              | some e => acc.askRecords g e
              | none => acc) s4
            (((s5.restoreCopies t.copies).resumeDealers tuid).settleQuad quad).sendPeers.settle

/-! ### One meaning per row -/

/-- PREEMPT (R445 to R448). -/
def execPreempt (tuid : Nat) (s : State) : Out := .next (s.preempt tuid)
/-- TEAM_RESUME (R449). -/
def execTeamResume (tuid : Nat) (s : State) : Out := .next (s.teamResume tuid)

end Sys2Proof.Machine
end

