-- ==== Sys2Proof/Machine/Debug.lean ====
section
/-!
DEFINITION. Halts, single steps, and a debugger's reads and writes of a halted group (26 R451 to R453).
-/

namespace Sys2Proof.Machine

/-- HALT_REQUEST: issue stops at the next stop points; the halt completes when the fixed operations are done (R451). -/
def State.haltRequest (s : State) (gid : Nat) : State :=
  match s.group? gid with
  | none => s
  | some g => if g.halted then s else (s.modGroup gid fun g => { g with halting := true }).settle

/-! ### Steps (R452) -/

/-- The ready threads of a halted group, as the grouping stage would see them. -/
def State.haltedReady (s : State) (g : Group) : List Cand :=
  g.tidsOf.filterMap fun e =>
    if e.2.ready && !e.2.held && e.2.inv.isNone && (!g.handler || e.2.inHandler) && g.entering.isNone && !s.operandWait g e.2 && s.teamRuns g e.2
      then some ⟨g, e.1, e.2⟩ else none
/-- The sub-groups of some threads: one program counter and one tag each, the lowest lane's first. -/
def subGroups : List Cand → Nat → List (List Nat)
  | [], _ => []
  | _, 0 => []
  | x :: r, n + 1 =>
    let same (y : Cand) : Bool := y.th.pc == x.th.pc && y.th.tag == x.th.tag
    (x.tid :: (r.filter same).map (·.tid)) :: subGroups (r.filter fun y => !same y) n
/-- STEP_ALL: every ready thread is to issue one unit, one sub-group after another. -/
def State.stepAll (s : State) (gid : Nat) : State :=
  match s.group? gid with
  | none => s
  | some g => if g.halted && g.stepping.isEmpty then s.modGroup gid fun h => { h with stepping := subGroups (s.haltedReady g) 64 } else s
/-- A tag that a step advances in part ends: each of its threads has one of its own (R25). -/
def State.endTag (s : State) (g : Group) (tag : Nat) : State :=
  (List.range g.threads.length).foldl (fun acc i => match g.threads[i]? with
    | some t => if t.tag = tag && !t.exited then acc.loneTag g.gid i else acc
    | none => acc) s
/-- STEP_ONE: the sub-group that the grouping stage would pick. -/
def State.stepOne (s : State) (gid : Nat) : State :=
  match s.group? gid with
  | none => s
  | some g =>
    if !g.halted || !g.stepping.isEmpty then s
    else
      let rs := s.haltedReady g
      match leastBy Cand.before (counted (s.core g.coreNo).cycles rs) with
      | none => s
      | some o =>
        let sub := rs.filter fun x => x.th.pc == o.th.pc && x.th.tag == o.th.tag
        let part := g.threads.any fun t => t.tag == o.th.tag && !t.exited && !(sub.any fun x => x.th.lane == t.lane)
        let s1 := if part then s.endTag g o.th.tag else s
        s1.modGroup gid fun h => { h with stepping := [sub.map (·.tid)] }
/-! ### Resume (R453) -/

/-- A debugger's stop may end an `mwait` with no store (R318): which of them return is free (DESIGN CHOICE, log 4). -/
def Thread.stopReturns (t : Thread) (b : Bool) (now : Nat) : Thread :=
  match t.status with
  | .blocked .mwait npc => if b then { t with monitor := none, status := .ready, pc := npc, stamp := now } else t
  | _ => t
def State.stopReturns (s : State) (gid : Nat) : State :=
  let done := match s.group? gid with
    | some g => (g.tidsOf.filter fun e => e.2.inMwait && s.draw.1.getLsbD e.1).map fun e => (gid, e.1)
    | none => []
  let s1 := (s.draw.2.modGroup gid fun h =>
    { h with threads := h.threads.mapIdx fun i t => t.stopReturns (s.draw.1.getLsbD i) (s.core h.coreNo).cycles }).splitLate done
  { s1 with monitors := s1.monitors.filter fun m => match m.who with
    | .thread g i => g != gid || ((s1.thread? g i).map (·.monitor.isSome)).getD false
    | .peer _ _ _ _ => true }
/-- DEBUG_RESUME: the threads go on, held traps first. -/
def State.debugResume (s : State) (gid : Nat) : State :=
  match s.group? gid with
  | none => s
  | some g =>
    if !(g.halted || g.halting) then s
    else
      let s1 := (s.stopReturns gid).modGroup gid fun h =>
        { h.letGo (s.core h.coreNo).cycles with halted := false, halting := false, haltRecord := none, stepping := [] }
      match g.heldTraps with
      | t :: r =>
        if g.handler || g.entering.isSome then s1.settle
        else ((s1.modGroup gid fun h =>
          { t.threads.foldl (fun x y => x.modThread y.tid fun th => { th with held := false }) h with heldTraps := r }).enterTrap gid t).settle
      | [] => s1.settle

/-! ### State (R448, R451) -/

/-- The state of a thread in its group's saved state (R15): 0 ready, 1 operand wait, 2 join wait, 3 blocked, 4 parked, 5 exited (DESIGN CHOICE,
log 47). -/
def Thread.stateCode (t : Thread) : Nat :=
  match t.status with
  | .ready => 0
  | .access _ _ | .storeFull _ _ | .matrix _ _ | .held _ _ => 1
  | .join _ _ _ => 2
  | .blocked _ _ => 3
  | .parked _ _ _ => 4
  | .exited => 5
/-- A thread that waits in a unit becomes ready at it, or a thread exits. -/
def Thread.setState (t : Thread) (k : Nat) : Thread :=
  match k, t.status with
  | 0, .storeFull _ _ | 0, .held _ _ | 0, .join _ _ _ | 0, .blocked _ _ | 0, .parked _ _ _ => { t with status := .ready }
  | 5, _ => t.exit
  | _, _ => t
/-- A part of a pending store: its address, its bytes by eight, its size. -/
def AccOp.data : AccOp → List Byte
  | .store bs => bs
  | _ => []
def Access.storePart (a : Access) (part : Nat) : Dword :=
  match part with
  | 0 => a.va
  | 1 => BitVec.ofNat 64 (leNat (a.op.data.take 8))
  | 2 => BitVec.ofNat 64 (leNat (a.op.data.drop 8))
  | _ => BitVec.ofNat 64 a.size
/-- New bytes for a pending store that has not been sent; its length stays. -/
def Access.setPart (a : Access) (part : Nat) (v : Dword) : Access :=
  match a.op, part with
  | .store bs, 1 => if a.queued then a else { a with op := .store ((leBytes 8 v.toNat).take bs.length ++ bs.drop 8) }
  | .store bs, 2 => if a.queued then a else { a with op := .store (bs.take 8 ++ (leBytes 8 v.toNat).take (bs.length - 8)) }
  | _, _ => a
def setStore (k part : Nat) (v : Dword) : List Access → List Access
  | [] => []
  | a :: r =>
    if !a.op.isStore then a :: setStore k part v r
    else match k with
      | 0 => a.setPart part v :: r
      | n + 1 => a :: setStore n part v r
/-- Read an item of a halted group. -/
def Group.item (g : Group) (i : DebugItem) : Dword :=
  let th (t : Nat) (f : Thread → Dword) : Dword := match g.threads[t]? with | some x => f x | none => 0
  match i with
  | .pc t => th t fun x => x.pc.setWidth 64
  | .vreg t n => th t fun x => (x.reg n).setWidth 64
  | .preg t n => th t fun x => if x.pred n then 1 else 0
  | .bracketLo t n => th t fun x => (x.bracket n).flo ++ (x.bracket n).lo
  | .bracketHi t n => th t fun x => (x.bracket n).fhi ++ (x.bracket n).hi
  | .bracketState t n => th t fun x => (x.bracket n).st.setWidth 64
  | .repctr t => th t fun x => BitVec.ofNat 64 x.repctr
  | .lfsr t => th t fun x => x.lfsr.setWidth 64
  | .sreg n => nth g.s n 0
  | .guardSlot n => (nth g.g n 0).setWidth 64
  | .window => g.window.setWidth 64
  | .trapbase => g.trapbase.setWidth 64
  | .trapcause => g.trapcause.setWidth 64
  | .trapepc => g.trapepc.setWidth 64
  | .trapinfo => g.trapinfo
  | .trapmask => g.trapmask
  | .ctxstate t => th t fun x => (ctxState g x).setWidth 64
  | .unacked t => th t fun x => BitVec.ofNat 64 x.unacked
  | .spinCount t => th t fun x => BitVec.ofNat 64 x.spin
  | .spinAdr t => th t fun x => x.spinAdr.setWidth 64
  | .ret t n => th t fun x => (nth x.ret n 0).setWidth 64
  | .joinAdr t => th t fun x => match x.status with | .join a _ _ => a.setWidth 64 | _ => 0
  | .joinMask t => th t fun x => match x.status with | .join _ m _ => m | _ => 0
  | .stack t off => th t fun x => BitVec.ofNat 64 (rdLe x.stack off 8)
  | .tag t => th t fun x => BitVec.ofNat 64 x.tag
  | .state t => th t fun x => BitVec.ofNat 64 x.stateCode
  | .store t k part => th t fun x => match (x.ops.filter (·.op.isStore))[k]? with | some a => a.storePart part | none => 0
  | .heldTrap k part => match g.heldTraps[k]? with
    | some x => nth [x.cause.setWidth 64, x.info, x.threads.foldl (fun m y => m ||| (1 <<< y.tid : BitVec 64)) 0] part 0
    | none => 0
  | .handlerMode => if g.handler then 1 else 0
  | .haltCode => match g.haltRecord with | some (c, _) => c.setWidth 64 | none => 0
  | .haltPc t => match g.haltRecord.bind fun r => r.2.find? fun e => e.1 == t with | some (_, w) => w.setWidth 64 | none => 0
  | .tileCell _ _ _ _ | .tileRecord _ _ | .slotByte _ _ _ | .slotRecord _ _ | .slotScale _ _ _ | .guarded _ _ | .teamMem _ => 0
/-- Write an item. A thread whose program counter is written goes on elsewhere (R240); p0 stays true. -/
def Group.setItem (g : Group) (i : DebugItem) (v : Dword) : Group :=
  let w : Word := v.setWidth 32
  let br (t n : Nat) (f : Bracket → Bracket) : Group := g.modThread t fun x => { x with b := x.b.modify n f }
  match i with
  | .pc t => g.modThread t fun x => { x.leaveUnit w true with pc := w }
  | .vreg t n => g.modThread t fun x => x.setReg n w
  | .preg t n => g.modThread t fun x => x.setPred n (v.getLsbD 0)
  | .bracketLo t n => br t n fun b => { b with lo := w, flo := v.extractLsb' 32 32 }
  | .bracketHi t n => br t n fun b => { b with hi := w, fhi := v.extractLsb' 32 32 }
  | .bracketState t n => br t n fun b => { b with st := v.setWidth 2 }
  | .repctr t => g.modThread t fun x => { x with repctr := v.toNat % 64 }
  | .lfsr t => g.modThread t fun x => { x with lfsr := w }
  | .sreg n => { g with s := g.s.set n v }
  | .guardSlot n => { g with g := g.g.set n (v.setWidth 2) }
  | .window => { g with window := v.setWidth 9 }
  | .trapbase => { g with trapbase := w }
  | .trapcause => { g with trapcause := w }
  | .trapepc => { g with trapepc := w, epcWritten := true }
  | .trapinfo => { g with trapinfo := v }
  | .trapmask => { g with trapmask := v }
  | .spinCount t => g.modThread t fun x => { x with spin := min 8 v.toNat }
  | .spinAdr t => g.modThread t fun x => { x with spinAdr := w }
  | .ret t n => g.modThread t fun x => { x with ret := x.ret.set n w }
  | .joinAdr t => g.modThread t fun x => { x with status := match x.status with | .join _ m n => .join w m n | u => u }
  | .joinMask t => g.modThread t fun x => { x with status := match x.status with | .join a _ n => .join a v n | u => u }
  | .stack t off => if off + 8 ≤ 4096 then g.modThread t fun x => { x with stack := wrBytes x.stack off (leBytes 8 v.toNat) } else g
  | .unacked t => g.modThread t fun x => { x with unacked := v.toNat }
  | .tag t => g.modThread t fun x => { x with tag := v.toNat }
  | .state t => g.modThread t fun x => x.setState v.toNat
  | .store t k part => g.modThread t fun x => { x with ops := setStore k part v x.ops }
  | .heldTrap k part => { g with heldTraps := g.heldTraps.modify k fun x =>
      match part with | 0 => { x with cause := v.setWidth 16 } | 1 => { x with info := v } | _ => x }
  | .handlerMode => { g with handler := v.getLsbD 0, threads := g.threads.mapIdx fun i x => { x with inHandler := v.getLsbD 0 && g.trapmask.getLsbD i } }
  | .ctxstate _ | .haltCode | .haltPc _ | .tileCell _ _ _ _ | .tileRecord _ _ | .slotByte _ _ _ | .slotRecord _ _ | .slotScale _ _ _ | .guarded _ _
  | .teamMem _ => g
/-- A group's claim of a slot or a tile as its record names it: core within the quad, context, base lane in eights (R249). -/
def Group.holderBits (g : Group) : Nat := g.core % 4 * 2 ^ 9 + g.ctx * 16 + g.base / 8 * 2
/-- The records of R249 and R250. -/
def Slot.recordOf (x : Slot) (g : Group) : Nat :=
  x.ts.toNat * 2 ^ 32 + x.fmt.toNat * 2 ^ 24 + x.block.toNat * 2 ^ 22 + x.bscale.toNat * 2 ^ 20 + x.nrows * 2 ^ 13
    + (if x.filled then 2 ^ 12 else 0) + 2 ^ 11 + g.holderBits
def Tile.recordOf (x : Tile) (g : Group) : Nat :=
  x.tsB.toNat * 2 ^ 96 + x.tsA.toNat * 2 ^ 64 + (x.anchor % 2048).toNat * 2 ^ 53 + x.aslot * 2 ^ 50 + (if x.tsset then 2 ^ 49 else 0)
    + x.mode.toNat * 2 ^ 47 + x.n * 2 ^ 40 + 2 ^ 11 + g.holderBits / 2 % 2 ^ 10 * 2
/-- A record with one of its 32-bit words written; its holder stays. -/
def wordSet (record k : Nat) (w : Word) : Nat := record - record / 2 ^ (32 * k) % 2 ^ 32 * 2 ^ (32 * k) + w.toNat * 2 ^ (32 * k)
def Slot.ofRecord (x : Slot) (r : Nat) : Slot :=
  { x with ts := BitVec.ofNat 32 (r / 2 ^ 32), fmt := BitVec.ofNat 8 (r / 2 ^ 24), block := BitVec.ofNat 2 (r / 2 ^ 22),
           bscale := BitVec.ofNat 2 (r / 2 ^ 20), nrows := r / 2 ^ 13 % 128, filled := r / 2 ^ 12 % 2 = 1 }
def Tile.ofRecord (x : Tile) (r : Nat) : Tile :=
  { x with tsB := BitVec.ofNat 32 (r / 2 ^ 96), tsA := BitVec.ofNat 32 (r / 2 ^ 64),
           anchor := (BitVec.ofNat 11 (r / 2 ^ 53)).toInt, aslot := r / 2 ^ 50 % 8, tsset := r / 2 ^ 49 % 2 = 1,
           mode := BitVec.ofNat 2 (r / 2 ^ 47), n := r / 2 ^ 40 % 128 }
/-- The part of a cell by number. -/
def cellPart (k : Nat) : CellPart := match k with | 0 => .lo | 1 => .mid | 2 => .hi | _ => .flg
/-- A part of a pending guarded command, or of a command that stands behind one (R448): its guard's slot and sense, and the handles it names (R267)
(DESIGN CHOICE, log 47). -/
def MatCmd.part (c : MatCmd) (k : Nat) : Dword :=
  match k, c.guard with
  | 0, some p => BitVec.ofNat 64 (256 + p.gs.toNat + if p.sns then 16 else 0)
  | 0, none => 0
  | _, _ => BitVec.ofNat 64 (leNat (c.handles.map (BitVec.ofNat 8)))
/-- A guarded command stands on another slot, in another sense. -/
def MatCmd.setPart (c : MatCmd) (k : Nat) (v : Dword) : MatCmd :=
  match k, c.guard with
  | 0, some p => { c with guard := some { p with gs := v.setWidth _, sns := v.getLsbD 4 } }
  | _, _ => c
/-- A dword of the memory of a group's team, by team offset (R18, R19). -/
def State.teamPlace (s : State) (g : Group) (off : Nat) : Option Place :=
  (s.team? g.tuid).bind fun t => (t.locate off 8).map fun e => .team g.tuid e.1 e.2
def State.itemOf (s : State) (g : Group) (i : DebugItem) : Dword :=
  let q := s.quad g.quadNo
  match i with
  | .tileCell t r c k => if q.heldTile g.gid t then (((q.tile t).cell r c).read (cellPart k)).setWidth 64 else 0
  | .tileRecord t k => if q.heldTile g.gid t then BitVec.ofNat 64 ((q.tile t).recordOf g / 2 ^ (32 * k) % 2 ^ 32) else 0
  | .slotByte o r n => if q.heldSlot g.gid o then (nth (nth (q.slot o).rows r []) n 0).setWidth 64 else 0
  | .slotRecord o k => if q.heldSlot g.gid o then BitVec.ofNat 64 ((q.slot o).recordOf g / 2 ^ (32 * k) % 2 ^ 32) else 0
  | .slotScale o r n => if q.heldSlot g.gid o then (nth (nth (q.slot o).scales r []) n 0).setWidth 64 else 0
  | .guarded k part => match (heldCmds q.cmds [g.gid])[k]? with | some c => c.part part | none => 0
  | .teamMem off => match s.teamPlace g off with | some p => BitVec.ofNat 64 (leNat (s.readPlace p 8)) | none => 0
  | i => g.item i
def State.setItemOf (s : State) (g : Group) (i : DebugItem) (v : Dword) : State :=
  let q := s.quad g.quadNo
  let w : Word := v.setWidth 32
  match i with
  | .tileCell t r c k =>
    if q.heldTile g.gid t then
      let x := q.tile t
      s.setQuad g.quadNo (q.setTile t (x.setCell r c ((x.cell r c).write (cellPart k) (x.mode == 1) w)))
    else s
  | .tileRecord t k =>
    if q.heldTile g.gid t && k < 4 then s.setQuad g.quadNo (q.setTile t ((q.tile t).ofRecord (wordSet ((q.tile t).recordOf g) k w))) else s
  | .slotByte o r n =>
    if q.heldSlot g.gid o then
      let x := q.slot o
      s.setQuad g.quadNo (q.setSlot o { x with rows := x.rows.modify r fun l => l.set n (v.setWidth 8) })
    else s
  | .slotRecord o k =>
    if q.heldSlot g.gid o && k < 2 then s.setQuad g.quadNo (q.setSlot o ((q.slot o).ofRecord (wordSet ((q.slot o).recordOf g) k w))) else s
  | .slotScale o r n =>
    if q.heldSlot g.gid o then
      let x := q.slot o
      s.setQuad g.quadNo (q.setSlot o { x with scales := x.scales.modify r fun l => l.set n (v.setWidth 8) })
    else s
  | .guarded k part => match (heldCmds q.cmds [g.gid])[k]? with
    | some c => s.setQuad g.quadNo { q with cmds := q.cmds.map fun x => if x.cid = c.cid then x.setPart part v else x }
    | none => s
  | .teamMem off => match s.teamPlace g off with | some p => s.writePlace p (leBytes 8 v.toNat) | none => s
  | i => s.modGroup g.gid fun h => h.setItem i v
/-- DEBUG_STATE_READ. -/
def State.debugRead (s : State) (gid : Nat) (i : DebugItem) : State :=
  match s.group? gid with
  | none => s
  | some g => if g.halted then s.answer (.debug gid (s.itemOf g i)) else s
/-- DEBUG_STATE_WRITE. -/
def State.debugWrite (s : State) (gid : Nat) (i : DebugItem) (v : Dword) : State :=
  match s.group? gid with
  | none => s
  | some g => if g.halted then s.setItemOf g i v else s

/-! ### One meaning per row -/

/-- HALT_REQUEST (R451). -/
def execHaltRequest (gid : Nat) (s : State) : Out := .next (s.haltRequest gid)
/-- STEP_ALL (R452). -/
def execStepAll (gid : Nat) (s : State) : Out := .next (s.stepAll gid)
/-- STEP_ONE (R452). -/
def execStepOne (gid : Nat) (s : State) : Out := .next (s.stepOne gid)
/-- DEBUG_RESUME (R453). -/
def execDebugResume (gid : Nat) (s : State) : Out := .next (s.debugResume gid)
/-- DEBUG_STATE_READ (R451). -/
def execDebugStateRead (gid : Nat) (item : DebugItem) (s : State) : Out := .next (s.debugRead gid item)
/-- DEBUG_STATE_WRITE (R451). -/
def execDebugStateWrite (gid : Nat) (item : DebugItem) (value : BitVec 64) (s : State) : Out := .next (s.debugWrite gid item value)

end Sys2Proof.Machine
end

