-- ==== Sys2Proof/Machine/Integer.lean ====
section
/-!
DEFINITION. Class 0: integer arithmetic (08 R143 to R149).
-/

namespace Sys2Proof.Machine

/-- Saturation: the variant's own, or MOD SAT (R73). -/
def Ctx.sat (c : Ctx) (v : Bool) : Bool := v || c.mod.sat

/-- `iadd` (R143) in one thread. -/
def Ctx.iadd (c : Ctx) (tid : Nat) : Except TrapInfo VecOut := do
  let t := c.f.ty
  let w := Ty.width t
  let x ← c.intA t.words tid
  let y ← c.intB t.words tid
  if c.sat (c.f.v == 1) then
    return .wide c.f.d t.words (narrow true (extT t x + extT t y) w (Ty.signed t))
  let p := c.f.x.toNat % 8
  let v := c.f.v.toNat
  let cin : Nat := if (v == 2 || v == 4) && (c.th tid).pred p then 1 else 0
  let out : VecOut := .wide c.f.d t.words (BitVec.ofNat 64 ((x.toNat + y.toNat + cin) % 2 ^ w))
  return if v == 3 || v == 4 then { out with preds := [(p, carryOut x.toNat y.toNat cin w)] } else out

/-- `isub` (R143) in one thread. -/
def Ctx.isub (c : Ctx) (tid : Nat) : Except TrapInfo VecOut := do
  let t := c.f.ty
  let w := Ty.width t
  let x ← c.intA t.words tid
  let y ← c.intB t.words tid
  if c.sat (c.f.v == 1) then
    return .wide c.f.d t.words (narrow true (extT t x - extT t y) w (Ty.signed t))
  let p := c.f.x.toNat % 8
  let v := c.f.v.toNat
  let bin : Nat := if (v == 2 || v == 4) && (c.th tid).pred p then 1 else 0
  let out : VecOut := .wide c.f.d t.words (BitVec.ofNat 64 (wrapTo ((x.toNat : Int) - y.toNat - bin) w))
  return if v == 3 || v == 4 then { out with preds := [(p, borrowOut x.toNat y.toNat bin)] } else out

/-- A one-source integer result (R143). -/
def Ctx.int1 (c : Ctx) (h : Int → Int) (tid : Nat) : Except TrapInfo VecOut := do
  let t := c.f.ty
  let x ← c.intA t.words tid
  return .wide c.f.d t.words (narrow (c.sat (c.f.v == 1)) (h (extT t x)) (Ty.width t) (Ty.signed t))

/-- A two-source integer result by value (R144, R149). -/
def Ctx.int2 (c : Ctx) (h : Int → Int → Int) (tid : Nat) : Except TrapInfo VecOut := do
  let t := c.f.ty
  let x ← c.intA t.words tid
  let y ← c.intB t.words tid
  return .wide c.f.d t.words (narrow false (h (extT t x) (extT t y)) (Ty.width t) (Ty.signed t))

/-- `iclamp` (R144). -/
def Ctx.iclamp (c : Ctx) (tid : Nat) : Except TrapInfo VecOut := do
  let t := c.f.ty
  let x ← c.intA 1 tid
  let y ← c.intB 1 tid
  let z ← c.intC 1 tid
  return .wide c.f.d 1 (narrow false (min (max (extT t x) (extT t y)) (extT t z)) 32 (Ty.signed t))

/-- `icmp` (R144): a mask or a predicate. -/
def Ctx.icmp (c : Ctx) (tid : Nat) : Except TrapInfo VecOut := do
  let t := c.f.ty
  let x ← c.intA t.words tid
  let y ← c.intB t.words tid
  let r := cmpCode c.f.v.toNat (extT t x) (extT t y)
  return if c.f.kd = .pred then .pred c.f.d r else .wide c.f.d t.words (if r then BitVec.allOnes 64 else 0)

/-- `isel` (R144). -/
def Ctx.isel (c : Ctx) (tid : Nat) : Except TrapInfo VecOut := do
  let w := c.f.ty.words
  let x ← c.bitA w tid
  let y ← c.bitB w tid
  return .wide c.f.d w (if (c.th tid).pred (c.f.x.toNat % 8) then x else y)

/-- The exact product of `imul` and `imad` (R145): C is read at 32 bits under the type's sign. -/
def Ctx.product (c : Ctx) (tid : Nat) : Except TrapInfo Int := do
  let x ← c.intA 1 tid
  let y ← c.intB 1 tid
  return extT c.f.ty x * extT c.f.ty y

/-- `imul` (R145). -/
def Ctx.imul (c : Ctx) (tid : Nat) : Except TrapInfo VecOut := do
  let p ← c.product tid
  return .word c.f.d (BitVec.ofNat 32 (wrapTo (if c.f.v == 1 then p / 2 ^ 32 else p) 32))

/-- `imad` (R145). -/
def Ctx.imad (c : Ctx) (tid : Nat) : Except TrapInfo VecOut := do
  let p ← c.product tid
  let z ← c.intC 1 tid
  let sg := Ty.signed c.f.ty
  let acc := ext z 32 sg
  let q := if c.f.v == 1 then p / 2 ^ 32 + acc else p + acc
  return .wide c.f.d 1 (narrow (c.sat (c.f.v == 2)) q 32 sg)

/-- `isad` (R146). -/
def Ctx.isad (c : Ctx) (tid : Nat) : Except TrapInfo VecOut := do
  let x ← c.intA 1 tid
  let y ← c.intB 1 tid
  let z ← c.intC 1 tid
  let s := (List.range 4).foldl (fun n k =>
    n + (packedElem (x.setWidth 32) k 8 false - packedElem (y.setWidth 32) k 8 false).natAbs) 0
  return .wide c.f.d 1 (narrow false (z.toNat + s) 32 false)

/-- `idot` (R147): X[0] makes A's elements unsigned, X[1] makes B's. -/
def Ctx.idot (c : Ctx) (tid : Nat) : Except TrapInfo VecOut := do
  let x ← c.intA 1 tid
  let y ← c.intB 1 tid
  let z ← c.intC 1 tid
  let n := Ty.width c.f.ty
  let s := (List.range (32 / n)).foldl (fun (acc : Int) k =>
    acc + packedElem (x.setWidth 32) k n (!c.f.x.getLsbD 0) * packedElem (y.setWidth 32) k n (!c.f.x.getLsbD 1)) (ext z 32 true)
  return .wide c.f.d 1 (narrow (c.sat (c.f.v == 1)) s 32 true)

/-- `icdot` (R148): C and D are pairs, real part even. -/
def Ctx.icdot (c : Ctx) (tid : Nat) : Except TrapInfo VecOut := do
  let x ← c.intA 1 tid
  let y ← c.intB 1 tid
  let z ← c.intC 2 tid
  let e (v : Dword) (k : Nat) : Int := packedElem (v.setWidth 32) k 8 true
  let term (k : Nat) : Int × Int :=
    let ar := e x (2 * k)
    let ai := e x (2 * k + 1)
    let yr := e y (2 * k)
    let yi := if c.f.x.getLsbD 0 then -e y (2 * k + 1) else e y (2 * k + 1)
    (ar * yr - ai * yi, ar * yi + ai * yr)
  let sat := c.sat (c.f.v == 1)
  let re := ext z 32 true + (term 0).1 + (term 1).1
  let im := ext (z >>> 32) 32 true + (term 0).2 + (term 1).2
  return { regs := [(c.f.d, (narrow sat re 32 true).setWidth 32), (c.f.d + 1, (narrow sat im 32 true).setWidth 32)] }

/-- `iaddr` (R149): the scale is 1, 2, 4, 8 or 16. -/
def Ctx.iaddr (c : Ctx) (tid : Nat) : Except TrapInfo VecOut :=
  c.int2 (fun a b => a + b * (2 ^ c.f.v.toNat : Nat)) tid

def opIadd (f : Fields) (s : State) : Out := vecUnit .iadd f s Ctx.iadd
def opIsub (f : Fields) (s : State) : Out := vecUnit .isub f s Ctx.isub
def opIneg (f : Fields) (s : State) : Out := vecUnit .ineg f s fun c => c.int1 fun a => -a
def opIabs (f : Fields) (s : State) : Out := vecUnit .iabs f s fun c => c.int1 fun a => a.natAbs
def opImin (f : Fields) (s : State) : Out := vecUnit .imin f s fun c => c.int2 min
def opImax (f : Fields) (s : State) : Out := vecUnit .imax f s fun c => c.int2 max
def opIclamp (f : Fields) (s : State) : Out := vecUnit .iclamp f s Ctx.iclamp
def opImul (f : Fields) (s : State) : Out := vecUnit .imul f s Ctx.imul
def opImad (f : Fields) (s : State) : Out := vecUnit .imad f s Ctx.imad
def opIsad (f : Fields) (s : State) : Out := vecUnit .isad f s Ctx.isad
def opIdot (f : Fields) (s : State) : Out := vecUnit .idot f s Ctx.idot
def opIcdot (f : Fields) (s : State) : Out := vecUnit .icdot f s Ctx.icdot
def opIcmp (f : Fields) (s : State) : Out := vecUnit .icmp f s Ctx.icmp
def opIsel (f : Fields) (s : State) : Out := vecUnit .isel f s Ctx.isel
def opIaddr (f : Fields) (s : State) : Out := vecUnit .iaddr f s Ctx.iaddr

/-! ### One meaning per row (R94 to R104) -/

/-- IADD. -/
def execIadd (f : LongF) (s : State) : Out := opIadd (f.fields) s
/-- ISUB. -/
def execIsub (f : LongF) (s : State) : Out := opIsub (f.fields) s
/-- INEG. -/
def execIneg (f : LongF) (s : State) : Out := opIneg (f.fields) s
/-- IABS. -/
def execIabs (f : LongF) (s : State) : Out := opIabs (f.fields) s
/-- IMIN. -/
def execImin (f : LongF) (s : State) : Out := opImin (f.fields) s
/-- IMAX. -/
def execImax (f : LongF) (s : State) : Out := opImax (f.fields) s
/-- ICLAMP. -/
def execIclamp (f : LongF) (s : State) : Out := opIclamp (f.fields) s
/-- IMUL. -/
def execImul (f : LongF) (s : State) : Out := opImul (f.fields) s
/-- IMAD. -/
def execImad (f : LongF) (s : State) : Out := opImad (f.fields) s
/-- ISAD. -/
def execIsad (f : LongF) (s : State) : Out := opIsad (f.fields) s
/-- IDOT. -/
def execIdot (f : LongF) (s : State) : Out := opIdot (f.fields) s
/-- ICDOT. -/
def execIcdot (f : LongF) (s : State) : Out := opIcdot (f.fields) s
/-- ICMP. -/
def execIcmp (f : LongF) (s : State) : Out := opIcmp (f.fields) s
/-- ISEL. -/
def execIsel (f : LongF) (s : State) : Out := opIsel (f.fields) s
/-- IADDR. -/
def execIaddr (f : LongF) (s : State) : Out := opIaddr (f.fields) s
/-- IADD_I32_SHORT. -/
def execIaddI32Short (f : ShortF) (s : State) : Out := opIadd (f.fields 0 .i32 .vec 0) s
/-- ISUB_I32_SHORT. -/
def execIsubI32Short (f : ShortF) (s : State) : Out := opIsub (f.fields 0 .i32 .vec 0) s
/-- IADD_I64_SHORT. -/
def execIaddI64Short (f : ShortF) (s : State) : Out := opIadd (f.fields 0 .i64 .vec 0) s
/-- IMIN_I32_SHORT. -/
def execIminI32Short (f : ShortF) (s : State) : Out := opImin (f.fields 0 .i32 .vec 0) s
/-- IMAX_I32_SHORT. -/
def execImaxI32Short (f : ShortF) (s : State) : Out := opImax (f.fields 0 .i32 .vec 0) s
/-- IMIN_UI32_SHORT. -/
def execIminUi32Short (f : ShortF) (s : State) : Out := opImin (f.fields 0 .ui32 .vec 0) s
/-- IMAX_UI32_SHORT. -/
def execImaxUi32Short (f : ShortF) (s : State) : Out := opImax (f.fields 0 .ui32 .vec 0) s
/-- IMUL_I24_SHORT. -/
def execImulI24Short (f : ShortF) (s : State) : Out := opImul (f.fields 0 .i24 .vec 0) s
/-- IMUL_I32_SHORT. -/
def execImulI32Short (f : ShortF) (s : State) : Out := opImul (f.fields 0 .i32 .vec 0) s
/-- IADDR_X4_UI32_SHORT. -/
def execIaddrX4Ui32Short (f : ShortF) (s : State) : Out := opIaddr (f.fields 2 .ui32 .vec 0) s
/-- ICMP_EQ_I32_SHORT. -/
def execIcmpEqI32Short (f : ShortF) (s : State) : Out := opIcmp (f.fields 0 .i32 .pred 0) s
/-- ICMP_NE_I32_SHORT. -/
def execIcmpNeI32Short (f : ShortF) (s : State) : Out := opIcmp (f.fields 1 .i32 .pred 0) s
/-- ICMP_LT_I32_SHORT. -/
def execIcmpLtI32Short (f : ShortF) (s : State) : Out := opIcmp (f.fields 2 .i32 .pred 0) s
/-- ICMP_LT_UI32_SHORT. -/
def execIcmpLtUi32Short (f : ShortF) (s : State) : Out := opIcmp (f.fields 2 .ui32 .pred 0) s
/-- ICMP_GE_I32_SHORT. -/
def execIcmpGeI32Short (f : ShortF) (s : State) : Out := opIcmp (f.fields 5 .i32 .pred 0) s
/-- IADD_I32_LIMM. -/
def execIaddI32Limm (f : LimmF) (s : State) : Out := opIadd (f.fields 0 .i32 .vec) s
/-- IADD_I64_LIMM. -/
def execIaddI64Limm (f : LimmF) (s : State) : Out := opIadd (f.fields 0 .i64 .vec) s
/-- IMUL_I24_LIMM. -/
def execImulI24Limm (f : LimmF) (s : State) : Out := opImul (f.fields 0 .i24 .vec) s
/-- ICMP_EQ_I32_LIMM. -/
def execIcmpEqI32Limm (f : LimmF) (s : State) : Out := opIcmp (f.fields 0 .i32 .pred) s
/-- ICMP_LT_I32_LIMM. -/
def execIcmpLtI32Limm (f : LimmF) (s : State) : Out := opIcmp (f.fields 2 .i32 .pred) s
/-- ICMP_LT_UI32_LIMM. -/
def execIcmpLtUi32Limm (f : LimmF) (s : State) : Out := opIcmp (f.fields 2 .ui32 .pred) s
/-- IADDR_UI32_LIMM. -/
def execIaddrUi32Limm (f : LimmF) (s : State) : Out := opIaddr (f.fields 0 .ui32 .vec) s

end Sys2Proof.Machine
end

