-- ==== Sys2Proof/Machine/Logic.lean ====
section
/-!
DEFINITION. Class 1: logic, bits, moves, predicates and votes (08 R150 to R157).
-/

namespace Sys2Proof.Machine

/-- A two-source bit result (R150). -/
def Ctx.bits2 (c : Ctx) (h : Dword → Dword → Dword) (tid : Nat) : Except TrapInfo VecOut := do
  let w := c.f.ty.words
  let x ← c.bitA w tid
  let y ← c.bitB w tid
  return .wide c.f.d w (h x y)

/-- `not` (R150). -/
def Ctx.notB (c : Ctx) (tid : Nat) : Except TrapInfo VecOut := do
  let x ← c.bitA c.f.ty.words tid
  return .wide c.f.d c.f.ty.words (~~~x)

/-- `tlog` (R150): FN is the map; X[0] takes pairs. -/
def Ctx.tlog (c : Ctx) (tid : Nat) : Except TrapInfo VecOut := do
  let w := c.f.x.toNat + 1
  let x ← c.bitA w tid
  let y ← c.bitB w tid
  let z ← c.bitC w tid
  return .wide c.f.d w (tlogBits c.f.fn x y z)

/-- `shl` (R151). -/
def Ctx.shl (c : Ctx) (tid : Nat) : Except TrapInfo VecOut := do
  let w := c.f.ty.words
  let x ← c.bitA w tid
  let n ← c.ctlB tid
  return .wide c.f.d w (BitVec.ofNat 64 (shlBits x.toNat n.toNat (32 * w)))

/-- `shr` (R151). -/
def Ctx.shr (c : Ctx) (tid : Nat) : Except TrapInfo VecOut := do
  let t := c.f.ty
  let x ← c.intA t.words tid
  let n ← c.ctlB tid
  return .wide c.f.d t.words (narrow false (shrBits (extT t x) (Ty.signed t) n.toNat (Ty.width t)) (Ty.width t) (Ty.signed t))

/-- `rot` (R151): l, r, fl, fr. -/
def Ctx.rot (c : Ctx) (tid : Nat) : Except TrapInfo VecOut := do
  let k := c.f.ty.words
  let w := 32 * k
  let x ← c.bitA k tid
  if c.f.v.toNat ≤ 1 then
    let n ← c.ctlB tid
    return .wide c.f.d k (BitVec.ofNat 64 (if c.f.v == 0 then rotl x.toNat n.toNat w else rotr x.toNat n.toNat w))
  let y ← c.bitB k tid
  let n ← c.ctlC tid
  return .wide c.f.d k
    (BitVec.ofNat 64 (if c.f.v == 2 then funnelL x.toNat y.toNat n.toNat w else funnelR x.toNat y.toNat n.toNat w))

/-- `bit` (R152): counts go to one register, brev to as many as the type has. -/
def Ctx.bit (c : Ctx) (tid : Nat) : Except TrapInfo VecOut := do
  let k := c.f.ty.words
  let x ← c.bitA k tid
  return .wide c.f.d (if c.f.v == 3 then k else 1) (BitVec.ofNat 64 (bitOp c.f.v.toNat x.toNat (32 * k)))

/-- `bfld` (R153): ext, ins, byte. -/
def Ctx.bfld (c : Ctx) (tid : Nat) : Except TrapInfo VecOut := do
  let k := c.f.ty.words
  let w := 32 * k
  match c.f.v.toNat with
  | 0 =>
    let x ← c.intA k tid
    let n ← c.ctlB tid
    return .wide c.f.d k (BitVec.ofNat 64 (fieldExt x.toNat n w (Ty.signed c.f.ty)))
  | 1 =>
    let x ← c.bitA k tid
    let y ← c.bitB k tid
    let n ← c.ctlC tid
    return .wide c.f.d k (BitVec.ofNat 64 (fieldIns x.toNat y.toNat n w))
  | _ =>
    let x ← c.bitA 1 tid
    let n ← c.ctlB tid
    let byte (j : Nat) : Nat := byteSel (x.setWidth 32) (n.toNat / 2 ^ (4 * j) % 16)
    return .word c.f.d (BitVec.ofNat 32 (byte 0 + 256 * byte 1 + 65536 * byte 2 + 16777216 * byte 3))

/-- `mov` (R154): a register, a pair, or `mov.sv` of a scalar. -/
def Ctx.mov (c : Ctx) (tid : Nat) : Except TrapInfo VecOut := do
  let w := if c.f.v == 1 then 1 else c.f.ty.words
  let x ← c.bitA w tid
  return .wide c.f.d w x

/-- `plog` (R155): and, or, xor, andn, not, mov. -/
def Ctx.plog (c : Ctx) (tid : Nat) : Except TrapInfo VecOut :=
  let x := (c.th tid).pred (c.f.a.num % 8)
  let y := (c.th tid).pred (c.f.b.num % 8)
  let r := match c.f.v.toNat with
    | 0 => x && y
    | 1 => x || y
    | 2 => x != y
    | 3 => x && !y
    | 4 => !x
    | _ => x
  .ok (.pred c.f.d r)

/-- `pcvt` (R155): tov, top. -/
def Ctx.pcvt (c : Ctx) (tid : Nat) : Except TrapInfo VecOut :=
  let t := c.th tid
  .ok (.word c.f.d (if c.f.v == 0 then (if t.pred (c.f.a.num % 8) then 0xFFFFFFFF else 0) else (t.p ||| 1).setWidth 32))

/-- The mask of %tids (R156). -/
def tidMask (tids : List Nat) : Dword := tids.foldl (fun m i => m ||| (1 <<< i : BitVec 64)) 0

/-- `vote` (R156) in one group: bits, count, any, all over the executing threads. Under REP a thread past this repetition
acts as one whose predicate is false (R179). -/
def Ctx.vote (c : Ctx) (s : State) : State :=
  let ex := c.exec
  let yes := ex.filter fun t => (c.th t).pred (c.f.a.num % 8)
  let r := if c.f.v == 2 then !yes.isEmpty else yes.length == ex.length
  let val : Dword := match c.f.v.toNat with
    | 0 => tidMask yes
    | 1 => BitVec.ofNat 64 yes.length
    | _ => if r then 1 else 0
  let s1 := s.modGroup c.g.gid fun g =>
    if c.f.kd = .pred then g.modThreads ex fun t => t.writePred c.f.d r else g.writeS c.tids c.f.d val
  s1.advance c.g.gid c.tids

def opAnd (f : Fields) (s : State) : Out := vecUnit .and f s fun c => c.bits2 (logicOp 0)
def opOr (f : Fields) (s : State) : Out := vecUnit .or f s fun c => c.bits2 (logicOp 1)
def opXor (f : Fields) (s : State) : Out := vecUnit .xor f s fun c => c.bits2 (logicOp 2)
def opAndn (f : Fields) (s : State) : Out := vecUnit .andn f s fun c => c.bits2 (logicOp 3)
def opOrn (f : Fields) (s : State) : Out := vecUnit .orn f s fun c => c.bits2 (logicOp 4)
def opNot (f : Fields) (s : State) : Out := vecUnit .not f s Ctx.notB
def opTlog (f : Fields) (s : State) : Out := vecUnit .tlog f s Ctx.tlog
def opShl (f : Fields) (s : State) : Out := vecUnit .shl f s Ctx.shl
def opShr (f : Fields) (s : State) : Out := vecUnit .shr f s Ctx.shr
def opRot (f : Fields) (s : State) : Out := vecUnit .rot f s Ctx.rot
def opBit (f : Fields) (s : State) : Out := vecUnit .bit f s Ctx.bit
def opBfld (f : Fields) (s : State) : Out := vecUnit .bfld f s Ctx.bfld
def opMov (f : Fields) (s : State) : Out := vecUnit .mov f s Ctx.mov
def opPlog (f : Fields) (s : State) : Out := vecUnit .plog f s Ctx.plog
def opPcvt (f : Fields) (s : State) : Out := vecUnit .pcvt f s Ctx.pcvt
def opVote (f : Fields) (s : State) : Out := .next (s.perGroup f fun c acc => c.vote acc)

/-! ### One meaning per row (R94 to R104) -/

/-- AND. -/
def execAnd (f : LongF) (s : State) : Out := opAnd (f.fields) s
/-- OR. -/
def execOr (f : LongF) (s : State) : Out := opOr (f.fields) s
/-- XOR. -/
def execXor (f : LongF) (s : State) : Out := opXor (f.fields) s
/-- ANDN. -/
def execAndn (f : LongF) (s : State) : Out := opAndn (f.fields) s
/-- ORN. -/
def execOrn (f : LongF) (s : State) : Out := opOrn (f.fields) s
/-- NOT. -/
def execNot (f : LongF) (s : State) : Out := opNot (f.fields) s
/-- TLOG. -/
def execTlog (f : LongF) (s : State) : Out := opTlog (f.fields) s
/-- SHL. -/
def execShl (f : LongF) (s : State) : Out := opShl (f.fields) s
/-- SHR. -/
def execShr (f : LongF) (s : State) : Out := opShr (f.fields) s
/-- ROT. -/
def execRot (f : LongF) (s : State) : Out := opRot (f.fields) s
/-- BIT. -/
def execBit (f : LongF) (s : State) : Out := opBit (f.fields) s
/-- BFLD. -/
def execBfld (f : LongF) (s : State) : Out := opBfld (f.fields) s
/-- MOV. -/
def execMov (f : LongF) (s : State) : Out := opMov (f.fields) s
/-- PLOG. -/
def execPlog (f : LongF) (s : State) : Out := opPlog (f.fields) s
/-- PCVT. -/
def execPcvt (f : LongF) (s : State) : Out := opPcvt (f.fields) s
/-- VOTE. -/
def execVote (f : LongF) (s : State) : Out := opVote (f.fields) s
/-- AND_B32_SHORT. -/
def execAndB32Short (f : ShortF) (s : State) : Out := opAnd (f.fields 0 .b32 .vec 0) s
/-- OR_B32_SHORT. -/
def execOrB32Short (f : ShortF) (s : State) : Out := opOr (f.fields 0 .b32 .vec 0) s
/-- XOR_B32_SHORT. -/
def execXorB32Short (f : ShortF) (s : State) : Out := opXor (f.fields 0 .b32 .vec 0) s
/-- ANDN_B32_SHORT. -/
def execAndnB32Short (f : ShortF) (s : State) : Out := opAndn (f.fields 0 .b32 .vec 0) s
/-- NOT_B32_SHORT. -/
def execNotB32Short (f : ShortF) (s : State) : Out := opNot (f.fields 0 .b32 .vec 0) s
/-- SHL_B32_SHORT. -/
def execShlB32Short (f : ShortF) (s : State) : Out := opShl (f.fields 0 .b32 .vec 0) s
/-- SHR_UI32_SHORT. -/
def execShrUi32Short (f : ShortF) (s : State) : Out := opShr (f.fields 0 .ui32 .vec 0) s
/-- SHR_I32_SHORT. -/
def execShrI32Short (f : ShortF) (s : State) : Out := opShr (f.fields 0 .i32 .vec 0) s
/-- ROT_L_B32_SHORT. -/
def execRotLB32Short (f : ShortF) (s : State) : Out := opRot (f.fields 0 .b32 .vec 0) s
/-- BIT_POPC_B32_SHORT. -/
def execBitPopcB32Short (f : ShortF) (s : State) : Out := opBit (f.fields 0 .b32 .vec 0) s
/-- BIT_CLZ_B32_SHORT. -/
def execBitClzB32Short (f : ShortF) (s : State) : Out := opBit (f.fields 1 .b32 .vec 0) s
/-- MOV_B32_SHORT. -/
def execMovB32Short (f : ShortF) (s : State) : Out := opMov (f.fields 0 .b32 .vec 0) s
/-- MOV_B64_SHORT. -/
def execMovB64Short (f : ShortF) (s : State) : Out := opMov (f.fields 0 .b64 .vec 0) s
/-- SHL_B64_SHORT. -/
def execShlB64Short (f : ShortF) (s : State) : Out := opShl (f.fields 0 .b64 .vec 0) s
/-- SHR_UI64_SHORT. -/
def execShrUi64Short (f : ShortF) (s : State) : Out := opShr (f.fields 0 .ui64 .vec 0) s
/-- BFLD_BYTE_B32_SHORT. -/
def execBfldByteB32Short (f : ShortF) (s : State) : Out := opBfld (f.fields 2 .b32 .vec 0) s
/-- AND_B32_LIMM. -/
def execAndB32Limm (f : LimmF) (s : State) : Out := opAnd (f.fields 0 .b32 .vec) s
/-- OR_B32_LIMM. -/
def execOrB32Limm (f : LimmF) (s : State) : Out := opOr (f.fields 0 .b32 .vec) s
/-- XOR_B32_LIMM. -/
def execXorB32Limm (f : LimmF) (s : State) : Out := opXor (f.fields 0 .b32 .vec) s
/-- MOV_B32_LIMM. -/
def execMovB32Limm (f : LimmF) (s : State) : Out := opMov (f.fieldsA 0 .b32 .vec) s
/-- MOV_B64_LIMM. -/
def execMovB64Limm (f : LimmF) (s : State) : Out := opMov (f.fieldsA 0 .b64 .vec) s

end Sys2Proof.Machine
end

