-- ==== Sys2Proof/Machine/Scalar.lean ====
section
/-!
DEFINITION. Class 2: group-uniform scalar instructions (08 R158, R159).
-/

namespace Sys2Proof.Machine

/-- A result of the type's width as s[D] holds it: sign-extended for i32, zero-extended for ui32 (R159). -/
def scalarOf (t : Ty) (sat : Bool) (v : Int) : Dword :=
  let r := narrow sat v (Ty.width t) (Ty.signed t)
  BitVec.ofInt 64 (ext r (Ty.width t) (Ty.signed t))

/-- `sadd`, `ssub` (R159). -/
def Ctx.sarith (c : Ctx) (h : Int → Int → Int) : Except TrapInfo Dword := do
  let t := c.f.ty
  let x ← c.sA .int t.words
  let y ← c.sB .int t.words
  return scalarOf t (c.f.v == 1 || c.mod.sat) (h (extT t x) (extT t y))

/-- `smul` (R159): the low or the high half of the exact product. -/
def Ctx.smul (c : Ctx) : Except TrapInfo Dword := do
  let t := c.f.ty
  let x ← c.sA .int 2
  let y ← c.sB .int 2
  let p := extT t x * extT t y
  return BitVec.ofInt 64 (if c.f.v == 1 then p / 2 ^ 64 else p)

/-- `smin`, `smax` (R159). -/
def Ctx.sext (c : Ctx) (h : Int → Int → Int) : Except TrapInfo Dword := do
  let t := c.f.ty
  let x ← c.sA .int 2
  let y ← c.sB .int 2
  return BitVec.ofInt 64 (h (extT t x) (extT t y))

/-- `slog` (R159): `slog.not` takes its source in B. -/
def Ctx.slog (c : Ctx) : Except TrapInfo Dword := do
  let x ← if c.f.v == 5 then pure 0 else c.sA .bits 2
  let y ← c.sB .bits 2
  return logicOp c.f.v.toNat x y

/-- `sshl`, `sshr` (R159): the amount is B[31:0]. -/
def Ctx.sshl (c : Ctx) : Except TrapInfo Dword := do
  let x ← c.sA .bits 2
  let n ← c.sB .int 1
  return BitVec.ofNat 64 (shlBits x.toNat n.toNat 64)
def Ctx.sshr (c : Ctx) : Except TrapInfo Dword := do
  let x ← c.sA .int 2
  let n ← c.sB .int 1
  return BitVec.ofInt 64 (shrBits (extT c.f.ty x) (Ty.signed c.f.ty) n.toNat 64)

/-- `scmp` (R159). -/
def Ctx.scmp (c : Ctx) : Except TrapInfo Dword := do
  let x ← c.sA .int 2
  let y ← c.sB .int 2
  return if cmpCode c.f.v.toNat (extT c.f.ty x) (extT c.f.ty y) then 1 else 0

/-- `ssel` (R159). -/
def Ctx.ssel (c : Ctx) : Except TrapInfo Dword := do
  let x ← c.sA .bits 2
  let y ← c.sB .bits 2
  let z ← c.sC .bits 2
  return if z != 0 then x else y

/-- `sbit` (R159): popc, clz, ctz. -/
def Ctx.sbit (c : Ctx) : Except TrapInfo Dword := do
  let y ← c.sB .bits 2
  return BitVec.ofNat 64 (bitOp c.f.v.toNat y.toNat 64)

def opSadd (f : Fields) (s : State) : Out := sclUnit .sadd f s fun c => c.sarith fun a b => a + b
def opSsub (f : Fields) (s : State) : Out := sclUnit .ssub f s fun c => c.sarith fun a b => a - b
def opSmul (f : Fields) (s : State) : Out := sclUnit .smul f s Ctx.smul
def opSmin (f : Fields) (s : State) : Out := sclUnit .smin f s fun c => c.sext min
def opSmax (f : Fields) (s : State) : Out := sclUnit .smax f s fun c => c.sext max
def opSlog (f : Fields) (s : State) : Out := sclUnit .slog f s Ctx.slog
def opSshl (f : Fields) (s : State) : Out := sclUnit .sshl f s Ctx.sshl
def opSshr (f : Fields) (s : State) : Out := sclUnit .sshr f s Ctx.sshr
def opScmp (f : Fields) (s : State) : Out := sclUnit .scmp f s Ctx.scmp
def opSsel (f : Fields) (s : State) : Out := sclUnit .ssel f s Ctx.ssel
def opSmov (f : Fields) (s : State) : Out := sclUnit .smov f s fun c => c.sB .bits 2
def opSbit (f : Fields) (s : State) : Out := sclUnit .sbit f s Ctx.sbit
/-- `cbase` sets the constant window (R53, R159). -/
def opCbase (f : Fields) (s : State) : Out :=
  groupUnit .cbase f s fun c => (c.sB .bits 2).map fun v => fun g => { g with window := v.setWidth 9 }

/-! ### One meaning per row (R94 to R104) -/

/-- SADD. -/
def execSadd (f : LongF) (s : State) : Out := opSadd (f.fields) s
/-- SSUB. -/
def execSsub (f : LongF) (s : State) : Out := opSsub (f.fields) s
/-- SMUL. -/
def execSmul (f : LongF) (s : State) : Out := opSmul (f.fields) s
/-- SMIN. -/
def execSmin (f : LongF) (s : State) : Out := opSmin (f.fields) s
/-- SMAX. -/
def execSmax (f : LongF) (s : State) : Out := opSmax (f.fields) s
/-- SLOG. -/
def execSlog (f : LongF) (s : State) : Out := opSlog (f.fields) s
/-- SSHL. -/
def execSshl (f : LongF) (s : State) : Out := opSshl (f.fields) s
/-- SSHR. -/
def execSshr (f : LongF) (s : State) : Out := opSshr (f.fields) s
/-- SCMP. -/
def execScmp (f : LongF) (s : State) : Out := opScmp (f.fields) s
/-- SSEL. -/
def execSsel (f : LongF) (s : State) : Out := opSsel (f.fields) s
/-- SMOV. -/
def execSmov (f : LongF) (s : State) : Out := opSmov (f.fields) s
/-- CBASE. -/
def execCbase (f : LongF) (s : State) : Out := opCbase (f.fields) s
/-- SBIT. -/
def execSbit (f : LongF) (s : State) : Out := opSbit (f.fields) s
/-- SMOV_B64_SHORT. -/
def execSmovB64Short (f : ShortF) (s : State) : Out := opSmov (f.fields 0 .b64 .scal 0) s
/-- CBASE_SHORT. -/
def execCbaseShort (f : ShortF) (s : State) : Out := opCbase (f.fields 0 .i32 .vec 0) s
/-- SMOV_B64_LIMM. -/
def execSmovB64Limm (f : LimmF) (s : State) : Out := opSmov (f.fields 0 .b64 .scal) s
/-- CBASE_LIMM. -/
def execCbaseLimm (f : LimmF) (s : State) : Out := opCbase (f.fields 0 .i32 .vec) s

end Sys2Proof.Machine
end

