-- ==== Sys2Proof/Machine/System.lean ====
section
/-!
DEFINITION. System cores: letters, boot, attestation, clock plans, power, wear, health, gating and the loss of power (25 R425, 27 R454 to
R463, 19 R322).
-/

namespace Sys2Proof.Machine

/-! ### Letters (R425) -/

/-- LETTER_SEND: a core writes a letter. -/
def State.letterSend (s : State) (src dst kind : Nat) (body : List Byte) : State :=
  if 8 ≤ src || 8 ≤ dst || src = dst || 256 ≤ kind then s else s.send src dst kind body
/-- Letters that a row of the table serves stay in their box until it does (DEDUCED, log 33). -/
def servedKind (k : Nat) : Bool := k == 0x21 || k == 0x22
/-- LETTER_ARRIVAL: the receiver takes its interrupt, and its oldest letter; a gated core comes back (DEDUCED, log 33). -/
def State.letterArrival (s : State) (src dst : Nat) : State :=
  match s.box src dst with
  | [] => s
  | l :: r =>
    let s1 := { s.restoreCore dst with irqs := s.irqs &&& ~~~(1 <<< dst : BitVec 8) }
    if servedKind l.kind then s1
    else
      let s2 := s1.setBox src dst r
      -- a letter that the sender kept is taken now
      if r.length = 16 then s2.setRefused src dst false else s2
/-- LETTERBOX_REFUSED_CLEAR. -/
def State.refusedClear (s : State) (core : Nat) (mask : BitVec 8) : State :=
  { s with refused := tset s.refused core (tget s.refused core 0 &&& ~~~mask) }
/-- The letterbox status register of a core. -/
def State.letterStatus (s : State) (core : Nat) : Dword :=
  let bit (f : Nat → Bool) : Nat := (List.range 8).foldl (fun n i => n + if f i then 2 ^ i else 0) 0
  BitVec.ofNat 64 ((tget s.refused core 0).toNat * 2 ^ 16 + bit (fun t => 16 ≤ (s.box core t).length) * 2 ^ 8
    + bit (fun f => !(s.box f core).isEmpty))

/-! ### The flash image (R454, R458) -/

/-- Bytes of flash; none where one could not be read. -/
def flashBytes (o n : Nat) : Option (List Byte) := (List.range n).mapM fun i => Config.flashByte (o + i)
structure Part where
  typ : Nat
  off : Nat
  size : Nat
  deriving DecidableEq, Repr
def partAt (b : List Byte) (i : Nat) : Part := ⟨u16 b (0x40 + 16 * i), u32 b (0x44 + 16 * i), u32 b (0x48 + 16 * i)⟩
def imageParts (b : List Byte) : List Part := (List.range (u32 b 8)).map (partAt b)
def Part.apart (x y : Part) : Bool := x.size == 0 || y.size == 0 || x.off + x.size ≤ y.off || y.off + y.size ≤ x.off
def partsApart : List Part → Bool
  | [] => true
  | x :: r => r.all x.apart && partsApart r
def imagePart (b : List Byte) (t : Nat) : List Byte :=
  match (imageParts b).find? fun x => x.typ == t with | some x => bytesAt b x.off x.size | none => []
def imageMax : Nat := 64 * 2 ^ 20
/-- The contents of a section keep its row. -/
def partOk (b : List Byte) (x : Part) : Bool :=
  let d := bytesAt b x.off x.size
  match x.typ with
  | 0x11 => x.size % 32 == 0 && 1 ≤ x.size / 32 && x.size / 32 ≤ 8
  | 0x12 => x.size == 8 && 8 ≤ u8 d 0 && u8 d 0 ≤ 16 && u8 d 1 < u8 d 0 && allZero (bytesAt d 2 6)
  | 0x13 => x.size == 8 && d.all fun v => v.toNat ≤ 3
  | 0x14 => 1 ≤ u32 d 0 && u32 d 0 ≤ 8 && allZero (bytesAt d 4 12) && 16 + 272 * u32 d 0 ≤ x.size
      && (List.range (u32 d 0)).all fun n => u32 d (0x1C + 272 * n) == 0
  | t => t ≤ 7 || t == 0x10
/-- Check 1 of R455. -/
def imageShape (b : List Byte) : Bool :=
  let ps := imageParts b
  u32 b 0 == 0x4D494E5A && 1 ≤ u32 b 4 && u32 b 4 ≤ 64 && 1 ≤ u32 b 8 && u32 b 8 ≤ 64 && u32 b 0xC + 136 ≤ imageMax
    && allZero (bytesAt b 0x10 48) && 64 + 16 * u32 b 8 ≤ u32 b 0xC
    && ((List.range (u32 b 8)).all fun i => u16 b (0x42 + 16 * i) == 0 && u32 b (0x4C + 16 * i) == 0)
    && (ps.all fun x => x.off % 16 == 0 && x.off + x.size ≤ u32 b 0xC && partOk b x) && partsApart ps
    && ([0, 1, 2, 3, 4, 5, 6, 7, 0x11, 0x12, 0x13, 0x14].all fun t => (ps.filter fun x => x.typ == t).length == 1)
    && (ps.filter fun x => x.typ == 0x10).length ≤ 1
/-- Check a copy: its bytes up to its signature block, or the reason that it fails. -/
def checkImage (o rollback : Nat) : Except Nat (List Byte) :=
  match flashBytes o 64 with
  | none => .error 5
  | some h =>
    let n := u32 h 0xC
    if u32 h 0 != 0x4D494E5A || imageMax < n + 136 || n < 64 then .error 1
    else match flashBytes o n, flashBytes (o + n) 136 with
      | some b, some sig =>
        if !imageShape b then .error 1
        else if sha256 (bytesAt sig 8 64) != Config.fusedKeyHash then .error 2
        else if !blockOk sig b then .error 3
        else if u32 b 4 < rollback then .error 4
        else .ok b
      | _, _ => .error 5

/-- The plans of the clock section. -/
def planAt (d : List Byte) (n : Nat) : Plan :=
  let o := 0x10 + 272 * n
  let k := u32 d (o + 8)
  let band (i : Nat) : Nat × Nat := (u32 d (o + 0x10 + 8 * i), u32 d (o + 0x14 + 8 * i))
  ⟨u32 d o, u32 d (o + 4), (List.range (min k 32)).map band,
    k ≤ 32 && ((List.range (min k 32)).all fun i => (band i).1 ≤ (band i).2) && (List.range (32 - k)).all fun i => band (k + i) == (0, 0)⟩
def plansOf (d : List Byte) : List Plan := (List.range (u32 d 0)).map (planAt d)

/-! ### Boot (R455, R456) -/

/-- Where the second copy stands. -/
def copyB : Nat := 64 * 2 ^ 20
/-- Enumerate each port in turn, port 0 first (R409). -/
def State.enumerate (s : State) (devices : List (Nat × Device)) : State :=
  (List.range 8).foldl (fun acc p => (devices.filter fun e => e.1 == p).foldl (fun t e => t.hotAdd p e.2) acc) s
/-- An accepted image: firmware, keys, cluster, ports and plans; the pins show the codes of the checks, of the stacks' training and of success; the
other cores leave reset; each stack that failed is reported; the tree is enumerated. -/
def State.bootWith (s : State) (b : List Byte) (checks : List (BitVec 4)) (hbm : BitVec 24) (bridges : List (Nat × BridgeWindow))
    (devices : List (Nat × Device)) : State :=
  let plans := plansOf (imagePart b 0x14)
  let roots := imagePart b 0x13
  let clocks := (plans.head?).bind Plan.clocks
  let boot : Boot := { s.boot with
    rollback := some (max s.boot.count (u32 b 4)), pins := 0, shown := checks ++ [3, 0], reason := 0, blinking := false, booted := true,
    imageHash := sha256 b, firmware := (List.range 8).map (imagePart b), drivers := (imageParts b).any fun x => x.typ == 0x10, keyDraw := s.frees,
    hbm := hbm, keys := entries 32 (imagePart b 0x11), n := u8 (imagePart b 0x12) 0, position := u8 (imagePart b 0x12) 1, rootPorts := roots,
    plans := plans, plan := 0, fMHz := (clocks.getD (s.boot.fMHz, s.boot.gMHz)).1, gMHz := (clocks.getD (s.boot.fMHz, s.boot.gMHz)).2 }
  let wins := (List.range 8).map fun p => (p, ((bridges.filter fun e => e.1 == p && u8 roots p == 3).map (·.2)).take 8)
  let s1 := { s with boot := boot, bridges := wins, running := 0xFF, frees := s.frees + 1 }
  let s2 := if clocks.isSome then s1 else s1.report 7 12 [0]
  (((List.range 24).filter fun i => !hbm.getLsbD i).foldl (fun acc i => acc.report 0 13 [i]) s2).enumerate devices
/-- POWER_ON: copy A, then copy B (DEDUCED, log 40). -/
def State.powerOn (s : State) (hbm : BitVec 24) (bridges : List (Nat × BridgeWindow)) (devices : List (Nat × Device)) : State :=
  if s.boot.booted || s.boot.blinking then s
  else match checkImage 0 s.boot.count with
    | .ok b => s.bootWith b [1] hbm bridges devices
    | .error _ => match checkImage copyB s.boot.count with
      | .ok b => s.bootWith b [1, 2] hbm bridges devices
      | .error r => { s with boot := { s.boot with pins := 0xE, shown := [1, 2, 0xE], reason := BitVec.ofNat 4 r, blinking := true } }
/-- BOOT_FAIL_BLINK: the pins alternate every 500 ms. -/
def blinkTime : Nat := 500000000
def State.blink (s : State) : State :=
  if s.boot.blinking then
    let s1 := s.atLeast (s.now + blinkTime)
    let p := if s1.boot.pins = 0xE then s1.boot.reason else 0xE
    { s1 with boot := { s1.boot with pins := p, shown := s1.boot.shown ++ [p] } }
  else s

/-! ### Attestation (R457) -/

/-- ATTESTATION_REQUEST. -/
def State.attest (s : State) (nonce : List Byte) : State :=
  if !s.boot.booted || nonce.length != 32 then s
  else
    let b := nonce ++ s.boot.imageHash ++ leBytes 4 s.boot.count ++ leBytes 4 s.boot.plan ++ List.replicate 24 0
    { s with reports := s.reports ++ [b ++ beBytes 64 (Config.identitySign b).toNat] }

/-! ### Clocks, power, wear (R459 to R463) -/

/-- PLAN_SELECT: a plan with a legal value for each clock waits for the boundary; another is refused, with a letter. Without a boot no session asks. -/
def State.planSelect (s : State) (n : Nat) : State :=
  if !s.boot.booted then s
  else match (s.boot.plans[n]?).bind Plan.clocks with
  | some _ => { s with boot := { s.boot with selected := some n } }
  | none => s.report 7 12 [n]
/-- CLOCK_RELOCK: a die whose teams are all pre-empted has its clock again. -/
def State.relock (s : State) (d : Nat) : State :=
  if (s.die d).stopped && !(s.teams.any fun t => t.placed && t.die == d) then s.setDie d { s.die d with stopped := false } else s
/-- POWER_SAMPLE: every 1 ms; the mean of ten. -/
def State.powerSample (s : State) (w : Nat) : State :=
  let b := { s.boot with watts := (w :: s.boot.watts).take 10 }
  { s with boot := { b with lowPower := b.lowPower || b.above highPower, calmMs := if b.below calmPower then b.calmMs + 1 else 0 } }
/-- WEAR_SAMPLE: the last 30 are kept. -/
def State.wearSample (s : State) (d index : Nat) : State :=
  if 12 ≤ d || 1000 < index then s
  else
    let l := (s.die d).samples ++ [index]
    s.setDie d { s.die d with wear := index, samples := l.drop (l.length - 30) }
/-- The months that a die has left: its remaining life over the mean daily rise, over 30. -/
def monthsLeft (d : Die) : Nat :=
  match d.samples.head?, d.samples.getLast? with
  | some a, some b => if b ≤ a then 0xFFFF else min 0xFFFF ((1000 - d.wear) * (d.samples.length - 1) / ((b - a) * 30))
  | _, _ => 0xFFFF
/-- HEALTH_REPORT (its layout: DESIGN CHOICE, log 27): each die's index and months, the module's least, the stacks out of service. -/
def State.health (s : State) : State :=
  if !s.boot.booted then s else
  let ds := (List.range 12).map s.die
  let ms := ds.map monthsLeft
  { s with reports := s.reports ++ [(ds.flatMap fun d => leBytes 2 d.wear ++ leBytes 2 (monthsLeft d)) ++ leBytes 2 (ms.foldl min 0xFFFF)
      ++ leBytes 3 (~~~s.boot.hbm).toNat] }

/-! ### Gating and power loss (R423, R462, R322) -/

def filterOk (l : List (BitVec 272)) : Bool := l.length ≤ 32 && l.all fun e => fieldOf e.toNat 257 7 ≤ 112
/-- SYSTEM_CORE_GATE: no run, no ring and no debug session; the network core has written and armed the filter. The cores come back with a frame
that it keeps, with a letter, or with their work (ownersOf). -/
def State.gate (s : State) (l : List (BitVec 272)) : State :=
  if !s.boot.booted || !s.runs.isEmpty || (s.rings.any fun e => e.2.valid) || (s.groups.any fun g => g.attached || g.halting) || s.armed
      || !filterOk l then s
  else { s with filter := l, armed := true, heldFrame := none, running := 0 }
/-- POWER_LOSS: all volatile state is gone; fuses and wear stay. -/
def State.powerLoss (s : State) : State :=
  { State.reset with
    boot := { Boot.reset with rollback := s.boot.rollback }
    dies := s.dies.map fun (d : Nat × Die) => (d.1, { Die.reset with wear := d.2.wear, samples := d.2.samples })
    inputs := s.inputs, choices := s.choices, frees := s.frees, fresh := s.fresh }

/-! ### One meaning per row -/

/-- LETTER_SEND (R425). -/
def execLetterSend (src dst kind : Nat) (body : List (BitVec 8)) (s : State) : Out := .next (s.letterSend src dst kind body)
/-- LETTER_ARRIVAL (R425). -/
def execLetterArrival (src dst : Nat) (s : State) : Out := .next (s.letterArrival src dst)
/-- LETTERBOX_REFUSED_CLEAR (R425). -/
def execLetterboxRefusedClear (core : Nat) (mask : BitVec 8) (s : State) : Out := .next (s.refusedClear core mask)
/-- POWER_ON (R454 to R456). -/
def execPowerOn (hbm : BitVec 24) (found : PortsFound) (s : State) : Out :=
  .next (s.powerOn hbm found.bridges found.devices)
/-- BOOT_FAIL_BLINK (R455). -/
def execBootFailBlink (s : State) : Out := .next s.blink
/-- ATTESTATION_REQUEST (R457). -/
def execAttestationRequest (nonce : List (BitVec 8)) (s : State) : Out := .next (s.attest nonce)
/-- PLAN_SELECT (R460). -/
def execPlanSelect (plan : Nat) (s : State) : Out := .next (s.planSelect plan)
/-- CLOCK_RELOCK (R460). -/
def execClockRelock (die : Nat) (s : State) : Out := .next (s.relock die)
/-- POWER_SAMPLE (R461). -/
def execPowerSample (watts : Nat) (s : State) : Out := .next (s.powerSample watts)
/-- WEAR_SAMPLE (R463). -/
def execWearSample (die index : Nat) (s : State) : Out := .next (s.wearSample die index)
/-- HEALTH_REPORT (R463). -/
def execHealthReport (s : State) : Out := .next s.health
/-- SYSTEM_CORE_GATE (R462, R423). -/
def execSystemCoreGate (filter : List (BitVec 272)) (s : State) : Out := .next (s.gate filter)
/-- POWER_LOSS (R322). -/
def execPowerLoss (s : State) : Out := .next s.powerLoss

end Sys2Proof.Machine
end

