-- ==== Sys2Proof/Machine/Dispatch.lean ====
section
/-!
DEFINITION. One arm per row of the opcode table: a direct call of its meaning.
-/

namespace Sys2Proof.Machine

def exec (i : Instr) (s : State) : Host.Outcome State Fault Refusal :=
  match i with
  | .iadd f => Sys2Proof.Machine.execIadd f s
  | .isub f => Sys2Proof.Machine.execIsub f s
  | .ineg f => Sys2Proof.Machine.execIneg f s
  | .iabs f => Sys2Proof.Machine.execIabs f s
  | .imin f => Sys2Proof.Machine.execImin f s
  | .imax f => Sys2Proof.Machine.execImax f s
  | .iclamp f => Sys2Proof.Machine.execIclamp f s
  | .imul f => Sys2Proof.Machine.execImul f s
  | .imad f => Sys2Proof.Machine.execImad f s
  | .isad f => Sys2Proof.Machine.execIsad f s
  | .idot f => Sys2Proof.Machine.execIdot f s
  | .icdot f => Sys2Proof.Machine.execIcdot f s
  | .icmp f => Sys2Proof.Machine.execIcmp f s
  | .isel f => Sys2Proof.Machine.execIsel f s
  | .iaddr f => Sys2Proof.Machine.execIaddr f s
  | .and f => Sys2Proof.Machine.execAnd f s
  | .or f => Sys2Proof.Machine.execOr f s
  | .xor f => Sys2Proof.Machine.execXor f s
  | .andn f => Sys2Proof.Machine.execAndn f s
  | .orn f => Sys2Proof.Machine.execOrn f s
  | .not f => Sys2Proof.Machine.execNot f s
  | .tlog f => Sys2Proof.Machine.execTlog f s
  | .shl f => Sys2Proof.Machine.execShl f s
  | .shr f => Sys2Proof.Machine.execShr f s
  | .rot f => Sys2Proof.Machine.execRot f s
  | .bit f => Sys2Proof.Machine.execBit f s
  | .bfld f => Sys2Proof.Machine.execBfld f s
  | .mov f => Sys2Proof.Machine.execMov f s
  | .plog f => Sys2Proof.Machine.execPlog f s
  | .pcvt f => Sys2Proof.Machine.execPcvt f s
  | .vote f => Sys2Proof.Machine.execVote f s
  | .sadd f => Sys2Proof.Machine.execSadd f s
  | .ssub f => Sys2Proof.Machine.execSsub f s
  | .smul f => Sys2Proof.Machine.execSmul f s
  | .smin f => Sys2Proof.Machine.execSmin f s
  | .smax f => Sys2Proof.Machine.execSmax f s
  | .slog f => Sys2Proof.Machine.execSlog f s
  | .sshl f => Sys2Proof.Machine.execSshl f s
  | .sshr f => Sys2Proof.Machine.execSshr f s
  | .scmp f => Sys2Proof.Machine.execScmp f s
  | .ssel f => Sys2Proof.Machine.execSsel f s
  | .smov f => Sys2Proof.Machine.execSmov f s
  | .cbase f => Sys2Proof.Machine.execCbase f s
  | .sbit f => Sys2Proof.Machine.execSbit f s
  | .fadd f => Sys2Proof.Machine.execFadd f s
  | .fsub f => Sys2Proof.Machine.execFsub f s
  | .fmul f => Sys2Proof.Machine.execFmul f s
  | .ffma f => Sys2Proof.Machine.execFfma f s
  | .fmin f => Sys2Proof.Machine.execFmin f s
  | .fmax f => Sys2Proof.Machine.execFmax f s
  | .fcmp f => Sys2Proof.Machine.execFcmp f s
  | .fsel f => Sys2Proof.Machine.execFsel f s
  | .fclass f => Sys2Proof.Machine.execFclass f s
  | .frnd f => Sys2Proof.Machine.execFrnd f s
  | .fldexp f => Sys2Proof.Machine.execFldexp f s
  | .ffrexp f => Sys2Proof.Machine.execFfrexp f s
  | .fdiv f => Sys2Proof.Machine.execFdiv f s
  | .fsqrt f => Sys2Proof.Machine.execFsqrt f s
  | .fexp2 f => Sys2Proof.Machine.execFexp2 f s
  | .flog2 f => Sys2Proof.Machine.execFlog2 f s
  | .fsin f => Sys2Proof.Machine.execFsin f s
  | .fcos f => Sys2Proof.Machine.execFcos f s
  | .ftanh f => Sys2Proof.Machine.execFtanh f s
  | .flogi f => Sys2Proof.Machine.execFlogi f s
  | .frcp f => Sys2Proof.Machine.execFrcp f s
  | .frsqrt f => Sys2Proof.Machine.execFrsqrt f s
  | .cvt f => Sys2Proof.Machine.execCvt f s
  | .bquant f => Sys2Proof.Machine.execBquant f s
  | .bdequant f => Sys2Proof.Machine.execBdequant f s
  | .pack f => Sys2Proof.Machine.execPack f s
  | .unpack f => Sys2Proof.Machine.execUnpack f s
  | .srseed f => Sys2Proof.Machine.execSrseed f s
  | .ld f => Sys2Proof.Machine.execLd f s
  | .st f => Sys2Proof.Machine.execSt f s
  | .lda f => Sys2Proof.Machine.execLda f s
  | .stl f => Sys2Proof.Machine.execStl f s
  | .atom f => Sys2Proof.Machine.execAtom f s
  | .cas f => Sys2Proof.Machine.execCas f s
  | .fence f => Sys2Proof.Machine.execFence f s
  | .marm f => Sys2Proof.Machine.execMarm f s
  | .mwait f => Sys2Proof.Machine.execMwait f s
  | .bar f => Sys2Proof.Machine.execBar f s
  | .push f => Sys2Proof.Machine.execPush f s
  | .pop f => Sys2Proof.Machine.execPop f s
  | .oload f => Sys2Proof.Machine.execOload f s
  | .mma f => Sys2Proof.Machine.execMma f s
  | .cmma f => Sys2Proof.Machine.execCmma f s
  | .mzpc f => Sys2Proof.Machine.execMzpc f s
  | .aload f => Sys2Proof.Machine.execAload f s
  | .aread f => Sys2Proof.Machine.execAread f s
  | .awrite f => Sys2Proof.Machine.execAwrite f s
  | .adrain f => Sys2Proof.Machine.execAdrain f s
  | .semsig f => Sys2Proof.Machine.execSemsig f s
  | .semwait f => Sys2Proof.Machine.execSemwait f s
  | .semrd f => Sys2Proof.Machine.execSemrd f s
  | .post f => Sys2Proof.Machine.execPost f s
  | .collect f => Sys2Proof.Machine.execCollect f s
  | .amsend f => Sys2Proof.Machine.execAmsend f s
  | .coll f => Sys2Proof.Machine.execColl f s
  | .bra f => Sys2Proof.Machine.execBra f s
  | .call f => Sys2Proof.Machine.execCall f s
  | .brx f => Sys2Proof.Machine.execBrx f s
  | .callx f => Sys2Proof.Machine.execCallx f s
  | .ret f => Sys2Proof.Machine.execRet f s
  | .join f => Sys2Proof.Machine.execJoin f s
  | .exit f => Sys2Proof.Machine.execExit f s
  | .trap f => Sys2Proof.Machine.execTrap f s
  | .yield f => Sys2Proof.Machine.execYield f s
  | .nop f => Sys2Proof.Machine.execNop f s
  | .gset f => Sys2Proof.Machine.execGset f s
  | .gclr f => Sys2Proof.Machine.execGclr f s
  | .csrRd f => Sys2Proof.Machine.execCsrRd f s
  | .csrWr f => Sys2Proof.Machine.execCsrWr f s
  | .tret f => Sys2Proof.Machine.execTret f s
  | .iaddI32Short f => Sys2Proof.Machine.execIaddI32Short f s
  | .isubI32Short f => Sys2Proof.Machine.execIsubI32Short f s
  | .iaddI64Short f => Sys2Proof.Machine.execIaddI64Short f s
  | .iminI32Short f => Sys2Proof.Machine.execIminI32Short f s
  | .imaxI32Short f => Sys2Proof.Machine.execImaxI32Short f s
  | .iminUi32Short f => Sys2Proof.Machine.execIminUi32Short f s
  | .imaxUi32Short f => Sys2Proof.Machine.execImaxUi32Short f s
  | .imulI24Short f => Sys2Proof.Machine.execImulI24Short f s
  | .imulI32Short f => Sys2Proof.Machine.execImulI32Short f s
  | .iaddrX4Ui32Short f => Sys2Proof.Machine.execIaddrX4Ui32Short f s
  | .icmpEqI32Short f => Sys2Proof.Machine.execIcmpEqI32Short f s
  | .icmpNeI32Short f => Sys2Proof.Machine.execIcmpNeI32Short f s
  | .icmpLtI32Short f => Sys2Proof.Machine.execIcmpLtI32Short f s
  | .icmpLtUi32Short f => Sys2Proof.Machine.execIcmpLtUi32Short f s
  | .icmpGeI32Short f => Sys2Proof.Machine.execIcmpGeI32Short f s
  | .andB32Short f => Sys2Proof.Machine.execAndB32Short f s
  | .orB32Short f => Sys2Proof.Machine.execOrB32Short f s
  | .xorB32Short f => Sys2Proof.Machine.execXorB32Short f s
  | .andnB32Short f => Sys2Proof.Machine.execAndnB32Short f s
  | .notB32Short f => Sys2Proof.Machine.execNotB32Short f s
  | .shlB32Short f => Sys2Proof.Machine.execShlB32Short f s
  | .shrUi32Short f => Sys2Proof.Machine.execShrUi32Short f s
  | .shrI32Short f => Sys2Proof.Machine.execShrI32Short f s
  | .rotLB32Short f => Sys2Proof.Machine.execRotLB32Short f s
  | .bitPopcB32Short f => Sys2Proof.Machine.execBitPopcB32Short f s
  | .bitClzB32Short f => Sys2Proof.Machine.execBitClzB32Short f s
  | .movB32Short f => Sys2Proof.Machine.execMovB32Short f s
  | .movB64Short f => Sys2Proof.Machine.execMovB64Short f s
  | .shlB64Short f => Sys2Proof.Machine.execShlB64Short f s
  | .shrUi64Short f => Sys2Proof.Machine.execShrUi64Short f s
  | .bfldByteB32Short f => Sys2Proof.Machine.execBfldByteB32Short f s
  | .smovB64Short f => Sys2Proof.Machine.execSmovB64Short f s
  | .cbaseShort f => Sys2Proof.Machine.execCbaseShort f s
  | .faddF32Short f => Sys2Proof.Machine.execFaddF32Short f s
  | .fsubF32Short f => Sys2Proof.Machine.execFsubF32Short f s
  | .fmulF32Short f => Sys2Proof.Machine.execFmulF32Short f s
  | .fminF32Short f => Sys2Proof.Machine.execFminF32Short f s
  | .fmaxF32Short f => Sys2Proof.Machine.execFmaxF32Short f s
  | .fminNanF32Short f => Sys2Proof.Machine.execFminNanF32Short f s
  | .fmaxNanF32Short f => Sys2Proof.Machine.execFmaxNanF32Short f s
  | .faddF16x2Short f => Sys2Proof.Machine.execFaddF16x2Short f s
  | .fmulF16x2Short f => Sys2Proof.Machine.execFmulF16x2Short f s
  | .faddBf16x2Short f => Sys2Proof.Machine.execFaddBf16x2Short f s
  | .fmulBf16x2Short f => Sys2Proof.Machine.execFmulBf16x2Short f s
  | .fcmpLtF32Short f => Sys2Proof.Machine.execFcmpLtF32Short f s
  | .fcmpLeF32Short f => Sys2Proof.Machine.execFcmpLeF32Short f s
  | .fcmpEqF32Short f => Sys2Proof.Machine.execFcmpEqF32Short f s
  | .fldexpF32Short f => Sys2Proof.Machine.execFldexpF32Short f s
  | .frndRneF32Short f => Sys2Proof.Machine.execFrndRneF32Short f s
  | .fexp2F32Short f => Sys2Proof.Machine.execFexp2F32Short f s
  | .flog2F32Short f => Sys2Proof.Machine.execFlog2F32Short f s
  | .fsinF32Short f => Sys2Proof.Machine.execFsinF32Short f s
  | .fcosF32Short f => Sys2Proof.Machine.execFcosF32Short f s
  | .ftanhF32Short f => Sys2Proof.Machine.execFtanhF32Short f s
  | .flogiF32Short f => Sys2Proof.Machine.execFlogiF32Short f s
  | .frcpF32Short f => Sys2Proof.Machine.execFrcpF32Short f s
  | .frsqrtF32Short f => Sys2Proof.Machine.execFrsqrtF32Short f s
  | .cvtF32I32Short f => Sys2Proof.Machine.execCvtF32I32Short f s
  | .cvtI32F32Short f => Sys2Proof.Machine.execCvtI32F32Short f s
  | .cvtF16F32Short f => Sys2Proof.Machine.execCvtF16F32Short f s
  | .cvtF32F16Short f => Sys2Proof.Machine.execCvtF32F16Short f s
  | .cvtBf16F32Short f => Sys2Proof.Machine.execCvtBf16F32Short f s
  | .cvtF32Bf16Short f => Sys2Proof.Machine.execCvtF32Bf16Short f s
  | .ldStackB32Short f => Sys2Proof.Machine.execLdStackB32Short f s
  | .ldTeamB32Short f => Sys2Proof.Machine.execLdTeamB32Short f s
  | .ldScrB32Short f => Sys2Proof.Machine.execLdScrB32Short f s
  | .ldTeamB64Short f => Sys2Proof.Machine.execLdTeamB64Short f s
  | .ldScrB64Short f => Sys2Proof.Machine.execLdScrB64Short f s
  | .ldTeamB128Short f => Sys2Proof.Machine.execLdTeamB128Short f s
  | .ldScrB128Short f => Sys2Proof.Machine.execLdScrB128Short f s
  | .ldPeerB32Short f => Sys2Proof.Machine.execLdPeerB32Short f s
  | .fenceTeamShort f => Sys2Proof.Machine.execFenceTeamShort f s
  | .fenceDieShort f => Sys2Proof.Machine.execFenceDieShort f s
  | .fenceModShort f => Sys2Proof.Machine.execFenceModShort f s
  | .fenceSysShort f => Sys2Proof.Machine.execFenceSysShort f s
  | .barShort f => Sys2Proof.Machine.execBarShort f s
  | .mwaitShort f => Sys2Proof.Machine.execMwaitShort f s
  | .popB32Short f => Sys2Proof.Machine.execPopB32Short f s
  | .oclaim f => Sys2Proof.Machine.execOclaim f s
  | .orelease f => Sys2Proof.Machine.execOrelease f s
  | .aclaim f => Sys2Proof.Machine.execAclaim f s
  | .arelease f => Sys2Proof.Machine.execArelease f s
  | .aclear f => Sys2Proof.Machine.execAclear f s
  | .mwaitq f => Sys2Proof.Machine.execMwaitq f s
  | .mstat f => Sys2Proof.Machine.execMstat f s
  | .braShort off => Sys2Proof.Machine.execBraShort off s
  | .callShort off => Sys2Proof.Machine.execCallShort off s
  | .retShort f => Sys2Proof.Machine.execRetShort f s
  | .land f => Sys2Proof.Machine.execLand f s
  | .exitShort f => Sys2Proof.Machine.execExitShort f s
  | .nopShort f => Sys2Proof.Machine.execNopShort f s
  | .yieldShort f => Sys2Proof.Machine.execYieldShort f s
  | .trapShort f => Sys2Proof.Machine.execTrapShort f s
  | .trapBrkShort f => Sys2Proof.Machine.execTrapBrkShort f s
  | .joinShort f => Sys2Proof.Machine.execJoinShort f s
  | .iaddI32Limm f => Sys2Proof.Machine.execIaddI32Limm f s
  | .iaddI64Limm f => Sys2Proof.Machine.execIaddI64Limm f s
  | .imulI24Limm f => Sys2Proof.Machine.execImulI24Limm f s
  | .icmpEqI32Limm f => Sys2Proof.Machine.execIcmpEqI32Limm f s
  | .icmpLtI32Limm f => Sys2Proof.Machine.execIcmpLtI32Limm f s
  | .icmpLtUi32Limm f => Sys2Proof.Machine.execIcmpLtUi32Limm f s
  | .iaddrUi32Limm f => Sys2Proof.Machine.execIaddrUi32Limm f s
  | .andB32Limm f => Sys2Proof.Machine.execAndB32Limm f s
  | .orB32Limm f => Sys2Proof.Machine.execOrB32Limm f s
  | .xorB32Limm f => Sys2Proof.Machine.execXorB32Limm f s
  | .movB32Limm f => Sys2Proof.Machine.execMovB32Limm f s
  | .movB64Limm f => Sys2Proof.Machine.execMovB64Limm f s
  | .smovB64Limm f => Sys2Proof.Machine.execSmovB64Limm f s
  | .cbaseLimm f => Sys2Proof.Machine.execCbaseLimm f s
  | .faddF32Limm f => Sys2Proof.Machine.execFaddF32Limm f s
  | .fmulF32Limm f => Sys2Proof.Machine.execFmulF32Limm f s
  | .fmaxF32Limm f => Sys2Proof.Machine.execFmaxF32Limm f s
  | .fminF32Limm f => Sys2Proof.Machine.execFminF32Limm f s
  | .ldStackB32Limm f => Sys2Proof.Machine.execLdStackB32Limm f s
  | .ldTeamB32Limm f => Sys2Proof.Machine.execLdTeamB32Limm f s
  | .ldScrB32Limm f => Sys2Proof.Machine.execLdScrB32Limm f s
  | .ldScrB64Limm f => Sys2Proof.Machine.execLdScrB64Limm f s
  | .ldScrB128Limm f => Sys2Proof.Machine.execLdScrB128Limm f s
  | .ldPeerB32Limm f => Sys2Proof.Machine.execLdPeerB32Limm f s
  | .braFar f => Sys2Proof.Machine.execBraFar f s
  | .callFar f => Sys2Proof.Machine.execCallFar f s
  | .joinLimm f => Sys2Proof.Machine.execJoinLimm f s
  | .repRepetition => Sys2Proof.Machine.execRepRepetition s
  | .invIteration gid tid => Sys2Proof.Machine.execInvIteration gid tid s
  | .joinRelease gid adr => Sys2Proof.Machine.execJoinRelease gid adr s
  | .spinForce gid tid => Sys2Proof.Machine.execSpinForce gid tid s
  | .yieldExpiry gid tid => Sys2Proof.Machine.execYieldExpiry gid tid s
  | .contextFree gid tid => Sys2Proof.Machine.execContextFree gid tid s
  | .groupRetire gid => Sys2Proof.Machine.execGroupRetire gid s
  | .launchComplete lid => Sys2Proof.Machine.execLaunchComplete lid s
  | .teamAdmit lid team => Sys2Proof.Machine.execTeamAdmit lid team s
  | .messageWhole m => Sys2Proof.Machine.execMessageWhole m s
  | .handlerStart die => Sys2Proof.Machine.execHandlerStart die s
  | .storeAck gid tid seq => Sys2Proof.Machine.execStoreAck gid tid seq s
  | .accessPerform gid tid seq => Sys2Proof.Machine.execAccessPerform gid tid seq s
  | .faultService core asid page => Sys2Proof.Machine.execFaultService core asid page s
  | .tableChange asid c => Sys2Proof.Machine.execTableChange asid c s
  | .passGrant quad => Sys2Proof.Machine.execPassGrant quad s
  | .passComplete quad => Sys2Proof.Machine.execPassComplete quad s
  | .priorityRise quad cid => Sys2Proof.Machine.execPriorityRise quad cid s
  | .oloadComplete quad cid => Sys2Proof.Machine.execOloadComplete quad cid s
  | .aloadComplete quad cid => Sys2Proof.Machine.execAloadComplete quad cid s
  | .areadComplete quad cid => Sys2Proof.Machine.execAreadComplete quad cid s
  | .drainComplete quad cid => Sys2Proof.Machine.execDrainComplete quad cid s
  | .copyAccept gid tid seq => Sys2Proof.Machine.execCopyAccept gid tid seq s
  | .copyBegin die chan => Sys2Proof.Machine.execCopyBegin die chan s
  | .checksumRecord die chan cid => Sys2Proof.Machine.execChecksumRecord die chan cid s
  | .postmark die chan cid => Sys2Proof.Machine.execPostmark die chan cid s
  | .copyIncrement die chan cid => Sys2Proof.Machine.execCopyIncrement die chan cid s
  | .drainLimit tuid => Sys2Proof.Machine.execDrainLimit tuid s
  | .dealerStart gid tid seq => Sys2Proof.Machine.execDealerStart gid tid seq s
  | .mopHalt core => Sys2Proof.Machine.execMopHalt core s
  | .mopGet core => Sys2Proof.Machine.execMopGet core s
  | .mopGets core => Sys2Proof.Machine.execMopGets core s
  | .mopPutm core => Sys2Proof.Machine.execMopPutm core s
  | .mopPut core => Sys2Proof.Machine.execMopPut core s
  | .mopExpand core => Sys2Proof.Machine.execMopExpand core s
  | .mopCvtn core => Sys2Proof.Machine.execMopCvtn core s
  | .mopCvtw core => Sys2Proof.Machine.execMopCvtw core s
  | .mopTr8 core => Sys2Proof.Machine.execMopTr8 core s
  | .mopCopy core => Sys2Proof.Machine.execMopCopy core s
  | .mopMovi core => Sys2Proof.Machine.execMopMovi core s
  | .mopAddi core => Sys2Proof.Machine.execMopAddi core s
  | .mopLdk core => Sys2Proof.Machine.execMopLdk core s
  | .mopLoop core => Sys2Proof.Machine.execMopLoop core s
  | .mopJmp core => Sys2Proof.Machine.execMopJmp core s
  | .mopSemw core => Sys2Proof.Machine.execMopSemw core s
  | .mopSig core => Sys2Proof.Machine.execMopSig core s
  | .mopFence core => Sys2Proof.Machine.execMopFence core s
  | .collectiveComplete uid peers rejected => Sys2Proof.Machine.execCollectiveComplete uid peers rejected s
  | .linkTraining port partner partnerPort => Sys2Proof.Machine.execLinkTraining port partner partnerPort s
  | .flitReceive port header rest => Sys2Proof.Machine.execFlitReceive port header rest s
  | .replayRequest port seq => Sys2Proof.Machine.execReplayRequest port seq s
  | .linkReplayTimeout port => Sys2Proof.Machine.execLinkReplayTimeout port s
  | .keyExhausted port => Sys2Proof.Machine.execKeyExhausted port s
  | .detourInstall peer onward => Sys2Proof.Machine.execDetourInstall peer onward s
  | .requestResend die peer seq => Sys2Proof.Machine.execRequestResend die peer seq s
  | .requestArrive r => Sys2Proof.Machine.execRequestArrive r s
  | .responseArrive die peer seq resp => Sys2Proof.Machine.execResponseArrive die peer seq resp s
  | .windowChange index entry => Sys2Proof.Machine.execWindowChange index entry s
  | .tailPointerWrite gid tid seq => Sys2Proof.Machine.execTailPointerWrite gid tid seq s
  | .msixIncrement port adr data => Sys2Proof.Machine.execMsixIncrement port adr data s
  | .atsTranslationRequest rid pasid va ask => Sys2Proof.Machine.execAtsTranslationRequest rid pasid va ask s
  | .pageRequest rid pasid va read write grp => Sys2Proof.Machine.execPageRequest rid pasid va read write grp s
  | .pageRequestService => Sys2Proof.Machine.execPageRequestService s
  | .pageResponse => Sys2Proof.Machine.execPageResponse s
  | .stopMarker rid pasid => Sys2Proof.Machine.execStopMarker rid pasid s
  | .endpointRequest r => Sys2Proof.Machine.execEndpointRequest r s
  | .bridgeRequest port adr write bytes len => Sys2Proof.Machine.execBridgeRequest port adr write bytes len s
  | .functionFailure rid code => Sys2Proof.Machine.execFunctionFailure rid code s
  | .invalidateTimeout rid => Sys2Proof.Machine.execInvalidateTimeout rid s
  | .hotAdd port rid cls offers units dflt => Sys2Proof.Machine.execHotAdd port rid cls offers units dflt s
  | .frameReceive port fcsOk bytes => Sys2Proof.Machine.execFrameReceive port fcsOk bytes s
  | .producerWrite port cls => Sys2Proof.Machine.execProducerWrite port cls s
  | .ingestIncrement port cls => Sys2Proof.Machine.execIngestIncrement port cls s
  | .pausePoll port cls => Sys2Proof.Machine.execPausePoll port cls s
  | .pauseRepeat port cls => Sys2Proof.Machine.execPauseRepeat port cls s
  | .wakeFilterMatch port bytes => Sys2Proof.Machine.execWakeFilterMatch port bytes s
  | .heldFrameReplay => Sys2Proof.Machine.execHeldFrameReplay s
  | .loadObject c => Sys2Proof.Machine.execLoadObject c s
  | .unloadObject c => Sys2Proof.Machine.execUnloadObject c s
  | .unloadEffect handle => Sys2Proof.Machine.execUnloadEffect handle s
  | .runGraph c => Sys2Proof.Machine.execRunGraph c s
  | .openQueue c => Sys2Proof.Machine.execOpenQueue c s
  | .openRing c => Sys2Proof.Machine.execOpenRing c s
  | .closeRing c => Sys2Proof.Machine.execCloseRing c s
  | .unknownCommand c => Sys2Proof.Machine.execUnknownCommand c s
  | .runBegin queue => Sys2Proof.Machine.execRunBegin queue s
  | .quantumBoundary => Sys2Proof.Machine.execQuantumBoundary s
  | .queueLevelRise queue => Sys2Proof.Machine.execQueueLevelRise queue s
  | .admissionWaitLimit lid team => Sys2Proof.Machine.execAdmissionWaitLimit lid team s
  | .preempt tuid => Sys2Proof.Machine.execPreempt tuid s
  | .teamResume tuid => Sys2Proof.Machine.execTeamResume tuid s
  | .haltRequest gid => Sys2Proof.Machine.execHaltRequest gid s
  | .stepAll gid => Sys2Proof.Machine.execStepAll gid s
  | .stepOne gid => Sys2Proof.Machine.execStepOne gid s
  | .debugResume gid => Sys2Proof.Machine.execDebugResume gid s
  | .debugStateRead gid item => Sys2Proof.Machine.execDebugStateRead gid item s
  | .debugStateWrite gid item value => Sys2Proof.Machine.execDebugStateWrite gid item value s
  | .letterSend src dst kind body => Sys2Proof.Machine.execLetterSend src dst kind body s
  | .letterArrival src dst => Sys2Proof.Machine.execLetterArrival src dst s
  | .letterboxRefusedClear core mask => Sys2Proof.Machine.execLetterboxRefusedClear core mask s
  | .powerOn hbm found => Sys2Proof.Machine.execPowerOn hbm found s
  | .bootFailBlink => Sys2Proof.Machine.execBootFailBlink s
  | .attestationRequest nonce => Sys2Proof.Machine.execAttestationRequest nonce s
  | .planSelect plan => Sys2Proof.Machine.execPlanSelect plan s
  | .clockRelock die => Sys2Proof.Machine.execClockRelock die s
  | .powerSample watts => Sys2Proof.Machine.execPowerSample watts s
  | .wearSample die index => Sys2Proof.Machine.execWearSample die index s
  | .healthReport => Sys2Proof.Machine.execHealthReport s
  | .systemCoreGate filter => Sys2Proof.Machine.execSystemCoreGate filter s
  | .illegalInstruction cause word => Sys2Proof.Machine.execIllegalInstruction cause word s
  | .itemWritten lid hole => Sys2Proof.Machine.execItemWritten lid hole s
  | .powerLoss => Sys2Proof.Machine.execPowerLoss s

end Sys2Proof.Machine
end

