-- ==== Sys2Proof/Machine/Moves.lean ====
section
/-!
DEFINITION. What the module may do next: issue a trick on a core (02 R23), go on with a REP unit (09 R179), single-step (26 R452), take an
occurrence of the outside, or take one of its own steps whose condition holds. Between parts that the spec gives no order (02 R8, R9) every
order is open (DESIGN CHOICE, log 4).
-/

namespace Sys2Proof.Machine

/-- A move. `intake` is the command at the head of a queue, by kind. -/
inductive Move where
  | again (i : Issue)
  | issue (core : Nat)
  | single (gid : Nat)
  | input
  | joinRelease (gid : Nat) (adr : Word)
  | invIteration (gid tid : Nat)
  | spinForce (gid tid : Nat)
  | yieldExpiry (gid tid : Nat)
  | contextFree (gid tid : Nat)
  | groupRetire (gid : Nat)
  | launchComplete (lid : Nat)
  | teamAdmit (lid team : Nat)
  | admissionWaitLimit (lid team : Nat)
  | messageWhole (m : Msg)
  | handlerStart (die : Nat)
  | storeAck (gid tid seq : Nat)
  | accessPerform (gid tid seq : Nat)
  | tailPointerWrite (gid tid seq : Nat)
  | itemWritten (lid hole : Nat)
  | faultService (core asid page : Nat)
  | passGrant (quad : Nat)
  | passComplete (quad : Nat)
  | priorityRise (quad cid : Nat)
  | oloadComplete (quad cid : Nat)
  | aloadComplete (quad cid : Nat)
  | areadComplete (quad cid : Nat)
  | drainComplete (quad cid : Nat)
  | copyAccept (gid tid seq : Nat)
  | copyBegin (die chan : Nat)
  | checksumRecord (die chan cid : Nat)
  | postmark (die chan cid : Nat)
  | copyIncrement (die chan cid : Nat)
  | drainLimit (tuid : Nat)
  | dealerStart (gid tid seq : Nat)
  | mop (core n : Nat)
  | collectiveComplete (uid : Nat)
  | linkReplayTimeout (port : Nat)
  | keyExhausted (port : Nat)
  | requestResend (die peer : Nat) (seq : Word)
  | requestArrive (r : PeerRequest)
  | responseArrive (die peer : Nat) (seq : Word) (r : PeerResponse)
  | tableChange (d : Shootdown)
  | invalidateTimeout (rid : Nat)
  | pageRequestService
  | pageResponse
  | producerWrite (port cls : Nat)
  | ingestIncrement (port cls : Nat)
  | pausePoll (port cls : Nat)
  | pauseRepeat (port cls : Nat)
  | heldFrameReplay
  | intake (kind queue : Nat)
  | unloadEffect (handle : Nat)
  | runBegin (queue : Nat)
  | quantumBoundary
  | queueLevelRise (queue : Nat)
  | preempt (tuid : Nat)
  | teamResume (tuid : Nat)
  | letterArrival (src dst : Nat)
  | bootFailBlink
  | clockRelock (die : Nat)
  deriving DecidableEq, Repr

/-! ### Running a move -/

/-- Between a unit and its next repetition stands the end of the repetition (R179). -/
def endRep (o : Out) : Out :=
  match o with
  | .next s => if s.repeating then execRepRepetition s else .next s
  | o => o
/-- Run what a core issues: an instruction, or the trap of a unit that does not decode. -/
def runUnit (x : Except UnitError Instr × State) : Out :=
  match x.1 with
  | .ok i => endRep (exec i x.2)
  | .error e => execIllegalInstruction e.cause e.word x.2
/-- Issue the next trick of a core. -/
def State.issueOn (s : State) (core : Nat) : Out :=
  match s.pick core with
  | some (lid, pc, trick) => runUnit (s.begin core lid pc trick)
  | none => .next s
/-- Issue the next sub-group of a step. -/
def State.singleStep (s : State) (gid : Nat) : Out :=
  match s.group? gid with
  | none => .next s
  | some g =>
    match g.stepping with
    | [] => .next s
    | sub :: rest =>
      if ((s.team? g.tuid).map (·.state)) != some .resident then .next s else
      let s1 := s.modGroup gid fun h => { h with stepping := rest }
      let here := sub.filter fun i => match g.threads[i]? with | some t => t.ready && s.teamRuns g t | none => false
      match here with
      | [] => .next s1
      | i :: _ => runUnit (s1.begin g.coreNo g.lid (match g.threads[i]? with | some t => t.pc | none => 0) [(gid, here)])
/-- The system cores that own what an occurrence asks for; they come back for it where they are gated off (R462) (DEDUCED, log 27). A command, a frame
and a letter bring their core back themselves. -/
def ownersOf (i : Instr) : List Nat :=
  match i with
  | .tableChange _ _ | .windowChange _ _ => [3]
  | .pageRequest _ _ _ _ _ _ | .stopMarker _ _ | .functionFailure _ _ | .invalidateTimeout _ | .hotAdd _ _ _ _ _ _ => [4]
  | .linkTraining _ _ _ | .detourInstall _ _ => [5]
  | .planSelect _ | .healthReport => [1, 7]
  | .attestationRequest _ => [1]
  | .haltRequest _ | .stepAll _ | .stepOne _ | .debugResume _ | .debugStateRead _ _ | .debugStateWrite _ _ _ => [1, 6]
  | _ => []
/-- Take the next occurrence of the outside: a row of the part's own steps. An encodable instruction is no occurrence. -/
def State.takeInput (s : State) : Out :=
  match s.inputs with
  | [] => .next s
  | i :: r => if i.core.isSome then .next { s with inputs := r } else exec i ((ownersOf i).foldl State.restoreCore { s with inputs := r })
/-- A command at the head of its queue. -/
def runIntake (kind q : Nat) (s : State) : Out :=
  match kind with
  | 1 => execLoadObject (.head q) s
  | 2 => execUnloadObject (.head q) s
  | 4 => execOpenQueue (.head q) s
  | 5 => execOpenRing (.head q) s
  | 6 => execCloseRing (.head q) s
  | _ => .next s
/-- One step of a dealer, by its micro-operation. -/
def runMop (core n : Nat) (s : State) : Out :=
  match n with
  | 0 => execMopHalt core s
  | 1 => execMopGet core s
  | 2 => execMopGets core s
  | 3 => execMopPutm core s
  | 4 => execMopPut core s
  | 5 => execMopExpand core s
  | 6 => execMopCvtn core s
  | 7 => execMopCvtw core s
  | 8 => execMopTr8 core s
  | 9 => execMopCopy core s
  | 10 => execMopMovi core s
  | 11 => execMopAddi core s
  | 12 => execMopLdk core s
  | 13 => execMopLoop core s
  | 14 => execMopJmp core s
  | 15 => execMopSemw core s
  | 16 => execMopSig core s
  | _ => execMopFence core s

def Move.apply (m : Move) (s : State) : Out :=
  match m with
  | .again i => runUnit (s.again i)
  | .issue c => s.issueOn c
  | .single g => s.singleStep g
  | .input => s.takeInput
  | .joinRelease g a => execJoinRelease g a s
  | .invIteration g t => execInvIteration g t s
  | .spinForce g t => execSpinForce g t s
  | .yieldExpiry g t => execYieldExpiry g t s
  | .contextFree g t => execContextFree g t s
  | .groupRetire g => execGroupRetire g s
  | .launchComplete l => execLaunchComplete l s
  | .teamAdmit l t => execTeamAdmit l t s
  | .admissionWaitLimit l t => execAdmissionWaitLimit l t s
  | .messageWhole m => execMessageWhole m s
  | .handlerStart d => execHandlerStart d s
  | .storeAck g t q => execStoreAck g t q s
  | .accessPerform g t q => execAccessPerform g t q s
  | .tailPointerWrite g t q => execTailPointerWrite g t q s
  | .itemWritten l h => execItemWritten l h s
  | .faultService c a p => execFaultService c a p s
  | .passGrant q => execPassGrant q s
  | .passComplete q => execPassComplete q s
  | .priorityRise q c => execPriorityRise q c s
  | .oloadComplete q c => execOloadComplete q c s
  | .aloadComplete q c => execAloadComplete q c s
  | .areadComplete q c => execAreadComplete q c s
  | .drainComplete q c => execDrainComplete q c s
  | .copyAccept g t q => execCopyAccept g t q s
  | .copyBegin d c => execCopyBegin d c s
  | .checksumRecord d c i => execChecksumRecord d c i s
  | .postmark d c i => execPostmark d c i s
  | .copyIncrement d c i => execCopyIncrement d c i s
  | .drainLimit t => execDrainLimit t s
  | .dealerStart g t q => execDealerStart g t q s
  | .mop c n => runMop c n s
  | .collectiveComplete u => execCollectiveComplete u [] false s
  | .linkReplayTimeout p => execLinkReplayTimeout p s
  | .keyExhausted p => execKeyExhausted p s
  | .requestResend d p q => execRequestResend d p q s
  | .requestArrive r => execRequestArrive r { s with arrived := s.arrived.erase r }
  | .responseArrive d p q r => execResponseArrive d p q r { s with answered := s.answered.erase (d, p, q, r) }
  | .tableChange d => execTableChange d.asid (.entry d.level d.va d.e) s
  | .invalidateTimeout r => execInvalidateTimeout r s
  | .pageRequestService => execPageRequestService s
  | .pageResponse => execPageResponse s
  | .producerWrite p c => execProducerWrite p c s
  | .ingestIncrement p c => execIngestIncrement p c s
  | .pausePoll p c => execPausePoll p c s
  | .pauseRepeat p c => execPauseRepeat p c s
  | .heldFrameReplay => execHeldFrameReplay s
  | .intake k q => runIntake k q s
  | .unloadEffect h => execUnloadEffect h s
  | .runBegin q => execRunBegin q s
  | .quantumBoundary => execQuantumBoundary s
  | .queueLevelRise q => execQueueLevelRise q s
  | .preempt t => execPreempt t s
  | .teamResume t => execTeamResume t s
  | .letterArrival a b => execLetterArrival a b s
  | .bootFailBlink => execBootFailBlink s
  | .clockRelock d => execClockRelock d s

/-- A move that does something: one whose condition fails leaves the state as it is (DESIGN CHOICE, log 17). -/
def Move.acts (s : State) (m : Move) : Bool :=
  match m.apply s with
  | .next t => t != s
  | _ => true

/-! ### Around a move -/

/-- A die's clock stands while it relocks: its teams have left (R460), and no cycle passes on its cores. -/
def State.clockStands (s : State) (d : Nat) : Bool := (s.die d).stopped && !(s.teams.any fun t => t.placed && t.die == d)
/-- Time passes: `ns` nanoseconds on the system die and `n` cycles on the cores' clocks (R51) (DESIGN CHOICE, log 41). -/
def State.wait (s : State) (ns n : Nat) : State :=
  { s.pass ns with cores := s.cores.map fun (c : Nat × Core) =>
      (c.1, if s.clockStands (c.1 / 64) then c.2 else { c.2 with cycles := c.2.cycles + n }) }
/-- Time passes with a step; by how much is free (DESIGN CHOICE, log 5). -/
def State.elapse (s : State) : State :=
  { s.wait (Config.elapsed s.choices) (Config.coreCycles s.choices) with choices := s.choices + 1 }
/-- One bit of a word flips: a second one makes the word uncorrectable (R310). -/
def flips {α : Type} [DecidableEq α] (w : α) (soft bad : List α) : List α × List α :=
  if bad.contains w then (soft, bad) else if soft.contains w then (soft.erase w, bad ++ [w]) else (soft ++ [w], bad)
/-- A thread has gone on with a load that is still to read a word, whose data its unit has found good (R347): the word is not struck before the read
(DESIGN CHOICE, log 49). -/
def State.vouched (s : State) (p : Place) : Bool :=
  s.groups.any fun g => g.threads.any fun t => t.ops.any fun a => a.op.isPlainLoad && a.place.overlap a.size p 4
/-- Does a flip strike: a word that exists, and none that has one wrong bit and is vouched for? -/
def State.strikes (s : State) (e : Config.Flip) : Bool :=
  match e with
  | .scratchpad w => (match s.phys (4 * w) with | .scratch _ => true | _ => false) && !(s.softWords.contains w && s.vouched (.phys (4 * w)))
  | .team u h w => (match s.team? u with
    | some t => 4 * w < t.size && (h = 0 || (h = 1 && t.paired))
    | none => false) && !(s.teamSoft.contains (u, h, w) && s.vouched (.team u h (4 * w)))
  | .inner d _ => d < 12
/-- What a soft error does: a word has a wrong bit, or becomes uncorrectable; in a die's own stores it is corrected as it is read, counted and
reported. -/
def State.struck (s : State) (e : Config.Flip) : State :=
  match e with
  | .scratchpad w => { s with softWords := (flips w s.softWords s.badWords).1, badWords := (flips w s.softWords s.badWords).2 }
  | .team u h w => { s with teamSoft := (flips (u, h, w) s.teamSoft s.teamBad).1, teamBad := (flips (u, h, w) s.teamSoft s.teamBad).2 }
  | .inner d w => (s.setDie d { s.die d with corrected := (s.die d).corrected + 1 }).report 3 21 [w]
/-- A soft error may strike (R310) (DESIGN CHOICE, log 49): nothing but the stores it strikes, and its letter, depends on it. -/
def State.upset (s : State) : State :=
  let z := match (Config.upset s.choices).filter s.strikes with
    | some e => s.struck e
    | none => s
  { s with softWords := z.softWords, badWords := z.badWords, teamSoft := z.teamSoft, teamBad := z.teamBad, dies := z.dies,
           letters := z.letters, letterSeq := z.letterSeq, irqs := z.irqs, refused := z.refused }
/-- The end of a step: conditions that hold now take effect, units that waited for their accesses go on or replay, and a soft error may strike. -/
def ended (o : Out) : Out :=
  match o with
  | .next s => .next s.settle.freed.replayHeld.upset
  | o => o

/-! ### Candidates -/

def threadsOf (s : State) : List (Group × Nat × Thread) := s.groups.flatMap fun g => g.tidsOf.map fun e => (g, e.1, e.2)

/-- Conditions that the part sees in the cycle in which they hold: joins, the end of an evaluation's routine, rises, forced threads. -/
def State.urgent (s : State) : List Move :=
  (s.groups.flatMap fun g => (g.joinAdrs.filter g.joinReady).map fun a => Move.joinRelease g.gid a)
    ++ ((threadsOf s).filterMap fun x => match x.2.2.inv with
      | some e => if e.done then some (.invIteration x.1.gid x.2.1) else none
      | none => none)
    ++ (s.quads.flatMap fun q => (q.2.cmds.filter fun c => c.risesNow (s.quadNow q.1)).map fun c => Move.priorityRise q.1 c.cid)
    ++ ((threadsOf s).filterMap fun x =>
      if x.2.2.spin = 8 && x.2.2.forced.isNone && x.2.2.lastIssue + spinLimit ≤ (s.core x.1.coreNo).cycles then some (.spinForce x.1.gid x.2.1)
      else none)

/-- Cores that hold groups. -/
def State.busyCores (s : State) : List Nat := (s.groups.map Group.coreNo).eraseDups
def State.issueMoves (s : State) : List Move :=
  let mid := s.midway
  mid.map Move.again
    ++ (s.busyCores.filter fun c => !(mid.any fun i => i.core == c) && (s.pick c).isSome).map Move.issue
    ++ (s.groups.filter fun g => g.halted && !g.stepping.isEmpty && ((s.team? g.tuid).map (·.state)) == some .resident).map fun g =>
      Move.single g.gid

/-- Pending accesses. -/
def accessMove (g : Group) (tid : Nat) (a : Access) : Move :=
  match a.op, a.place with
  | .item _, .hole l h => .itemWritten l h
  | .store bs, .phys pa =>
    if isAperture pa then (if dealBit bs then .dealerStart g.gid tid a.seq else .copyAccept g.gid tid a.seq) else .storeAck g.gid tid a.seq
  | .store _, _ => .storeAck g.gid tid a.seq
  | _, _ => .accessPerform g.gid tid a.seq
def State.threadMoves (s : State) : List Move :=
  (threadsOf s).flatMap fun x =>
    let a := x.2.2.ops.map fun a => if s.isTail a then Move.tailPointerWrite x.1.gid x.2.1 a.seq else accessMove x.1 x.2.1 a
    let b := if x.2.2.exited && !x.2.2.freed then [Move.contextFree x.1.gid x.2.1] else []
    let c := match x.2.2.yieldUntil with
      | some u => if u ≤ (s.core x.1.coreNo).cycles then [Move.yieldExpiry x.1.gid x.2.1] else []
      | none => []
    let d := match x.2.2.postAt with | some h => [Move.itemWritten x.1.lid h] | none => []
    a ++ b ++ c ++ d
def State.launchMoves (s : State) : List Move :=
  (s.groups.filter fun g => !g.retired && g.threads.all Thread.exited).map (fun g => Move.groupRetire g.gid)
    ++ (s.launches.flatMap fun l => [.launchComplete l.lid] ++ if s.mayPlace l then
        [.teamAdmit l.lid l.nextTeam] ++ (if (s.roomFor l).isNone then [.admissionWaitLimit l.lid l.nextTeam] else [])
      else [])
    ++ ((landsNext s.boot.position [] s.messagesOut).map fun e => Move.messageWhole e.m)
    ++ ((s.dies.filter fun d => !d.2.messages.isEmpty).map fun d => Move.handlerStart d.1)
    ++ s.teams.flatMap fun t => match t.state with
      | .stopping => [.preempt t.tuid] ++ if t.drainBy.isSome then [.drainLimit t.tuid] else []
      | .resident => if !t.dealers.isEmpty then [.teamResume t.tuid] else []
      | _ => [.teamResume t.tuid]
def State.engineMoves (s : State) : List Move :=
  (s.quads.flatMap fun q => [.passGrant q.1, .passComplete q.1] ++ q.2.cmds.flatMap fun c =>
      [.oloadComplete q.1 c.cid, .aloadComplete q.1 c.cid, .areadComplete q.1 c.cid, .drainComplete q.1 c.cid])
    ++ (s.dies.flatMap fun d => d.2.channels.flatMap fun c => [.copyBegin d.1 c.1] ++ c.2.queue.flatMap fun x =>
      [.checksumRecord d.1 c.1 x.cid, .postmark d.1 c.1 x.cid, .copyIncrement d.1 c.1 x.cid])
    ++ (s.cores.filter fun c => c.2.dealer.running).map (fun c =>
      .mop c.1 (match s.launch? c.2.dealer.lid with
        | some l => (match s.microOp l c.2.dealer with | .ok m => m.mop | .error _ => 0)
        | none => 0))
    ++ (s.collectives.map fun x => Move.collectiveComplete x.uid)
    ++ s.cores.flatMap fun c => c.2.faults.map fun e => Move.faultService c.1 e.asid e.page
def State.systemMoves (s : State) : List Move :=
  (s.ports.flatMap fun p => [.linkReplayTimeout p.1, .keyExhausted p.1])
    ++ (s.pairs.flatMap fun p => p.2.out.map fun o => Move.requestResend (p.1 / 16) (p.1 % 16) o.seq)
    ++ (s.arrived.map Move.requestArrive) ++ (s.answered.map fun e => Move.responseArrive e.1 e.2.1 e.2.2.1 e.2.2.2)
    ++ (s.shootdowns.map Move.tableChange) ++ ((s.shootdowns.flatMap (·.awaiting)).eraseDups.map Move.invalidateTimeout)
    ++ (s.letters.flatMap fun b => [.letterArrival (b.1 / 8) (b.1 % 8)])
    ++ (if s.letters.isEmpty then [] else [.pageRequestService, .pageResponse])
    ++ (s.rings.flatMap fun r => (if r.2.stage = 1 then [Move.producerWrite (r.1 / 8) (r.1 % 8)] else [])
      ++ (if r.2.stage = 2 then [.ingestIncrement (r.1 / 8) (r.1 % 8)] else [])
      ++ if r.2.paused then [.pausePoll (r.1 / 8) (r.1 % 8), .pauseRepeat (r.1 / 8) (r.1 % 8)] else [])
    ++ (if s.heldFrame.isSome then [.heldFrameReplay] else [])
    ++ (s.queues.flatMap fun q => match q.2.head with
      | some c => if u8 c.bytes 0 = 3 then [Move.runBegin q.1] else [.intake (u8 c.bytes 0) q.1]
      | none => [])
    ++ ((s.objects.filter fun o => o.unloading).map fun o => Move.unloadEffect o.handle)
    ++ (if !s.working.isEmpty || !s.slotsOf.isEmpty || s.boot.selected.isSome || s.boot.lowPower
        || (100 ≤ s.boot.calmMs && s.cores.any fun c => c.2.budget < c.2.configured) then [.quantumBoundary] else [])
    ++ ((s.working.filter fun q => (s.swq q).eff < 7).map fun q => Move.queueLevelRise q)
    ++ (if s.boot.blinking then [.bootFailBlink] else [])
    ++ ((s.dies.filter fun d => d.2.stopped).map fun d => Move.clockRelock d.1)

/-- Everything the module may do next: what is urgent alone, else each of the others. -/
def State.moves (s : State) : List Move :=
  match s.urgent.filter (Move.acts s) with
  | m :: _ => [m]
  | [] =>
    (if s.inputs.isEmpty then [] else [.input]) ++ s.issueMoves
      ++ (s.threadMoves ++ s.launchMoves ++ s.engineMoves ++ s.systemMoves).filter (Move.acts s)

end Sys2Proof.Machine
end

