-- ==== Sys2Proof/Machine/Step.lean ====
section
/-!
DEFINITION. One step of the module: one of its moves, and the time that it takes. Where a program's first instruction comes from is said
in the assumption log (DESIGN CHOICE, log 28).
-/

namespace Sys2Proof.Machine

/-- The move that is made: the only one, or the choice among several (DESIGN CHOICE, log 4). -/
def State.choose (s : State) (m : Move) (r : List Move) : Move :=
  match r with
  | [] => m
  | _ => nth (m :: r) (Config.choose s.choices (r.length + 1) % (r.length + 1)) m

/-- A module without power, or with it and not booted, that shows no boot failure: nothing but a POWER_ON changes it (R454, R455). -/
def State.dead (s : State) : Bool := !s.boot.booted && !s.boot.blinking

/-- One step. Where nothing may happen, a module that has power waits for at least a cycle (DESIGN CHOICE, log 41). -/
def step (s : State) : Host.Outcome State Fault Refusal :=
  match s.moves with
  | [] => if s.dead then .fault .noPower else .next (s.elapse.wait 1 1)
  | m :: r => ended ((s.choose m r).apply s.elapse)

/-! ### A program of one unit, placed from outside -/

/-- The launch record of a unit placed at a text base: one team of one group of eight threads, with 128 registers. -/
def fetchKernel (base : Nat) : Kernel :=
  { width := 8, regs := 128, groups := 1, energy := 0, paired := false, teams := 1, teamSize := 256, textBase := base, textSize := 64,
    entry := 0, constBase := base + 64, constCount := 0, imageSize := 0, imageBase := 0, templateBase := 0, templateCount := 0,
    handlers := [], holes := [], routines := [], regions := [], landing := [], slots := List.replicate 8 0 }
/-- Its launch on die 0. -/
def fetchLaunch (base lid : Nat) : Launch :=
  { lid := lid, run := 256, node := 0, kernel := fetchKernel base, home := 0, asid := 1, dies := 1, mask := 0, prio := 0, order := 0,
    nextTeam := 1, waitSince := 0, pressing := false, holes := [], holeFrames := [], lastPost := false, failed := false }
/-- The bits of a unit as its words lie in memory, zero above them. -/
def unitBytes (nbits w : Nat) : List Byte := leBytes 64 (w % 2 ^ nbits)
/-- Where the unit is placed: loaded page 1, which stands for frame 1 of die 0 and may be fetched and read. -/
def fetchBase : Nat := 0x10000
def fetchPage : Tab Dword := [(1, 0x10017)]

/-- The state with a unit of `nbits` bits as the only text of the only launch, its group's threads ready at it, on a module that has
booted. -/
def State.withFetchWord (s : State) (nbits w : Nat) : State :=
  let l := fetchLaunch fetchBase 0
  let tm := Team.start 1 0 0 0 false 256 [] false
  let g := { Group.start 1 1 0 0 0 8 128 0 0 0 0 false 0 [] 0 0 0 2 with asid := l.asid }
  { s with mem := wrBytes s.mem fetchBase (unitBytes nbits w), pinned := fetchPage, launches := [l], teams := [tm], groups := [g], inputs := [],
           issue := Issue.idle, reps := [], fresh := s.fresh + 16, boot := { s.boot with booted := true } }

end Sys2Proof.Machine
end

