-- ==== Sys2Proof/Safety.lean ====
section
/-!
DEFINITION. What a safe run is, in the terms that claims use: a next state, the conditions under which a unit runs in every group of
its trick, and the state that a unit leaves when each executing thread writes its own result.
-/

namespace Sys2Proof.Safety

open Sys2Proof Sys2Proof.Machine

/-- An outcome is a next state of which `p` holds. -/
def Answers (o : Host.Outcome State Fault Refusal) (p : State → Prop) : Prop := ∃ t, o = .next t ∧ p t

/-- No number stands twice. -/
def distinct : List Nat → Bool
  | [] => true
  | a :: r => !r.contains a && distinct r

/-- Did an operand or a check succeed, and with what? -/
def isOk {α : Type} (x : Except TrapInfo α) : Bool :=
  match x with
  | .ok _ => true
  | .error _ => false
def got (x : Except TrapInfo Dword) : Dword :=
  match x with
  | .ok v => v
  | .error _ => 0

/-- A constant that a source names lies in the bank (R53). -/
def constOk (c : Ctx) (x : Src) : Bool :=
  match x with
  | .cons n => 128 * c.g.window.toNat + n < c.l.kernel.constCount
  | _ => true

/-- The trick being issued: no group stands in it twice, each is there with its launch, and so are its threads, none twice. -/
def trickOk (s : State) : Bool :=
  distinct (s.issue.trick.map (·.1)) && s.issue.trick.all fun e =>
    distinct e.2 && match s.group? e.1 with
      | none => false
      | some g => (s.launch? g.lid).isSome && e.2.all fun t => t < g.threads.length

/-- A vector unit runs: in every group of the trick each executing thread passes the register-range and routing checks (R46, R59), and
every constant lies in the bank (R53). -/
def Ctx.runs (c : Ctx) (o : Op) : Bool :=
  (c.exec.all fun t => isOk (c.precheck o t)) && constOk c c.f.a && constOk c c.f.b && constOk c c.f.c
def unitRuns (o : Op) (f : Fields) (s : State) : Bool :=
  trickOk s && s.issue.trick.all fun e => match s.ctx? f e.1 e.2 with
    | none => false
    | some c => Ctx.runs c o
/-- A unit that acts once per group runs: the check is that of the trick's first thread (R158). -/
def groupRuns (o : Op) (f : Fields) (s : State) : Bool :=
  trickOk s && s.issue.trick.all fun e => match s.ctx? f e.1 e.2 with
    | none => false
    | some c => isOk (c.precheck o (nth c.tids 0 0)) && constOk c c.f.a && constOk c c.f.b && constOk c c.f.c

/-- Where a thread of the trick stands once the unit is complete: at the next unit, or, under REP, where it stood (R23, R179). A replay
moves the threads that it replays alone (R306). -/
def stepOn (c : Ctx) (now tid : Nat) (t : Thread) : Thread :=
  if c.s.issue.pfx.rep.isNone && c.s.issue.goes c.g.gid tid then { t with pc := c.s.issue.npc, stamp := now } else t

/-- A thread of a group after a vector unit: an executing thread writes its result, the others of the trick write nothing, both go on,
and every other thread is as it was. -/
def threadAfter (c : Ctx) (out : Nat → VecOut) (now tid : Nat) (t : Thread) : Thread :=
  if c.tids.contains tid then stepOn c now tid (if c.executes tid then t.apply (out tid) else t) else t

/-- The state with the groups of the trick changed, each by what its own context says, and nothing else. -/
def groupsAfter (s : State) (f : Fields) (h : Ctx → Group → Group) : State :=
  { s with groups := s.groups.map fun g =>
      match s.issue.trick.find? fun e => e.1 == g.gid with
      | none => g
      | some e => match s.ctx? f e.1 e.2 with
        | none => g
        | some c => h c g }

/-- The state after a vector unit in which each executing thread writes `out`. -/
def vecAfter (s : State) (f : Fields) (out : Ctx → Nat → VecOut) : State :=
  groupsAfter s f fun c g => { g with threads := g.threads.mapIdx (threadAfter c (out c) (s.core g.coreNo).cycles) }

/-- The state after a unit that acts once per group: `h` is the group's change, and the threads of the trick go on. -/
def groupAfter (s : State) (f : Fields) (h : Ctx → Group → Group) : State :=
  groupsAfter s f fun c g =>
    let x := h c g
    { x with threads := x.threads.mapIdx fun tid t => if c.tids.contains tid then stepOn c (s.core g.coreNo).cycles tid t else t }

/-- Threads of a trick that write a scalar whose value changes are no longer counted as spinning (R28). -/
def scalarWrite (c : Ctx) (d : Nat) (v : Dword) (g : Group) : Group :=
  { g with
    s := g.s.set d v
    threads := if nth g.s d 0 = v then g.threads
      else g.threads.mapIdx fun tid t => if c.tids.contains tid then { t with spin := 0 } else t }

end Sys2Proof.Safety
end

