-- ==== Sys2Proof/Certificates/Slice0/Obligations.lean ====
section
/-!
DEFINITION. The statements for the provers, with the words that they are stated in.
-/

/-! ### Vector units: what each executing thread writes

`unitRuns`, `vecAfter`, `groupRuns` and `groupAfter` are those of `Sys2Proof.Safety`: a unit runs when every executing thread passes its
checks, and the state after it is the state before it with the named results written and the trick's threads at the next unit; every other
thread, group, scalar register, byte of memory and part of the state is as it was. -/

namespace Sys2Proof.Claims

open Sys2Proof Sys2Proof.Machine Sys2Proof.Safety

/-- An operation of one of these rows, with its fields, in any form. -/
def IsRow (i : Instr) (o : Op) (f : Fields) : Prop := ∃ fm, i.core = some (fm, o, f) ∧ (o = .call → fm ≠ .limm)

/-- Opd(A, w) and so on (R139): the operands of a thread at the type's width, and as values under the type. -/
def opA (c : Ctx) (t : Nat) : Dword := got (c.intA c.f.ty.words t)
def opB (c : Ctx) (t : Nat) : Dword := got (c.intB c.f.ty.words t)
def valA (c : Ctx) (t : Nat) : Int := extT c.f.ty (opA c t)
def valB (c : Ctx) (t : Nat) : Int := extT c.f.ty (opB c t)
/-- Operands of one word, and as values under the type. -/
def wordA (c : Ctx) (t : Nat) : Dword := got (c.intA 1 t)
def wordB (c : Ctx) (t : Nat) : Dword := got (c.intB 1 t)
def wordC (c : Ctx) (t : Nat) : Dword := got (c.intC 1 t)
/-- Operands as bits. -/
def bitsA (c : Ctx) (w t : Nat) : Dword := got (c.bitA w t)
def bitsB (c : Ctx) (w t : Nat) : Dword := got (c.bitB w t)
def bitsC (c : Ctx) (w t : Nat) : Dword := got (c.bitC w t)
/-- A result of the type's width: an exact value wrapped or saturated (WrapTo, SatTo of R139). -/
def wrapped (c : Ctx) (v : Int) : VecOut := .wide c.f.d c.f.ty.words (BitVec.ofNat 64 (wrapTo v (Ty.width c.f.ty)))
def saturated (c : Ctx) (v : Int) : VecOut :=
  .wide c.f.d c.f.ty.words (BitVec.ofNat 64 (wrapTo (satTo v (Ty.width c.f.ty) (Ty.signed c.f.ty)) (Ty.width c.f.ty)))
/-- One word, wrapped, or saturated as i32 or ui32. -/
def word32 (c : Ctx) (v : Int) : VecOut := .word c.f.d (BitVec.ofInt 32 v)
def sat32 (c : Ctx) (v : Int) (signed : Bool) : VecOut := .word c.f.d (BitVec.ofInt 32 (satTo v 32 signed))
/-- The `sat` variant, or MOD SAT on the plain one. -/
def isSat (c : Ctx) (v : BitVec 3) : Bool := c.f.v == v || c.mod.sat

/-- `iadd` (R143). -/
def iaddOut (c : Ctx) (t : Nat) : VecOut :=
  if isSat c 1 then saturated c (valA c t + valB c t)
  else
    let p := c.f.x.toNat % 8
    let cin : Nat := if (c.f.v = 2 ∨ c.f.v = 4) ∧ (c.th t).pred p = true then 1 else 0
    let u : Nat := (opA c t).toNat + (opB c t).toNat + cin
    let d := wrapped c u
    if c.f.v = 3 ∨ c.f.v = 4 then { d with preds := [(p, decide (2 ^ Ty.width c.f.ty ≤ u))] } else d
/-- `isub` (R143). -/
def isubOut (c : Ctx) (t : Nat) : VecOut :=
  if isSat c 1 then saturated c (valA c t - valB c t)
  else
    let p := c.f.x.toNat % 8
    let bin : Int := if (c.f.v = 2 ∨ c.f.v = 4) ∧ (c.th t).pred p = true then 1 else 0
    let u : Int := (opA c t).toNat - (opB c t).toNat - bin
    let d := wrapped c u
    if c.f.v = 3 ∨ c.f.v = 4 then { d with preds := [(p, decide (u < 0))] } else d
def inegOut (c : Ctx) (t : Nat) : VecOut := if isSat c 1 then saturated c (-valA c t) else wrapped c (-valA c t)
def iabsOut (c : Ctx) (t : Nat) : VecOut := if isSat c 1 then saturated c |valA c t| else wrapped c |valA c t|

/-- `imin`, `imax`, `iclamp`, `icmp`, `isel` (R144). -/
def compares (v : BitVec 3) (a b : Int) : Bool :=
  match v.toNat with
  | 0 => decide (a = b)
  | 1 => decide (a ≠ b)
  | 2 => decide (a < b)
  | 3 => decide (a ≤ b)
  | 4 => decide (a > b)
  | _ => decide (a ≥ b)
def iclampOut (c : Ctx) (t : Nat) : VecOut :=
  word32 c (min (max (extT c.f.ty (wordA c t)) (extT c.f.ty (wordB c t))) (extT c.f.ty (wordC c t)))
def icmpOut (c : Ctx) (t : Nat) : VecOut :=
  let r := compares c.f.v (valA c t) (valB c t)
  if c.f.kd = .pred then .pred c.f.d r else .wide c.f.d c.f.ty.words (if r then BitVec.allOnes 64 else 0)
def iselOut (c : Ctx) (t : Nat) : VecOut :=
  .wide c.f.d c.f.ty.words (if (c.th t).pred (c.f.x.toNat % 8) then bitsA c c.f.ty.words t else bitsB c c.f.ty.words t)

/-- `imul` and `imad` (R145), from the exact product. -/
def product (c : Ctx) (t : Nat) : Int := extT c.f.ty (wordA c t) * extT c.f.ty (wordB c t)
def imulOut (c : Ctx) (t : Nat) : VecOut := word32 c (if c.f.v = 1 then product c t / 2 ^ 32 else product c t)
def imadOut (c : Ctx) (t : Nat) : VecOut :=
  let z := ext (wordC c t) 32 (Ty.signed c.f.ty)
  let q := if c.f.v = 1 then product c t / 2 ^ 32 + z else product c t + z
  if isSat c 2 then sat32 c q (Ty.signed c.f.ty) else word32 c q
/-- Element k of a packed word (R146 to R148). -/
def elem (x : Dword) (k n : Nat) (signed : Bool) : Int := ext (BitVec.ofNat 64 (x.toNat % 2 ^ 32 / 2 ^ (k * n))) n signed
def isadOut (c : Ctx) (t : Nat) : VecOut :=
  let dif (k : Nat) : Int := |elem (wordA c t) k 8 false - elem (wordB c t) k 8 false|
  word32 c ((wordC c t).toNat + (dif 0 + dif 1 + dif 2 + dif 3))
/-- `idot` (R147). -/
def idotOut (c : Ctx) (t : Nat) : VecOut :=
  let n := Ty.width c.f.ty
  let terms := (List.range (32 / n)).map fun k =>
    elem (wordA c t) k n (!c.f.x.getLsbD 0) * elem (wordB c t) k n (!c.f.x.getLsbD 1)
  let s := ext (wordC c t) 32 true + terms.sum
  if isSat c 1 then sat32 c s true else word32 c s
/-- `icdot` (R148): the real part goes to vD, the imaginary part to vD+1. -/
def icdotOut (c : Ctx) (t : Nat) : VecOut :=
  let z := got (c.intC 2 t)
  let sgn : Int := if c.f.x.getLsbD 0 then -1 else 1
  let ar (k : Nat) := elem (wordA c t) (2 * k) 8 true
  let ai (k : Nat) := elem (wordA c t) (2 * k + 1) 8 true
  let yr (k : Nat) := elem (wordB c t) (2 * k) 8 true
  let yi (k : Nat) := sgn * elem (wordB c t) (2 * k + 1) 8 true
  let re := ext z 32 true + (ar 0 * yr 0 - ai 0 * yi 0) + (ar 1 * yr 1 - ai 1 * yi 1)
  let im := ext (z >>> 32) 32 true + (ar 0 * yi 0 + ai 0 * yr 0) + (ar 1 * yi 1 + ai 1 * yr 1)
  let r (v : Int) : Word := if isSat c 1 then BitVec.ofInt 32 (satTo v 32 true) else BitVec.ofInt 32 v
  { regs := [(c.f.d, r re), (c.f.d + 1, r im)] }
/-- `iaddr` (R149): the scale is 1, 2, 4, 8 or 16. -/
def iaddrOut (c : Ctx) (t : Nat) : VecOut := wrapped c (valA c t + valB c t * 2 ^ c.f.v.toNat)

/-- What a row of class 0 writes. -/
def intOut (o : Op) : Option (Ctx → Nat → VecOut) :=
  match o with
  | .iadd => some iaddOut
  | .isub => some isubOut
  | .ineg => some inegOut
  | .iabs => some iabsOut
  | .imin => some fun c t => wrapped c (min (valA c t) (valB c t))
  | .imax => some fun c t => wrapped c (max (valA c t) (valB c t))
  | .iclamp => some iclampOut
  | .icmp => some icmpOut
  | .isel => some iselOut
  | .imul => some imulOut
  | .imad => some imadOut
  | .isad => some isadOut
  | .idot => some idotOut
  | .icdot => some icdotOut
  | .iaddr => some iaddrOut
  | _ => none

/-! #### Class 1 -/

/-- Bits, as a result of the type's width. -/
def bitsOut (c : Ctx) (x : Dword) : VecOut := .wide c.f.d c.f.ty.words x
def natOut (c : Ctx) (n : Nat) : VecOut := bitsOut c (BitVec.ofNat 64 n)
/-- The width of a bit type. -/
def bitWidth (c : Ctx) : Nat := 32 * c.f.ty.words
def tA (c : Ctx) (t : Nat) : Dword := bitsA c c.f.ty.words t
def tB (c : Ctx) (t : Nat) : Dword := bitsB c c.f.ty.words t
/-- An amount or a field control is always 32 bits (R139). -/
def amountB (c : Ctx) (t : Nat) : Nat := ((got (c.intB 1 t)).setWidth 32 : Word).toNat
def amountC (c : Ctx) (t : Nat) : Nat := ((got (c.intC 1 t)).setWidth 32 : Word).toNat

/-- `tlog` (R150): each bit of D is the map's bit at A[i] + 2 B[i] + 4 C[i]. -/
def tlogBit (m : BitVec 8) (a b z : Dword) (i : Nat) : Bool :=
  m.getLsbD ((if a.getLsbD i then 1 else 0) + 2 * (if b.getLsbD i then 1 else 0) + 4 * (if z.getLsbD i then 1 else 0))
def tlogOut (c : Ctx) (t : Nat) : VecOut :=
  let w := c.f.x.toNat + 1
  .wide c.f.d w (BitVec.ofBoolListLE ((List.range 64).map (tlogBit c.f.fn (bitsA c w t) (bitsB c w t) (bitsC c w t))))

/-- Shifts and rotates (R151). -/
def shlOut (c : Ctx) (t : Nat) : VecOut :=
  let s := amountB c t
  natOut c (if s < bitWidth c then (tA c t).toNat * 2 ^ s % 2 ^ bitWidth c else 0)
def shrOut (c : Ctx) (t : Nat) : VecOut :=
  let w := Ty.width c.f.ty
  let s := amountB c t
  if Ty.signed c.f.ty then wrapped c (valA c t / 2 ^ min s (w - 1)) else wrapped c (if s < w then valA c t / 2 ^ s else 0)
def rotOut (c : Ctx) (t : Nat) : VecOut :=
  let w := bitWidth c
  let a := (tA c t).toNat
  let ab := a * 2 ^ w + (tB c t).toNat
  let left (k : Nat) : Nat := a * 2 ^ k % 2 ^ w + a / 2 ^ (w - k)
  natOut c (match c.f.v.toNat with
    | 0 => left (amountB c t % w)
    | 1 => left ((w - amountB c t % w) % w)
    | 2 => ab * 2 ^ (amountC c t % w) % 2 ^ (2 * w) / 2 ^ w
    | _ => ab / 2 ^ (amountC c t % w) % 2 ^ w)
/-- `bit` (R152): a count goes to one register, `brev` to as many as the type has. -/
def bitOut (c : Ctx) (t : Nat) : VecOut :=
  .wide c.f.d (if c.f.v = 3 then c.f.ty.words else 1) (BitVec.ofNat 64 (bitOp c.f.v.toNat (tA c t).toNat (bitWidth c)))
/-- `bfld` (R153). -/
def bfldOut (c : Ctx) (t : Nat) : VecOut :=
  match c.f.v.toNat with
  | 0 => natOut c (fieldExt (opA c t).toNat (BitVec.ofNat 32 (amountB c t)) (bitWidth c) (Ty.signed c.f.ty))
  | 1 => natOut c (fieldIns (tA c t).toNat (tB c t).toNat (BitVec.ofNat 32 (amountC c t)) (bitWidth c))
  | _ =>
    let byte (j : Nat) : Nat := byteSel ((bitsA c 1 t).setWidth 32) (amountB c t / 2 ^ (4 * j) % 16)
    .word c.f.d (BitVec.ofNat 32 (byte 0 + 2 ^ 8 * byte 1 + 2 ^ 16 * byte 2 + 2 ^ 24 * byte 3))
/-- `mov` (R154). -/
def movOut (c : Ctx) (t : Nat) : VecOut :=
  if c.f.v = 1 then .wide c.f.d 1 (bitsA c 1 t) else bitsOut c (tA c t)
/-- `plog` and `pcvt` (R155). -/
def predA (c : Ctx) (t : Nat) : Bool := (c.th t).pred (c.f.a.num % 8)
def predB (c : Ctx) (t : Nat) : Bool := (c.th t).pred (c.f.b.num % 8)
def plogOut (c : Ctx) (t : Nat) : VecOut :=
  .pred c.f.d (match c.f.v.toNat with
    | 0 => predA c t && predB c t
    | 1 => predA c t || predB c t
    | 2 => xor (predA c t) (predB c t)
    | 3 => predA c t && !predB c t
    | 4 => !predA c t
    | _ => predA c t)
def pcvtOut (c : Ctx) (t : Nat) : VecOut :=
  .word c.f.d (if c.f.v = 0 then (if predA c t then 0xFFFFFFFF else 0) else (((c.th t).p ||| 1).setWidth 32))

/-- What a vector row of class 1 writes. -/
def logicOut (o : Op) : Option (Ctx → Nat → VecOut) :=
  match o with
  | .and => some fun c t => bitsOut c (tA c t &&& tB c t)
  | .or => some fun c t => bitsOut c (tA c t ||| tB c t)
  | .xor => some fun c t => bitsOut c (tA c t ^^^ tB c t)
  | .andn => some fun c t => bitsOut c (tA c t &&& ~~~tB c t)
  | .orn => some fun c t => bitsOut c (tA c t ||| ~~~tB c t)
  | .not => some fun c t => bitsOut c (~~~tA c t)
  | .tlog => some tlogOut
  | .shl => some shlOut
  | .shr => some shrOut
  | .rot => some rotOut
  | .bit => some bitOut
  | .bfld => some bfldOut
  | .mov => some movOut
  | .plog => some plogOut
  | .pcvt => some pcvtOut
  | _ => none

/-! #### Class 2: the new value of s[D] -/

def sclA (c : Ctx) : Dword := got (c.sA .int 2)
def sclB (c : Ctx) : Dword := got (c.sB .int 2)
/-- A value at the type's width as s[D] holds it: sign-extended for i32, zero-extended for ui32 (R159). -/
def spreadTo (t : Ty) (v : Int) : Dword := BitVec.ofInt 64 (ext (BitVec.ofNat 64 (wrapTo v (Ty.width t))) (Ty.width t) (Ty.signed t))
def scalarSum (c : Ctx) (sub : Bool) : Dword :=
  let t := c.f.ty
  let a := extT t (got (c.sA .int t.words))
  let b := extT t (got (c.sB .int t.words))
  let r := if sub then a - b else a + b
  spreadTo t (if isSat c 1 then satTo r (Ty.width t) (Ty.signed t) else r)
def scalarLogic (c : Ctx) : Dword :=
  let a := got (c.sA .bits 2)
  let b := got (c.sB .bits 2)
  match c.f.v.toNat with
  | 0 => a &&& b
  | 1 => a ||| b
  | 2 => a ^^^ b
  | 3 => a &&& ~~~b
  | 4 => a ||| ~~~b
  | _ => ~~~b
def scalarShift (c : Ctx) (left : Bool) : Dword :=
  let s := (got (c.sB .int 1)).toNat
  if left then (if s < 64 then BitVec.ofNat 64 ((got (c.sA .bits 2)).toNat * 2 ^ s) else 0)
  else
    let a := extT c.f.ty (sclA c)
    BitVec.ofInt 64 (if Ty.signed c.f.ty then a / 2 ^ min s 63 else if s < 64 then a / 2 ^ s else 0)
/-- What a row of class 2 leaves in s[D] (R159). -/
def scalarNew (o : Op) : Option (Ctx → Dword) :=
  match o with
  | .sadd => some fun c => scalarSum c false
  | .ssub => some fun c => scalarSum c true
  | .smul => some fun c =>
    let p := extT c.f.ty (sclA c) * extT c.f.ty (sclB c)
    BitVec.ofInt 64 (if c.f.v = 1 then p / 2 ^ 64 else p)
  | .smin => some fun c => BitVec.ofInt 64 (min (extT c.f.ty (sclA c)) (extT c.f.ty (sclB c)))
  | .smax => some fun c => BitVec.ofInt 64 (max (extT c.f.ty (sclA c)) (extT c.f.ty (sclB c)))
  | .slog => some scalarLogic
  | .sshl => some fun c => scalarShift c true
  | .sshr => some fun c => scalarShift c false
  | .scmp => some fun c => if compares c.f.v (extT c.f.ty (sclA c)) (extT c.f.ty (sclB c)) then 1 else 0
  | .ssel => some fun c => if got (c.sC .bits 2) ≠ 0 then got (c.sA .bits 2) else got (c.sB .bits 2)
  | .smov => some fun c => got (c.sB .bits 2)
  | .sbit => some fun c => BitVec.ofNat 64 (bitOp c.f.v.toNat (got (c.sB .bits 2)).toNat 64)
  | _ => none

/-! #### Class 3 -/

/-- A floating operand's elements as exact values, flushed under FZ (R210, R216). -/
def fltA (c : Ctx) (t : Nat) : Dword := got (c.opdA (fltKind c.f.ty) 1 t)
def fltB (c : Ctx) (t : Nat) : Dword := got (c.opdB (fltKind c.f.ty) 1 t)
def fltC (c : Ctx) (t : Nat) : Dword := got (c.opdC (fltKind c.f.ty) 1 t)
def elemVal (c : Ctx) (x : Dword) (i : Nat) : Val := c.val c.f.ty (elemCode c.f.ty x i)
/-- Exact results, element by element, each rounded once into the format; in stochastic mode each draws once (R208, R217). -/
def rounded (c : Ctx) (t : Nat) (h : Nat → Val) : VecOut :=
  let r := roundAll (fmtOfTy c.f.ty) (c.mode none) c.mod.fz ((elems c.f.ty).map h) (c.th t).lfsr
  { regs := [(c.f.d, joinElems r.1)], lfsr := some r.2 }
/-- The exact result of the arithmetic rows (R218 to R220, R225). -/
def sumVal (c : Ctx) (a b : Val) : Val := Val.add (c.mode none) a b
def arithVal (o : Op) : Option (Ctx → Val → Val → Val → Val) :=
  match o with
  | .fadd => some fun c a b _ => sumVal c a b
  | .fsub => some fun c a b _ => sumVal c a b.neg
  | .fmul => some fun _ a b _ => a.mul b
  | .fdiv => some fun _ a b _ => a.div b
  | .fsqrt => some fun _ a _ _ => a.sqrt
  | .ffma => some fun c a b z =>
    let p := if 2 ≤ c.f.v.toNat then (a.mul b).neg else a.mul b
    sumVal c p (if c.f.v = 1 ∨ c.f.v = 3 then z.neg else z)
  | _ => none
def arithOut (h : Ctx → Val → Val → Val → Val) (c : Ctx) (t : Nat) : VecOut :=
  rounded c t fun i => h c (elemVal c (fltA c t) i) (elemVal c (fltB c t) i) (elemVal c (fltC c t) i)

/-- What the rows of class 3 that round no sum or product write (R221 to R227). -/
def fltOut (o : Op) : Option (Ctx → Nat → VecOut) :=
  match o with
  | .fmin => some fun c t =>
    .word c.f.d (joinElems ((elems c.f.ty).map fun i => c.minMax false c.f.ty (elemCode c.f.ty (fltA c t) i) (elemCode c.f.ty (fltB c t) i)))
  | .fmax => some fun c t =>
    .word c.f.d (joinElems ((elems c.f.ty).map fun i => c.minMax true c.f.ty (elemCode c.f.ty (fltA c t) i) (elemCode c.f.ty (fltB c t) i)))
  | .fcmp => some fun c t =>
    let r := fcmpCode c.f.v.toNat (elemVal c (fltA c t) 0) (elemVal c (fltB c t) 0)
    if c.f.kd = .pred then .pred c.f.d r else .word c.f.d (if r then 0xFFFFFFFF else 0)
  | .fsel => some fun c t =>
    .word c.f.d (BitVec.ofNat 32 (elemCode c.f.ty (if (c.th t).pred (c.f.x.toNat % 8) then fltA c t else fltB c t) 0))
  | .fclass => some fun c t =>
    .word c.f.d (1 <<< classBit (fmtOfTy c.f.ty) ((fmtOfTy c.f.ty).decode (elemCode c.f.ty (fltA c t) 0)))
  | .frnd => some fun c t =>
    .word c.f.d (BitVec.ofNat 32 (convert0 (fmtOfTy c.f.ty) rne c.mod.fz 0 (frndVal (frndMode c.f.v.toNat) (elemVal c (fltA c t) 0))))
  | .ffrexp => some fun c t =>
    let v := elemVal c (fltA c t) 0
    .word c.f.d (if c.f.v = 0 then frexpExp v else BitVec.ofNat 32 (convert0 (fmtOfTy c.f.ty) rne c.mod.fz 0 (frexpMant v)))
  | .fldexp => some fun c t =>
    let n := ext (wordB c t) 32 true
    let r := roundAll (fmtOfTy c.f.ty) (c.mode none) c.mod.fz [(elemVal c (fltA c t) 0).ldexp (max (-2048) (min 2048 n))] (c.th t).lfsr
    { regs := [(c.f.d, joinElems r.1)], lfsr := some r.2 }
  | _ => none

/-! #### Class 4 -/

def isSpecial (o : Op) : Bool :=
  o == .fexp2 || o == .flog2 || o == .fsin || o == .fcos || o == .ftanh || o == .flogi || o == .frcp || o == .frsqrt
/-- A special function (R228): its exact and special cases; elsewhere a code within the row's bounds, chosen by a value that
nothing constrains (DESIGN CHOICE, log 6). -/
def specialOut (o : Op) (c : Ctx) (t : Nat) : VecOut :=
  .word c.f.d (BitVec.ofNat 32 (specialCode o c.f.ty (fmtOfTy c.f.ty) c.mod.fz (elemCode c.f.ty (fltA c t) 0)))
/-- The formats of a conversion under the launch's slots, its operand's value, and its code or its fault (R229). -/
def cvtSrc (c : Ctx) : Ty := Ty.ofCode (c.f.x.extractLsb' 0 5)
def cvtCode (c : Ctx) (D S : Fmt) (t : Nat) : Except PolicyCase Nat :=
  let v := S.decode ((got (c.opdA (litOf S) (cvtSrc c).words t)).toNat % 2 ^ S.width)
  let slot := c.slotOf c.f.ty (cvtSrc c)
  let pol := if c.mod.sat then satPolicy (c.policy slot) else c.policy slot
  convert D (c.mode slot) pol (c.mod.fz && !D.isInt) (drawFor (c.mode slot) (c.th t).lfsr) (if S.isInt then v else flushIn S c.mod.fz v)
/-- A conversion that no executing thread of the group fails. -/
def cvtRuns (c : Ctx) : Bool :=
  match c.tyFmt c.f.ty, c.tyFmt (cvtSrc c) with
  | some D, some S => c.exec.all fun t => match cvtCode c D S t with | .ok _ => true | .error _ => false
  | _, _ => false
def cvtOut (c : Ctx) (t : Nat) : VecOut :=
  match c.tyFmt c.f.ty, c.tyFmt (cvtSrc c) with
  | some D, some S =>
    match cvtCode c D S t with
    | .ok k => { VecOut.wide c.f.d c.f.ty.words (spread D k) with
                 lfsr := some (drawFor (c.mode (c.slotOf c.f.ty (cvtSrc c))) (c.th t).lfsr) }
    | .error _ => {}
  | _, _ => {}
/-- `pack` (R232): B with element V replaced by A converted. -/
def packCode (c : Ctx) (t : Nat) : Except PolicyCase Nat :=
  let F := packFmt c.f.ty
  let x := got (c.opdA (if F.isInt then .int else .flt .f32 false) 1 t)
  let v := if F.isInt then Val.ofInt (ext x 32 true) else flushIn .f32 c.mod.fz (Fmt.f32.decode x.toNat)
  let pol := if c.mod.sat then satPolicy (c.policy none) else c.policy none
  convert F (c.mode none) pol (c.mod.fz && !F.isInt) (drawFor (c.mode none) (c.th t).lfsr) v
def packRuns (c : Ctx) : Bool := c.exec.all fun t => match packCode c t with | .ok _ => true | .error _ => false
def packOut (c : Ctx) (t : Nat) : VecOut :=
  match packCode c t with
  | .ok k =>
    let w := c.f.ty.packBits
    { regs := [(c.f.d, BitVec.ofNat 32 (fieldIns (bitsB c 1 t).toNat k (BitVec.ofNat 32 (w * c.f.v.toNat + 256 * w)) 32))],
      lfsr := some (drawFor (c.mode none) (c.th t).lfsr) }
  | .error _ => {}
def unpackOut (c : Ctx) (t : Nat) : VecOut :=
  let F := packFmt c.f.ty
  let code := (bitsA c 1 t).toNat / 2 ^ (c.f.ty.packBits * c.f.v.toNat) % 2 ^ c.f.ty.packBits
  .wide c.f.d 1 (if F.isInt then BitVec.ofNat 64 ((spread F code).toNat % 2 ^ 32)
    else BitVec.ofNat 64 (convert0 .f32 rne c.mod.fz 0 (flushIn F c.mod.fz (F.decode code))))
/-- `srseed` (R233): a seed of 0 installs 1. -/
def srseedOut (c : Ctx) (t : Nat) : VecOut :=
  { lfsr := some (if (wordA c t).setWidth 32 = (0 : Word) then 1 else (wordA c t).setWidth 32) }

/-- In every group of the trick. -/
def everyGroup (s : State) (f : Fields) (p : Ctx → Bool) : Bool :=
  s.issue.trick.all fun e => match s.ctx? f e.1 e.2 with
    | none => true
    | some c => p c

end Sys2Proof.Claims

section
open Sys2Proof Sys2Proof.Machine Sys2Proof.Safety Sys2Proof.Claims

/-- R143: `iadd`, `isub`, `ineg` and `iabs`, in every form (iadd, isub, ineg, iabs, iaddI32Short, isubI32Short, iaddI64Short, iaddI32Limm,
iaddI64Limm). When the unit runs, each executing thread writes D, and the carry or borrow predicate where the variant has one, and nothing
else changes. -/
def Obligations.IntegerAddSubtract : Prop :=
  ∀ i o f s out, IsRow i o f → (o = .iadd ∨ o = .isub ∨ o = .ineg ∨ o = .iabs) → intOut o = some out →
    unitRuns o f s = true →
    exec i s = .next (vecAfter s f out)

/-- R144: `imin`, `imax`, `iclamp`, `icmp` and `isel`, in every form (imin, imax, iclamp, icmp, isel, iminI32Short, imaxI32Short,
iminUi32Short, imaxUi32Short, icmpEqI32Short, icmpNeI32Short, icmpLtI32Short, icmpLtUi32Short, icmpGeI32Short, icmpEqI32Limm,
icmpLtI32Limm, icmpLtUi32Limm). -/
def Obligations.IntegerCompareSelect : Prop :=
  ∀ i o f s out, IsRow i o f → (o = .imin ∨ o = .imax ∨ o = .iclamp ∨ o = .icmp ∨ o = .isel) →
    intOut o = some out → unitRuns o f s = true →
    exec i s = .next (vecAfter s f out)

/-- R145 to R149: `imul`, `imad`, `isad`, `idot`, `icdot` and `iaddr`, in every form (imul, imad, isad, idot, icdot, iaddr, imulI24Short,
imulI32Short, imulI24Limm, iaddrX4Ui32Short, iaddrUi32Limm). -/
def Obligations.IntegerMultiplyDot : Prop :=
  ∀ i o f s out, IsRow i o f →
    (o = .imul ∨ o = .imad ∨ o = .isad ∨ o = .idot ∨ o = .icdot ∨ o = .iaddr) → intOut o = some out →
    unitRuns o f s = true →
    exec i s = .next (vecAfter s f out)

/-- R150: the bitwise instructions and `tlog`, in every form (and, or, xor, andn, orn, not, tlog, andB32Short, orB32Short, xorB32Short,
andnB32Short, notB32Short, andB32Limm, orB32Limm, xorB32Limm). -/
def Obligations.BitwiseLogic : Prop :=
  ∀ i o f s out, IsRow i o f → (o = .and ∨ o = .or ∨ o = .xor ∨ o = .andn ∨ o = .orn ∨ o = .not ∨ o = .tlog) →
    logicOut o = some out → unitRuns o f s = true →
    exec i s = .next (vecAfter s f out)

/-- R151 to R153: shifts, rotates, bit counts and fields, in every form (shl, shr, rot, bit, bfld, shlB32Short, shrUi32Short, shrI32Short,
rotLB32Short, bitPopcB32Short, bitClzB32Short, shlB64Short, shrUi64Short, bfldByteB32Short). -/
def Obligations.ShiftsAndFields : Prop :=
  ∀ i o f s out, IsRow i o f → (o = .shl ∨ o = .shr ∨ o = .rot ∨ o = .bit ∨ o = .bfld) →
    logicOut o = some out → unitRuns o f s = true →
    exec i s = .next (vecAfter s f out)

/-- R154, R155: moves and predicate logic, in every form (mov, plog, pcvt, movB32Short, movB64Short, movB32Limm, movB64Limm). -/
def Obligations.MovesAndPredicates : Prop :=
  ∀ i o f s out, IsRow i o f → (o = .mov ∨ o = .plog ∨ o = .pcvt) →
    logicOut o = some out → unitRuns o f s = true →
    exec i s = .next (vecAfter s f out)

/-- R158, R159: the class 2 instructions, in every form (sadd, ssub, smul, smin, smax, slog, sshl, sshr, scmp, ssel, smov, sbit, smovB64Short,
smovB64Limm): each group of the trick writes s[D] once, and its threads go on. -/
def Obligations.ScalarResults : Prop :=
  ∀ i o f s v, IsRow i o f → scalarNew o = some v → groupRuns o f s = true →
    exec i s =
      .next (groupAfter s f fun c => scalarWrite c c.f.d (v c))

/-- R217 to R220 and R225: the rounded arithmetic of class 3, in every form (fadd, fsub, fmul, ffma, fdiv, fsqrt, faddF32Short, fsubF32Short,
fmulF32Short, faddF16x2Short, fmulF16x2Short, faddBf16x2Short, fmulBf16x2Short, faddF32Limm, fmulF32Limm). -/
def Obligations.FloatArithmetic : Prop :=
  ∀ i o f s h, IsRow i o f → arithVal o = some h → unitRuns o f s = true →
    exec i s = .next (vecAfter s f (arithOut h))

/-- R221 to R227: minimum, maximum, compare, select, classify, round to integer, scale and split, in every form (fmin, fmax, fcmp, fsel,
fclass, frnd, fldexp, ffrexp, fminF32Short, fmaxF32Short, fminNanF32Short, fmaxNanF32Short, fcmpLtF32Short, fcmpLeF32Short, fcmpEqF32Short,
fldexpF32Short, frndRneF32Short, fmaxF32Limm, fminF32Limm). -/
def Obligations.FloatCompareAndSplit : Prop :=
  ∀ i o f s out, IsRow i o f → fltOut o = some out → unitRuns o f s = true →
    exec i s = .next (vecAfter s f out)

/-- R192, R210, R228: the special functions, in every form (fexp2, flog2, fsin, fcos, ftanh, flogi, frcp, frsqrt and their f32 short forms
fexp2F32Short, flog2F32Short, fsinF32Short, fcosF32Short, ftanhF32Short, flogiF32Short, frcpF32Short, frsqrtF32Short). Where the rule states
only bounds the code is one of those within them, by the model's free choice (DESIGN CHOICE, log 6), and the statement holds whatever it is. Each completes for all
operands of threads that pass the checks of R46, R53 and R59: no value traps. -/
def Obligations.SpecialFunctions : Prop :=
  (∀ i o f s, IsRow i o f → isSpecial o = true → unitRuns o f s = true →
    exec i s = .next (vecAfter s f (specialOut o))) ∧
  (∀ i o f s, IsRow i o f → (o = .fexp2 ∨ o = .flog2 ∨ o = .fsin ∨ o = .fcos ∨ o = .ftanh ∨ o = .flogi ∨ o = .frcp ∨ o = .frsqrt) →
    unitRuns o f s = true → ∃ t, exec i s = .next t ∧ t.mem = s.mem ∧ t.teams = s.teams ∧ ∀ c, t.core c = s.core c)

/-- R229, R232, R233: conversions, packing and the seed, in every form (cvt, pack, unpack, srseed, cvtF32I32Short, cvtI32F32Short,
cvtF16F32Short, cvtF32F16Short, cvtBf16F32Short, cvtF32Bf16Short), when no executing thread's element faults under the policy. -/
def Obligations.Conversions : Prop :=
  (∀ i f s, IsRow i .cvt f → unitRuns .cvt f s = true →
    everyGroup s f cvtRuns = true →
    exec i s = .next (vecAfter s f cvtOut)) ∧
  (∀ i f s, IsRow i .pack f → unitRuns .pack f s = true →
    everyGroup s f packRuns = true →
    exec i s = .next (vecAfter s f packOut)) ∧
  (∀ i f s, IsRow i .unpack f → unitRuns .unpack f s = true →
    exec i s = .next (vecAfter s f unpackOut)) ∧
  (∀ i f s, IsRow i .srseed f → unitRuns .srseed f s = true →
    exec i s = .next (vecAfter s f srseedOut))

end

/-! ### Votes, the constant window, block formats, and the operands themselves -/

namespace Sys2Proof.Claims

open Sys2Proof Sys2Proof.Machine Sys2Proof.Safety

/-- The executing threads of a group whose predicate A holds, and the answer of `any` and `all` (R156). -/
def voters (c : Ctx) : List Nat := c.exec.filter fun t => (c.th t).pred (c.f.a.num % 8)
def voteAnswer (c : Ctx) : Bool := if c.f.v = 2 then !(voters c).isEmpty else c.exec.all fun t => (voters c).contains t
/-- The value that a vote leaves in s[D]: the mask, the count, or the answer. -/
def voteValue (c : Ctx) : Dword :=
  match c.f.v.toNat with
  | 0 => BitVec.ofNat 64 ((voters c).map fun t => 2 ^ t).sum
  | 1 => BitVec.ofNat 64 (voters c).length
  | _ => if voteAnswer c then 1 else 0
def voteGroup (c : Ctx) (g : Group) : Group :=
  if c.f.kd = .pred then
    { g with threads := g.threads.mapIdx fun tid t => if c.exec.contains tid then t.writePred c.f.d (voteAnswer c) else t }
  else scalarWrite c c.f.d (voteValue c) g

/-- `bquant` of a slot without smoothing (R214, R230): the block's scale code from the quotients of the elements that take part by the tensor scale,
and the element's code from its own. -/
def quantImg (c : Ctx) : BitVec 128 := c.slotImg ((c.f.ty.fmtSlot?).getD 0)
def quantVal (c : Ctx) (t : Nat) : Val :=
  c.val (cvtSrc c) (elemCode (cvtSrc c) (got (c.opdA (fltKind (cvtSrc c)) 1 t)) 0)
/-- The tensor scale of a slot (R214). -/
def tensorScale (img : BitVec 128) : Val := Fmt.f32.decode (slotTs img).toNat
def blockMates (c : Ctx) (t : Nat) : List Nat :=
  c.exec.filter fun u => u / blockSize (slotBlock (quantImg c)) = t / blockSize (slotBlock (quantImg c))
def quantCodes (c : Ctx) (F : Fmt) (t : Nat) : Except PolicyCase (Nat × Nat) :=
  let img := quantImg c
  let qs := (blockMates c t).map fun u => quotient (tensorScale img) (quantVal c u)
  let l := drawFor (c.mode (some img)) (c.th t).lfsr
  if qs.any Val.isNan && actionOf (c.policy (some img)) .nan == 0 then .ok (F.nanCode, 0xFF)
  else match blockElem F (c.mode (some img)) (c.policy (some img)) c.mod.fz l (scaleCode F qs) (quotient (tensorScale img) (quantVal c t)) with
    | .ok k => .ok (k, scaleCode F qs)
    | .error p => .error p
def bquantRuns (c : Ctx) : Bool :=
  blockSlotOk (quantImg c) && slotSmooth (quantImg c) == 0 && match fmtOfCode (slotFmt (quantImg c)) with
    | none => false
    | some F => c.exec.all fun t => match quantCodes c F t with | .ok _ => true | .error _ => false
def bquantOut (c : Ctx) (t : Nat) : VecOut :=
  match fmtOfCode (slotFmt (quantImg c)) with
  | none => {}
  | some F => match quantCodes c F t with
    | .ok k => { regs := [(c.f.d, BitVec.ofNat 32 (k.1 + 256 * k.2))], lfsr := some (drawFor (c.mode (some (quantImg c))) (c.th t).lfsr) }
    | .error _ => {}
/-- `bdequant` (R231): the element times its scale and the tensor scale, rounded once. -/
def dequantImg (c : Ctx) : BitVec 128 := c.slotImg (((cvtSrc c).fmtSlot?).getD 0)
def dequantCode (c : Ctx) (F : Fmt) (t : Nat) : Except PolicyCase Nat :=
  let x := (wordA c t).toNat
  let img := dequantImg c
  convert (fmtOfTy c.f.ty) (slotRnd img) (c.policy (some img)) c.mod.fz (drawFor (slotRnd img) (c.th t).lfsr)
    (blockValue (flushIn F c.mod.fz (F.decode (x % 256))) (x / 256 % 256) (Fmt.f32.decode (slotTs img).toNat))
def bdequantRuns (c : Ctx) : Bool :=
  blockSlotOk (dequantImg c) && match fmtOfCode (slotFmt (dequantImg c)) with
    | none => false
    | some F => c.exec.all fun t => match dequantCode c F t with | .ok _ => true | .error _ => false
def bdequantOut (c : Ctx) (t : Nat) : VecOut :=
  match fmtOfCode (slotFmt (dequantImg c)) with
  | none => {}
  | some F => match dequantCode c F t with
    | .ok k => { regs := [(c.f.d, BitVec.ofNat 32 k)], lfsr := some (drawFor (slotRnd (dequantImg c)) (c.th t).lfsr) }
    | .error _ => {}

/-- The thread that a routed operand is read from (R58): mode and argument of the route byte. -/
def routeFrom (c : Ctx) (i tid : Nat) : Nat :=
  let n := (c.routeByte i).toNat % 64
  match (c.routeByte i).toNat / 64 with
  | 0 => (tid + n) % c.g.width
  | 1 => n % c.g.width
  | 2 => tid ^^^ (n % c.g.width)
  | _ => ((c.th tid).reg n).toNat % 64 % c.g.width
/-- The special values from index 64 on, in the order of R50. -/
def specialValues (c : Ctx) (tid : Nat) : List Nat :=
  [c.g.base + tid, tid, c.g.number, c.g.team.toNat, c.g.lid, c.g.core, c.g.core / 4, c.g.die, c.s.boot.position, c.g.width,
    (c.s.core c.g.coreNo).cycles]
/-- The operand field of number 0 to 2. -/
def sourceField (c : Ctx) (i : Nat) : Src := nth [c.f.a, c.f.b, c.f.c] i (.lit 0)

end Sys2Proof.Claims

section
open Sys2Proof Sys2Proof.Machine Sys2Proof.Safety Sys2Proof.Claims

/-- R156: `vote` (vote) in every group of the trick: a scalar, or a predicate in the executing threads, and nothing else. -/
def Sys2Proof.Claims.VotesTaken : Prop :=
  ∀ i f s, IsRow i .vote f → trickOk s = true → exec i s = .next (groupAfter s f voteGroup)

/-- R53, R159: `cbase` (cbase, cbaseShort, cbaseLimm) sets the constant window of each group of the trick, and nothing else. -/
def Sys2Proof.Claims.WindowSet : Prop :=
  ∀ i f s, IsRow i .cbase f → groupRuns .cbase f s = true →
    exec i s = .next (groupAfter s f fun c g => { g with window := (got (c.sB .bits 2)).setWidth 9 })

/-- R214, R230, R231: `bquant` of a slot without smoothing and `bdequant` (bquant, bdequant), when no executing thread's element faults
under the policy. -/
def Obligations.BlockFormats : Prop :=
  (∀ i f s, IsRow i .bquant f → unitRuns .bquant f s = true → everyGroup s f bquantRuns = true →
    exec i s = .next (vecAfter s f bquantOut)) ∧
  (∀ i f s, IsRow i .bdequant f → unitRuns .bdequant f s = true → everyGroup s f bdequantRuns = true →
    exec i s = .next (vecAfter s f bdequantOut))

/-- R46, R50, R53, R54, R58, R59 and R216: what each operand form reads in a thread: registers, scalars and special values, constants, literals of 7 and
of 32 bits under each kind, and a routed register with each fill; a routing miss traps. A constant beyond the bank traps, in the classes 0 to 2
too (DEDUCED, log 15: R141 names other traps for those). -/
def Obligations.OperandForms : Prop :=
  ∀ (c : Ctx) (k : LitKind) (i tid : Nat),
    (∀ n, c.raw k 1 tid (.vec n) = .ok (((c.th tid).reg n).setWidth 64)) ∧
    (∀ n, c.raw k 2 tid (.vec n) = .ok (BitVec.ofNat 64 (((c.th tid).reg n).toNat + 2 ^ 32 * ((c.th tid).reg (n + 1)).toNat))) ∧
    (∀ n, n < 64 → c.raw k 2 tid (.scal n) = .ok (nth c.g.s n 0)) ∧
    (∀ n, n < 64 → c.raw k 1 tid (.scal n) = .ok (BitVec.ofNat 64 ((nth c.g.s n 0).toNat % 2 ^ 32))) ∧
    (∀ w n, c.l.kernel.constCount ≤ 128 * c.g.window.toNat + n →
      ∃ e, c.raw k w tid (.cons n) = .error e ∧ e.cause = 0x0043 ∧ e.info = BitVec.ofNat 64 (128 * c.g.window.toNat + n)) ∧
    (∀ n, 128 * c.g.window.toNat + n < c.l.kernel.constCount →
      c.raw .int 2 tid (.cons n) = .ok ((c.s.constWord c.l (128 * c.g.window.toNat + n)).signExtend 64) ∧
      c.raw .bits 2 tid (.cons n) = .ok ((c.s.constWord c.l (128 * c.g.window.toNat + n)).setWidth 64)) ∧
    (∀ n, n < 11 →
      c.raw k 2 tid (.scal (64 + n)) = .ok (BitVec.ofNat 64 (nth (specialValues c tid) n 0)) ∧
      c.raw k 1 tid (.scal (64 + n)) = .ok (BitVec.ofNat 64 (nth (specialValues c tid) n 0 % 2 ^ 32))) ∧
    (∀ x, c.raw .int 2 tid (.lit x) = .ok (x.signExtend 64) ∧ c.raw .int 1 tid (.lit x) = .ok ((x.signExtend 32).setWidth 64)) ∧
    (∀ x, c.raw .bits 2 tid (.lit x) = .ok (x.signExtend 64) ∧ c.raw .bits 1 tid (.lit x) = .ok ((x.signExtend 32).setWidth 64)) ∧
    (∀ F w x, let code := convert0 F rne false 0 (Val.ofInt x.toInt)
      c.raw (.flt F false) w tid (.lit x) = .ok (BitVec.ofNat 64 code) ∧
      c.raw (.flt F true) w tid (.lit x) = .ok (BitVec.ofNat 64 (code + 2 ^ 16 * code))) ∧
    (∀ x, c.raw .int 2 tid (.lit32 x) = .ok (x.signExtend 64) ∧ c.raw .bits 2 tid (.lit32 x) = .ok (x.setWidth 64) ∧
      c.raw k 1 tid (.lit32 x) = .ok (x.setWidth 64)) ∧
    (∀ w n, c.routeByte i = 0 → c.opd k w i tid (.vec n) = c.raw k w tid (.vec n)) ∧
    (∀ w n, c.routeByte i ≠ 0 → c.tids.contains (routeFrom c i tid) = true →
      c.opd k w i tid (.vec n) = c.raw k w (routeFrom c i tid) (.vec n)) ∧
    (∀ w n, c.routeByte i ≠ 0 → c.tids.contains (routeFrom c i tid) = false → c.fill = 1 →
      c.opd k w i tid (.vec n) = c.raw k w tid (.vec n)) ∧
    (∀ w n, c.routeByte i ≠ 0 → c.tids.contains (routeFrom c i tid) = false → c.fill = 0 → c.opd k w i tid (.vec n) = .ok 0) ∧
    (∀ n, c.routeByte i ≠ 0 → c.tids.contains (routeFrom c i tid) = false → c.fill = 2 →
      c.opd k 2 i tid (.vec n) = .ok (BitVec.allOnes 64) ∧ c.opd k 1 i tid (.vec n) = .ok 0xFFFFFFFF) ∧
    (∀ o n, i < 3 → sourceField c i = .vec n → c.routeByte i ≠ 0 → c.tids.contains (routeFrom c i tid) = false → c.fill = 3 →
      isOk (c.ranged o) = true → ∃ e, c.precheck o tid = .error e ∧ e.cause = 0x0021)

/-- R46, R47 and R28: a thread's result as it is written. Each named register takes its word, a pair its two halves, a predicate its bit, but
that a write to p0 is discarded; nothing else of the thread changes, save that a changed value clears its spin count. -/
def Obligations.ThreadWrites : Prop :=
  ∀ (t : Thread) (d : Nat) (x : Dword) (b : Bool),
    (∀ k, (t.apply (.wide d 1 x)).reg k = if k = d ∧ d < t.v.length then x.setWidth 32 else t.reg k) ∧
    (∀ k, (t.apply (.wide d 2 x)).reg k =
      if k = d ∧ d < t.v.length then x.setWidth 32
      else if k = d + 1 ∧ d + 1 < t.v.length then x.extractLsb' 32 32 else t.reg k) ∧
    (∀ k, k < 8 → d < 8 → (t.apply (.pred d b)).pred k = if k = d ∧ d ≠ 0 then b else t.pred k) ∧
    (∀ w, ∃ v n, t.apply (.wide d w x) = { t with v := v, spin := n } ∧ (n = t.spin ∨ n = 0)) ∧
    (∃ p n, t.apply (.pred d b) = { t with p := p, spin := n } ∧ (n = t.spin ∨ n = 0)) ∧
    t.apply (.pred 0 b) = t

/-- R53, R156, R159: `vote` and `cbase` (vote, cbase, cbaseShort, cbaseLimm): their results, and nothing else changes. -/
def Obligations.VotesAndWindow : Prop := VotesTaken ∧ WindowSet

end

/-! ### Control flow: where each thread of a group goes -/

namespace Sys2Proof.Claims

open Sys2Proof Sys2Proof.Machine Sys2Proof.Safety

/-- The trick of one group. -/
def oneGroup (s : State) (f : Fields) : Option Ctx :=
  match s.issue.trick with
  | [e] => if trickOk s then s.ctx? f e.1 e.2 else none
  | _ => none

/-- The threads of a trick that a unit's executing threads leave behind go on; `h` changes the executing ones. -/
def executingAfter (s : State) (f : Fields) (h : Ctx → Nat → Thread → Thread) : State :=
  groupsAfter s f fun c g =>
    { g with threads := g.threads.mapIdx fun tid t =>
        if c.exec.contains tid then h c tid t else if c.tids.contains tid then stepOn c (s.core g.coreNo).cycles tid t else t }

/-- A transfer of one group, by what each executing thread does: its exact target (R7), whether it takes it, and its return stack after. -/
structure Aim where
  target : Int
  taken : Bool
  ret : List Word
/-- A target inside the text as a text offset. -/
def landsAt (a : Aim) : Word := BitVec.ofInt 32 a.target
/-- The checks that a transfer passes (R84 to R86, R167, R168): its operands, its targets where taken, the depth of its stack, and, where the 16 newest
entries are full, the stack page of the entry that it spills or refills. -/
def aimOk (c : Ctx) (o : Op) (k : JumpKind) (indirect : Bool) (aim : Nat → Aim) : Bool :=
  c.exec.all fun t => isOk (c.precheck o t) && constOk c c.f.a
    && (!(aim t).taken || (decide (0 ≤ (aim t).target ∧ (aim t).target < 2 ^ 32) && (c.s.targetCause c.l (landsAt (aim t)) indirect).isNone))
    && (match k with
      | .call =>
        let n := (c.th t).ret.length
        n < 256 && (n < 16 || c.g.stackUp t (4096 + 4 * (n - 16)))
      | .ret =>
        let n := (c.th t).ret.length
        n ≠ 0 && (n ≤ 16 || c.g.stackUp t (4096 + 4 * (n - 17)))
      | .branch => true)
/-- The new state of a thread of the trick, its tag apart: a taken transfer stands at its target with its new stack; a taken branch is seen by the
spin detector (R28, R166); every other thread of the trick stands at the next unit. -/
def wentTo (c : Ctx) (k : JumpKind) (aim : Nat → Aim) (now tid : Nat) (t : Thread) : Thread :=
  let u := stepOn c now tid t
  if c.exec.contains tid && (aim tid).taken then
    let v := if k = .branch then u.branched c.s.issue.ipc (landsAt (aim tid)) else u
    { v with pc := landsAt (aim tid), ret := (aim tid).ret, status := .ready }
  else u
/-- A transfer's outcome: only the group's threads and the counter of fresh tags may differ; a thread of the trick is as `wentTo` says but for its tag,
and any other thread is as it was. -/
def transferred (s : State) (c : Ctx) (k : JumpKind) (aim : Nat → Aim) (r : State) : Prop :=
  r = { s with groups := r.groups, fresh := r.fresh } ∧ (∀ g ∈ s.groups, g.gid ≠ c.g.gid → g ∈ r.groups) ∧
  ∀ tid t, s.thread? c.g.gid tid = some t → ∃ u, r.thread? c.g.gid tid = some u ∧
    (c.tids.contains tid = true → { u with tag := t.tag } = wentTo c k aim (s.core c.g.coreNo).cycles tid t) ∧
    (c.tids.contains tid = false → u = t)

/-- Direct transfers aim at ADDR + 4 × OFF, exactly (R7, R69, R164); a `bra.sz` or `bra.snz` tests a scalar of the group. -/
def braAim (c : Ctx) (t : Nat) : Aim :=
  let z := decide (nth c.g.s c.f.c.num 0 = 0)
  ⟨c.s.issue.ipc.toNat + 4 * c.f.w.toInt, c.f.v = 0 || (c.f.v = 1 && z) || (c.f.v = 2 && !z), (c.th t).ret⟩
def callAim (c : Ctx) (t : Nat) : Aim := ⟨c.s.issue.ipc.toNat + 4 * c.f.w.toInt, true, c.s.issue.npc :: (c.th t).ret⟩
/-- Indirect transfers aim at the text offset in A (R165). -/
def brxAim (c : Ctx) (t : Nat) : Aim := ⟨((wordA c t).setWidth 32 : Word).toNat, true, (c.th t).ret⟩
def callxAim (c : Ctx) (t : Nat) : Aim := ⟨((wordA c t).setWidth 32 : Word).toNat, true, c.s.issue.npc :: (c.th t).ret⟩
/-- A return aims at the newest entry and drops it (R169). -/
def retAim (c : Ctx) (t : Nat) : Aim := ⟨((c.th t).ret.headD 0).toNat, true, (c.th t).ret.tail⟩

/-- What a guard's decision makes of a command that waits on a slot of its group: it stands on, decided, or it is discarded (R77, R178). -/
def decidedGuard (mine : Bool) (gs : Nat) (val : Bool) (g : Option GuardP) : Option (Option GuardP) :=
  match g with
  | some p => if mine && p.gs.toNat == gs then (if val != p.sns then some none else none) else some g
  | none => some none
/-- A quad's commands after the decision, those of other groups and slots as they were. -/
def decidedCmds (gid gs : Nat) (val : Bool) (l : List MatCmd) : List MatCmd :=
  l.filterMap fun c => (decidedGuard (c.gid == gid) gs val c.guard).map fun g => { c with guard := g }
/-- A drain whose draws wait for its guard (R209). -/
def waitingDraws (c : MatCmd) : Bool :=
  c.guard.isSome && match c.op with
    | .drain _ _ p => p.mode == msr
    | _ => false

/-- Does a thread wait for an entry of its store-buffer share (R342)? -/
def storeWaits (t : Thread) : Bool :=
  match t.status with
  | .storeFull _ _ => true
  | _ => false

/-- The far `call` without an INV prefix has no operand beside its target. -/
def plainFields (i : Instr) (f : Fields) : Prop :=
  (∃ fm, i.core = some (fm, .call, f) ∧ fm ≠ .limm) ∨ ∃ g : LimmF, i = .callFar g ∧ f = { g.fieldsFar with a := .vec 0, b := .vec 0, d := 0 }

end Sys2Proof.Claims

section
open Sys2Proof Sys2Proof.Machine Sys2Proof.Safety Sys2Proof.Claims

/-- R170, R171: `land`, `nop` and `yield` in every form (land, nop, nopShort, yield, yieldShort). The first two only go on; a `yield` also leaves its
executing threads out of the picks of the next 32 cycles. -/
def Sys2Proof.Claims.GoOn : Prop :=
  (∀ i o f s, IsRow i o f → (o = .land ∨ o = .nop) → trickOk s = true → exec i s = .next (groupAfter s f fun _ g => g)) ∧
  (∀ i f s, IsRow i .yield f → trickOk s = true →
    exec i s = .next (groupAfter s f fun c g =>
      { g with
        threads := g.threads.mapIdx fun tid t =>
          if c.exec.contains tid then { t with yieldUntil := some ((s.core c.g.coreNo).cycles + 32) } else t }))

/-- R163 to R165: `bra`, `bra.sz`, `bra.snz` and `brx` in every form (bra, braShort, braFar, brx), where every check of the transfer passes and no REP
stands before it. -/
def Sys2Proof.Claims.BranchesTaken : Prop :=
  (∀ i f s c, IsRow i .bra f → oneGroup s f = some c → s.issue.pfx.rep = none → aimOk c .bra .branch false (braAim c) = true →
    Answers (exec i s) (transferred s c .branch (braAim c))) ∧
  (∀ i f s c, IsRow i .brx f → oneGroup s f = some c → s.issue.pfx.rep = none → aimOk c .brx .branch true (brxAim c) = true →
    Answers (exec i s) (transferred s c .branch (brxAim c)))

/-- R167, R169: calls and returns in every form (call, callShort, callFar without INV, callx, ret, retShort) at every depth that the stack has: a call
pushes the offset of the next unit, a return pops the newest entry, the entries from the seventeenth on standing in the spill area, whose page is
present. No thread of the trick is in an evaluation. -/
def Sys2Proof.Claims.CallsTaken : Prop :=
  (∀ i f s c, plainFields i f → s.issue.pfx.inv = none → oneGroup s f = some c → s.issue.pfx.rep = none →
    aimOk c .call .call false (callAim c) = true → Answers (exec i s) (transferred s c .call (callAim c))) ∧
  (∀ i f s c, IsRow i .callx f → oneGroup s f = some c → s.issue.pfx.rep = none → aimOk c .callx .call true (callxAim c) = true →
    Answers (exec i s) (transferred s c .call (callxAim c))) ∧
  (∀ i f s c, IsRow i .ret f → s.evaluating = false → oneGroup s f = some c → s.issue.pfx.rep = none →
    aimOk c .ret .ret false (retAim c) = true → Answers (exec i s) (transferred s c .ret (retAim c)))

/-- R86, R163, R164, R168: a transfer that one executing thread fails takes effect for no thread of its group. The group's trap has the lowest failing
thread's code, and every executing thread's own target stands in its record. Shown for `callx` at depth 256 (0x22), for `ret` at depth 0 (0x23), and for
a `bra` whose exact target is no text offset (0x16). -/
def Sys2Proof.Claims.StackLimits : Prop :=
  (∀ i f s c t, IsRow i .callx f → oneGroup s f = some c → s.issue.pfx.rep = none → c.exec = [t] → isOk (c.precheck .callx t) = true →
    constOk c c.f.a = true → 256 ≤ (c.th t).ret.length →
    exec i s = .next ((s.advance c.g.gid (c.tids.filter fun x => !c.exec.contains x)).raise c.g.gid s.issue.id
      ⟨0x0022, s.issue.ipc.setWidth 64,
        [⟨t, s.issue.upc, { cause := 0x0022, info := s.issue.ipc.setWidth 64, flags := 1, word := (wordA c t).setWidth 32 }⟩]⟩)) ∧
  (∀ i f s c t, IsRow i .ret f → s.evaluating = false → oneGroup s f = some c → s.issue.pfx.rep = none → c.exec = [t] →
    isOk (c.precheck .ret t) = true → (c.th t).ret = [] →
    exec i s = .next ((s.advance c.g.gid (c.tids.filter fun x => !c.exec.contains x)).raise c.g.gid s.issue.id
      ⟨0x0023, s.issue.ipc.setWidth 64,
        [⟨t, s.issue.upc, { cause := 0x0023, info := s.issue.ipc.setWidth 64, flags := 1, word := s.issue.ipc }⟩]⟩)) ∧
  (∀ i f s c, IsRow i .bra f → oneGroup s f = some c → s.issue.pfx.rep = none → (∀ t ∈ c.exec, isOk (c.precheck .bra t) = true) →
    c.exec ≠ [] → (braAim c (nth c.exec 0 0)).taken = true → ¬(0 ≤ (braAim c 0).target ∧ (braAim c 0).target < 2 ^ 32) →
    ∃ es, exec i s = .next ((s.advance c.g.gid (c.tids.filter fun x => !c.exec.contains x)).raise c.g.gid s.issue.id
      ⟨0x0016, BitVec.ofInt 64 (braAim c 0).target, es⟩) ∧ es.map (·.tid) = c.exec)

/-- R26, R172, R173 and R351: `join`, `exit` and `bar` in every form (join, joinShort, joinLimm, exit, exitShort, bar, barShort). The executing threads wait
at the join with its mask, end, or wait at the barrier that each one's own B names; the others go on; then the machine evaluates the conditions over waiting threads. -/
def Obligations.JoinExitBarrier : Prop :=
  (∀ i f s, IsRow i .join f → unitRuns .join f s = true →
    exec i s = .next (State.settle (executingAfter s f fun c tid t =>
      { t with status := .join s.issue.upc (bitsB c 2 tid) s.issue.npc }))) ∧
  (∀ i f s, IsRow i .exit f → trickOk s = true → exec i s = .next (State.settle (executingAfter s f fun _ _ t => t.exit))) ∧
  (∀ i f s, IsRow i .bar f → unitRuns .bar f s = true →
    everyGroup s f (fun c => c.exec.all fun t => decide ((got (c.raw .int 1 t c.f.b)).toNat ≤ 15)) = true →
    exec i s = .next (State.settle (executingAfter s f fun c tid t =>
      { t with status := .blocked (.bar (got (c.raw .int 1 tid c.f.b)).toNat) s.issue.npc })))

/-- R174, R175, R440: `trap` and `trap.brk` in every form (trap, trapShort, trapBrkShort) of one group. The threads go on to the next unit, and the group
takes the software trap with the code in B, its executing threads standing at the next unit; under an attached debugger `trap.brk` halts instead. -/
def Obligations.SoftwareTraps : Prop :=
  (∀ i f s c, IsRow i .trap f → oneGroup s f = some c → c.exec ≠ [] → isOk (c.precheck .trap (nth c.exec 0 0)) = true → constOk c c.f.b = true →
    (c.f.v ≠ 1 ∨ c.g.attached = false) →
    let code : Dword := ((got (c.sB .int 1)).setWidth 16 : BitVec 16).setWidth 64
    let cause : BitVec 16 := if c.f.v = 1 then 0x0002 else 0x0001
    exec i s = .next (State.settle ((s.advance c.g.gid c.tids).raise c.g.gid s.issue.id
      ⟨cause, code, c.exec.map fun t => ⟨t, s.issue.npc, { cause := cause, info := code, flags := 1, word := s.issue.ipc }⟩⟩))) ∧
  (∀ i f s c, IsRow i .trap f → oneGroup s f = some c → c.exec ≠ [] → isOk (c.precheck .trap (nth c.exec 0 0)) = true → constOk c c.f.b = true →
    c.f.v = 1 → c.g.attached = true →
    exec i s = .next (State.settle ((s.advance c.g.gid c.tids).modGroup c.g.gid fun g =>
      { g with halting := true, haltRecord := some ((got (c.sB .int 1)).setWidth 16, c.exec.map fun t => (t, s.issue.npc)) })))

/-- R176 to R178: `gset` (gset) with nothing waiting on the slot, and `gclr` (gclr). `gset` resolves the slot true or false; `gclr` makes it unresolved or
never held. -/
def Sys2Proof.Claims.GuardsSet : Prop :=
  (∀ i f s c, IsRow i .gset f → oneGroup s f = some c → isOk (c.precheck .gset (nth c.tids 0 0)) = true → constOk c c.f.b = true →
    (s.quad c.g.quadNo).cmds = [] → (∀ t ∈ c.g.threads, storeWaits t = false ∧ ∀ a ∈ t.ops, a.guard = none) →
    Answers (exec i s) fun (r : State) => r.mem = s.mem ∧ ∃ g : Group, r.group? c.g.gid = some g ∧
      g.g = c.g.g.set c.f.d (if got (c.sB .int 2) = 0 then 2 else 1) ∧ g.s = c.g.s ∧ g.window = c.g.window ∧
      ∀ (tid : Nat) (t : Thread), c.g.threads[tid]? = some t →
        ∃ u : Thread, g.threads[tid]? = some u ∧ u.v = t.v ∧ u.p = t.p ∧ u.ret = t.ret) ∧
  (∀ i f s, IsRow i .gclr f → groupRuns .gclr f s = true →
    exec i s = .next (groupAfter s f fun c g => { g with g := g.g.set c.f.d (if c.f.b.num = 1 then 3 else 0) }))

/-- R178: `gset` (gset) with commands and copy starts that wait on the slot: those of its group whose guard the slot's new state meets stand decided,
and the engine goes on with them; those that it does not meet are gone, from the quad, the channels and the store buffers; every other one is as
it was. No thread waits for a store-buffer entry, and no waiting drain takes stochastic draws (DEDUCED, log 16 says when it takes them). -/
def Sys2Proof.Claims.GuardsDecide : Prop :=
  ∀ i f s c, IsRow i .gset f → oneGroup s f = some c → isOk (c.precheck .gset (nth c.tids 0 0)) = true → constOk c c.f.b = true →
    distinct ((s.quad c.g.quadNo).cmds.map (·.cid)) = true → (s.quad c.g.quadNo).cmds.any waitingDraws = false →
    (∀ t ∈ c.g.threads, storeWaits t = false ∧ distinct (t.ops.map (·.seq)) = true) →
    let val := decide (got (c.sB .int 2) ≠ 0)
    let l := decidedCmds c.g.gid c.f.d val (s.quad c.g.quadNo).cmds
    Answers (exec i s) fun (r : State) =>
      r.quad c.g.quadNo = ({ s.quad c.g.quadNo with cmds := l } : Quad).settle l.length ∧
      (∀ d n, ((r.die d).channel n).queue.map (fun x => (x.cid, x.guard)) =
        ((s.die d).channel n).queue.filterMap fun x => (decidedGuard (x.gid == c.g.gid) c.f.d val x.guard).map fun g => (x.cid, g)) ∧
      ∀ tid t, c.g.threads[tid]? = some t → ∃ u, r.thread? c.g.gid tid = some u ∧
        u.ops.map (fun a => (a.seq, a.guard)) = t.ops.filterMap fun a => (decidedGuard true c.f.d val a.guard).map fun g => (a.seq, g)

/-- R181 to R184: `csr.rd` and `csr.wr` (csrRd, csrWr) of every control register. -/
def Sys2Proof.Claims.RegistersRead : Prop :=
  (∀ i f s, IsRow i .csrRd f → groupRuns .csrRd f s = true →
    exec i s = .next (groupAfter s f fun c g =>
      if c.f.a.num = 5 then { g with threads := g.threads.mapIdx fun tid t => if c.tids.contains tid then t.writeReg c.f.d (ctxState c.g t) else t }
      else if c.f.a.num = 6 then
        { g with threads := g.threads.mapIdx fun tid t => if c.tids.contains tid then t.writeReg c.f.d (BitVec.ofNat 32 t.unacked) else t }
      else scalarWrite c c.f.d (match c.f.a.num with
        | 0 => c.g.trapbase.setWidth 64
        | 1 => c.g.trapcause.setWidth 64
        | 2 => c.g.trapepc.setWidth 64
        | 3 => c.g.trapinfo
        | 4 => c.g.trapmask
        | _ => BitVec.ofNat 64 c.g.guardState) g)) ∧
  (∀ i f s, IsRow i .csrWr f → groupRuns .csrWr f s = true →
    exec i s = .next (groupAfter s f fun c g =>
      let x : Word := (got (c.sB .int 1)).setWidth 32
      if c.f.a.num = 0 then { g with trapbase := x } else { g with trapepc := x, epcWritten := true }))

/-- R163 to R165, R170, R171: `land`, `nop`, `yield`, and every branch that passes its checks (land, nop, nopShort, yield, yieldShort, bra, braShort, braFar,
brx). -/
def Obligations.Branches : Prop := GoOn ∧ BranchesTaken

/-- R163, R167 to R169: calls and returns at every depth, and the traps at the stack's ends (call, callShort, callFar, callx, ret, retShort). -/
def Obligations.CallsAndReturns : Prop := CallsTaken ∧ StackLimits

/-- R176 to R178, R181 to R184: `gset`, with what waits on its slot, `gclr`, `csr.rd` and `csr.wr` (gset, gclr, csrRd, csrWr). -/
def Obligations.GuardsAndControlRegisters : Prop := GuardsSet ∧ GuardsDecide ∧ RegistersRead

end

/-! ### Memory: stacks, the scratchpad, team memory, peers, fences, monitors and chutes -/

namespace Sys2Proof.Claims

open Sys2Proof Sys2Proof.Machine Sys2Proof.Safety

/-- The request that a memory unit makes for a thread (R339, R340, R342, R344, R345, R348): the address of a load or an arm is base A and offset
B, of a store base D and offset A, of an `atom` or a `cas` A alone. -/
def formOf (o : Op) (c : Ctx) (t : Nat) : Except TrapInfo MemReq :=
  match o with
  | .ld => c.loadReq 0 0 t
  | .lda => c.loadReq 1 (c.f.x.toNat % 8) t
  | .st => c.storeReq 0 0 t
  | .stl => c.storeReq 2 (c.f.x.toNat % 8) t
  | .atom => c.atomReq t
  | .cas => c.casReq t
  | _ => c.armReq t
def isMem (o : Op) : Bool := [Op.ld, .lda, .st, .stl, .atom, .cas, .marm].contains o
/-- The request with its target, where the thread passes every check of R347. -/
def request (o : Op) (c : Ctx) (t : Nat) : Option (MemReq × Target) :=
  match c.resolved o (formOf o) t with
  | .ok x => some x
  | .error _ => none
/-- The issue has made no access yet: every access that is listed belongs to another one, and so does every result that a group owes. -/
def newIssue (s : State) : Bool := s.groups.all fun g =>
  !s.owed g s.issue.id && g.threads.all fun t => t.ops.all fun a => a.trick != s.issue.id
/-- A thread's fences, arms, joins and barriers hold later accesses behind accesses that have been issued. -/
def holdsPast (s : State) (t : Thread) : Bool :=
  t.holds.all fun h => h.before.all fun x => match s.thread? x.gid x.tid with
    | some u => x.seq < u.seq
    | none => true
/-- Every executing thread has a request, with a target of which `p` holds; no GUARD stands before the unit, and no REP. -/
def requestsAre (s : State) (o : Op) (f : Fields) (p : Target → Bool) : Bool :=
  trickOk s && s.issue.pfx.guard.isNone && s.issue.pfx.rep.isNone && newIssue s &&
    everyGroup s f fun c => c.exec.all fun t => holdsPast s (c.th t) && match request o c t with
      | some x => p x.2
      | none => false
def toStack (g : Target) : Bool :=
  match g with
  | .stack => true
  | _ => false
def toScr (g : Target) : Bool :=
  match g with
  | .at (.phys _) => true
  | _ => false
def toPeer (g : Target) : Bool :=
  match g with
  | .at p => p.isPeer
  | _ => false

/-- A stack access is complete with its unit (R295, R342): the loaded registers, or the stack's new bytes. -/
def stackDone (c : Ctx) (r : MemReq) (now : Nat) (t : Thread) : Thread :=
  let u := { t with pc := c.s.issue.npc, status := .ready, stamp := now }
  match r.op with
  | .load d ty => u.writeRegs d (loadWords ty (rdBytes t.stack r.va.toNat r.size))
  | .store bs => { u with stack := wrBytes t.stack r.va.toNat bs, spin := 0 }
  | _ => u

/-- What a trick's stack accesses do to the marks of the stacks' words: a read corrects one-bit errors, which its die counts and the errors core hears
of, and a store clears the marks of the words that it covers whole (R310). -/
def stackMarks (o : Op) (f : Fields) (s : State) : State :=
  s.issue.trick.foldl (fun acc e => match s.ctx? f e.1 e.2 with
    | none => acc
    | some c => c.exec.foldl (fun acc t => match request o c t with
      | some (r, _) => if r.op.isStore then acc.stackWritten c.g t r.va.toNat r.size else acc.stackRead c.g t r.va.toNat r.size
      | none => acc) acc) s

/-- An access as it stands in its thread's list until it is performed (R313): its order in the thread, its place and what it does, and the accesses
that must be performed before it. -/
def pendingAt (c : Ctx) (r : MemReq) (p : Place) (tid : Nat) : Access :=
  let t := c.th tid
  { seq := t.seq, trick := r.trick, place := p, va := r.va, size := r.size, op := r.op,
    waits := c.s.waitsFor c.g tid t p r ++ c.s.proxyWaits c.g.gid tid t p r, guard := none,
    rel := if isRel r.order then some r.scope else none, queued := false, reply := none }
/-- A scratchpad access as it is issued: a ninth store waits for the thread's share (R342); a plain load leaves its registers pending and a store its
entry of the share, and the thread goes on; an acquire or a read-modify-write holds the thread (R344, R345). -/
def issued (c : Ctx) (r : MemReq) (p : Place) (now tid : Nat) (t : Thread) : Thread :=
  if r.op.isStore && 8 ≤ (c.th tid).shareUsed then { t with status := .storeFull r c.s.issue.npc }
  else
    let hold := isAcq r.order || r.op.holds
    { t with
      ops := t.ops ++ [pendingAt c r p tid]
      seq := t.seq + 1
      unacked := if r.op.isStore then t.unacked + 1 else t.unacked
      spin := if r.op.isStore then 0 else t.spin
      pendV := t.pendV ++ match r.op with
        | .load d ty => (List.range ty.words).map fun i => d + i
        | _ => []
      status := if hold then .access (c.th tid).seq c.s.issue.npc else .ready
      pc := if hold then t.pc else c.s.issue.npc
      stamp := now }

/-- What the executing threads' access leaves pending in the trick's threads whose predicate is false: the destinations, until the last of the group's
results has come (R57, R66). -/
def pendsToo (c : Ctx) (o : Op) (t : Thread) : Thread :=
  match c.exec with
  | [] => t
  | x :: _ => match request o c x with
    | some (r, _) => { t with pendT := t.pendT ++ r.op.writesRegs.map fun n => (c.s.issue.id, n) }
    | none => t

/-- A thread with no access outstanding, no hold and no register pending. -/
def idleThread (t : Thread) : Bool := t.ops.isEmpty && t.holds.isEmpty && t.pendV.isEmpty && t.pendT.isEmpty
/-- What an access does to the bytes at its place (R345), from the bytes that stood there. -/
def bytesAfter (op : AccOp) (n : Nat) (old : List Byte) : Option (List Byte) :=
  let x : Dword := BitVec.ofNat 64 (leNat old)
  match op with
  | .store bs => some bs
  | .atom _ v ty b => some (leBytes n (atomNew v.toNat ty x b).toNat)
  | .cas _ _ o w => if x = o then some (leBytes n w.toNat) else none
  | _ => none
/-- The registers that an access writes, from the bytes that it read. -/
def loaded (op : AccOp) (old : List Byte) : Option (Nat × List Word) :=
  match op with
  | .load d ty => some (d, loadWords ty old)
  | .atom d _ ty _ => some (d, valWords ty (BitVec.ofNat 64 (leNat old)))
  | .cas d ty _ _ => some (d, valWords ty (BitVec.ofNat 64 (leNat old)))
  | _ => none
def memAfter (m : Memory) (a n : Nat) (op : AccOp) : Memory :=
  match bytesAfter op n (rdBytes m a n) with
  | some bs => wrBytes m a bs
  | none => m
/-- A register file with those registers written. -/
def regsAfter (v : List Word) (op : AccOp) (old : List Byte) : List Word :=
  match loaded op old with
  | some (d, ws) => (List.range v.length).map fun k => if d ≤ k ∧ k < d + ws.length then nth ws (k - d) 0 else nth v k 0
  | none => v

/-- The chute of a core that an operation uses, and the threads that it may serve. -/
def chuteIdle (s : State) (k ch : Nat) : Bool := (s.chuteWaiters k ch true).isEmpty && (s.chuteWaiters k ch false).isEmpty
/-- The executing threads stand at one unit of one issue, in lanes of their own. -/
def together (c : Ctx) : Bool :=
  distinct (c.exec.map fun t => (c.th t).lane) &&
  !c.exec.isEmpty && c.exec.all fun t => (c.th t).pc == (c.th (nth c.exec 0 0)).pc && (c.th t).lastIssue == (c.th (nth c.exec 0 0)).lastIssue

end Sys2Proof.Claims

section
open Sys2Proof Sys2Proof.Machine Sys2Proof.Safety Sys2Proof.Claims

/-- R295, R310, R340, R342: `ld.stack` and `st.stack` in every form (ld, st, ldStackB32Short, ldStackB32Limm) whose pages are present. Each executing
thread has its own stack's bytes, or writes them, and nothing else changes but the marks of the stacks' words: no byte of the scratchpad, of team
memory or of another thread's stack. -/
def Sys2Proof.Claims.StackDone : Prop :=
  ∀ i o f s, IsRow i o f → (o = .ld ∨ o = .st) → requestsAre s o f toStack = true →
    exec i s = .next { stackMarks o f s with
      groups := (executingAfter s f fun c tid t => match request o c tid with
        | some (r, _) => stackDone c r (s.core c.g.coreNo).cycles t
        | none => t).groups }

/-- R313, R342 to R345: a load, a store, an acquire, a release, an `atom` or a `cas` of the scratchpad in every form (ld, st, lda, stl, atom, cas,
ldScrB32Short, ldScrB64Short, ldScrB128Short, ldScrB32Limm, ldScrB64Limm, ldScrB128Limm). It is issued: it stands in its thread's list with what it must wait for, its destination is pending in every thread of the trick
(R57), and nothing else changes. The bytes change when it is performed. -/
def Sys2Proof.Claims.ScratchpadIssued : Prop :=
  ∀ i o f s, IsRow i o f → isMem o = true → o ≠ .marm → requestsAre s o f toScr = true →
    exec i s = .next (groupsAfter s f fun c g =>
      { g with
        threads := g.threads.mapIdx fun tid t =>
          if c.exec.contains tid then match request o c tid with
            | some (r, .at p) => issued c r p (s.core c.g.coreNo).cycles tid t
            | _ => t
          else if c.tids.contains tid then pendsToo c o (stepOn c (s.core g.coreNo).cycles tid t) else t })

/-- R18, R310, R313, R340, R342 and R345: a team-memory access of one thread that has nothing outstanding, in every form (ld, lda, st, stl, atom, cas,
ldTeamB32Short, ldTeamB64Short, ldTeamB128Short, ldTeamB32Limm): it is performed with its unit. The team's bytes and the thread's registers are as the access says; every other byte of the team, the scratchpad and the thread's other
registers are as they were. -/
def Obligations.TeamMemoryAccesses : Prop :=
  ∀ i o f s c t r tu h off m, IsRow i o f → isMem o = true → o ≠ .marm → s.issue.pfx.guard = none → s.issue.pfx.rep = none →
    oneGroup s f = some c → c.exec = [t] → request o c t = some (r, .at (.team tu h off)) → idleThread (c.th t) = true → s.team? tu = some m →
    newIssue s = true → s.issue.core = c.g.coreNo → s.away c.g = false →
    Answers (exec i s) fun (z : State) => z.mem = s.mem ∧
      (∃ n : Team, z.team? tu = some n ∧ n.half h = memAfter (m.half h) off r.size r.op ∧ n.half (1 - h) = m.half (1 - h)) ∧
      (∀ k n, k ≠ tu → s.team? k = some n → z.team? k = some n) ∧
      ∃ u : Thread, z.thread? c.g.gid t = some u ∧ u.v = regsAfter (c.th t).v r.op (rdBytes (m.half h) off r.size) ∧
        u.p = (c.th t).p ∧ u.stack = (c.th t).stack ∧ u.status = .ready ∧ u.pc = s.issue.npc ∧ idleThread u = true

/-- R302, R342, R391: a peer access of one thread, in every form (ld, st, lda, stl, atom, cas, ldPeerB32Short, ldPeerB32Limm): it stands in
the thread's list, and the thread waits for its response. No register, no predicate and no byte of this module's memory changes. -/
def Obligations.PeerAccessesIssued : Prop :=
  ∀ i o f s c t r p, IsRow i o f → isMem o = true → o ≠ .marm → s.issue.pfx.guard = none → s.issue.pfx.rep = none → oneGroup s f = some c →
    c.exec = [t] → newIssue s = true → request o c t = some (r, .at p) → p.isPeer = true → (r.op.isStore = false ∨ (c.th t).shareUsed < 8) →
    Answers (exec i s) fun (z : State) => z.mem = s.mem ∧ z.teams = s.teams ∧
      ∃ u : Thread, z.thread? c.g.gid t = some u ∧ u.v = (c.th t).v ∧ u.p = (c.th t).p ∧ u.stack = (c.th t).stack ∧
        u.status = .access (c.th t).seq s.issue.npc ∧
        ∃ a ∈ u.ops, a.seq = (c.th t).seq ∧ a.place = p ∧ a.size = r.size ∧ a.op = r.op

/-- R317, R318, R346, R348: `fence` in every form (fence, fenceTeamShort, fenceDieShort, fenceModShort, fenceSysShort) holds each executing thread's later
accesses in reach behind its pending ones; `marm` (marm) of a scratchpad address arms the thread's monitor of the aligned 8 bytes; `mwait` (mwait,
mwaitShort) consumes the arm and goes on when a store has been seen or nothing is armed, and else blocks; an arm that is consumed leaves its bank's table, and threads of one tag
of which some go on and some block have tags of their own (DEDUCED, log 37). -/
def Obligations.FencesAndMonitors : Prop :=
  (∀ i f s, IsRow i .fence f → trickOk s = true → s.issue.pfx.rep = none →
    exec i s = .next (groupAfter s f fun c g =>
      { g with
        threads := g.threads.mapIdx fun tid t =>
          if c.exec.contains tid then
            match t.pendingIn c.g.gid tid c.g.die c.f.v.toNat with
            | [] => t
            | l => { t with holds := t.holds ++ [⟨c.f.v.toNat, c.g.die, l⟩] }
          else t })) ∧
  (∀ i f s c t r pa, IsRow i .marm f → s.issue.pfx.guard = none → s.issue.pfx.rep = none → oneGroup s f = some c → c.exec = [t] →
    newIssue s = true → request .marm c t = some (r, .at (.phys pa)) → idleThread (c.th t) = true → (s.monitors.filter fun e => e.bank == bankNo pa).length < 64 →
    Answers (exec i s) fun (z : State) => z.mem = s.mem ∧ r.va.toNat % 8 = 0 ∧ r.size = 8 ∧ ⟨bankNo pa, .thread c.g.gid t⟩ ∈ z.monitors ∧
      ∃ u : Thread, z.thread? c.g.gid t = some u ∧ u.monitor = some ⟨.phys pa, false, none⟩ ∧ u.v = (c.th t).v ∧ u.p = (c.th t).p ∧
        u.status = .ready ∧ u.pc = s.issue.npc) ∧
  (∀ i f s, IsRow i .mwait f → trickOk s = true → s.issue.trick ≠ [] → s.issue.pfx.rep = none →
    exec i s = .next (s.splitEarly f <| State.tidyArms <| executingAfter s f fun c _ t =>
      if (match t.monitor with
        | some m => m.hit
        | none => true) then { t with monitor := none, pc := s.issue.npc, stamp := (s.core c.g.coreNo).cycles }
      else { t with status := .blocked .mwait s.issue.npc }))

/-- R356, R357: `pop` (pop, popB32Short) of a chute with an entry, and `push` (push) to a chute with room, by the executing threads of one group. The
oldest entry leaves the chute, and each thread's register holds the word of its lane; or one entry is appended whose word of each pushing
thread's lane is its operand and whose other words are zero. The threads go on. -/
def Obligations.ChutePopAndPush : Prop :=
  (∀ i f s c e l, IsRow i .pop f → oneGroup s f = some c → s.issue.pfx.rep = none → s.issue.core = c.g.coreNo → s.issue.lid = c.g.lid → together c = true →
    (c.exec.all fun t => isOk (c.precheck .pop t)) = true → (s.core c.g.coreNo).chuteFault c.g.lid = none →
    chuteIdle s c.g.coreNo (c.f.b.num % 4) = true → (s.core c.g.coreNo).chutes.length = 4 →
    (s.core c.g.coreNo).chute (c.f.b.num % 4) = e :: l →
    Answers (exec i s) fun (z : State) => z.mem = s.mem ∧ (z.core c.g.coreNo).chute (c.f.b.num % 4) = l ∧
      ∀ t ∈ c.exec, ∃ u : Thread, z.thread? c.g.gid t = some u ∧ u.v = (c.th t).v.set c.f.d (nth e (c.th t).lane 0) ∧ u.p = (c.th t).p ∧
        u.status = .ready ∧ u.pc = s.issue.npc) ∧
  (∀ i f s c, IsRow i .push f → oneGroup s f = some c → s.issue.pfx.rep = none → s.issue.core = c.g.coreNo → s.issue.lid = c.g.lid → together c = true →
    (c.exec.all fun t => isOk (c.precheck .push t) && constOk c c.f.a) = true → (s.core c.g.coreNo).chuteFault c.g.lid = none →
    chuteIdle s c.g.coreNo (c.f.d % 4) = true → (s.core c.g.coreNo).chutes.length = 4 →
    ((s.core c.g.coreNo).chute (c.f.d % 4)).length < 64 →
    Answers (exec i s) fun (z : State) => z.mem = s.mem ∧
      (z.core c.g.coreNo).chute (c.f.d % 4) = (s.core c.g.coreNo).chute (c.f.d % 4) ++
        [entryOf (c.exec.map fun t => ((c.th t).lane, (wordA c t).setWidth 32))] ∧
      (z.core c.g.coreNo).owner = some c.g.lid ∧
      ∀ t ∈ c.exec, ∃ u : Thread, z.thread? c.g.gid t = some u ∧ u.v = (c.th t).v ∧ u.p = (c.th t).p ∧ u.status = .ready ∧ u.pc = s.issue.npc)

/-- R295, R313, R340, R342 to R345: accesses to the stack, which are complete with their unit, and to the scratchpad, which are issued (ld, st, lda, stl,
atom, cas, ldStackB32Short, ldStackB32Limm, ldScrB32Short, ldScrB64Short, ldScrB128Short, ldScrB32Limm, ldScrB64Limm, ldScrB128Limm). -/
def Obligations.StackAndScratchpad : Prop := StackDone ∧ ScratchpadIssued

end

/-! ### The matrix engine -/

namespace Sys2Proof.Claims

open Sys2Proof Sys2Proof.Machine Sys2Proof.Safety

/-- A matrix unit of one group whose threads are ready and pass the register-range and routing checks (R266). -/
def matReady (o : Op) (f : Fields) (s : State) : Option Ctx :=
  match oneGroup s f with
  | some c =>
    if s.issue.pfx.rep.isNone && (c.tids.all fun t => (c.th t).ready) && c.matThreads.all fun t => isOk (c.matCheck o t) then some c
    else none
  | none => none
/-- The quad of a context's group. -/
def quadOf (c : Ctx) : Quad := c.s.quad c.g.quadNo
/-- No command that takes effect at once is left over in the quad (one never is, R284). -/
def noneLeft (c : Ctx) : Bool := (quadOf c).cmds.all fun x => !x.op.instant
/-- The command's guard (R178, R259): none when it has none or is decided true, its slot and sense while undecided; a command decided false is
dropped. -/
def guardOf (c : Ctx) : Option (Option GuardP) :=
  match c.s.issue.pfx.guard with
  | none => some none
  | some p => match c.g.guardNow p with
    | some true => some none
    | some false => none
    | none => some (some p)
/-- No register, predicate, scalar or byte of memory has changed. -/
def quiet (c : Ctx) (r : State) : Prop :=
  r.mem = c.s.mem ∧ r.teams = c.s.teams ∧ ∃ g : Group, r.group? c.g.gid = some g ∧ g.s = c.g.s ∧
    ∀ t < c.g.threads.length, ∃ u : Thread, r.thread? c.g.gid t = some u ∧ u.v = (c.th t).v ∧ u.p = (c.th t).p
/-- The threads of the trick stand at the next unit; a replay moves those that it replays (R306). -/
def wentOn (c : Ctx) (r : State) : Prop := ∀ t ∈ c.tids, c.s.issue.goes c.g.gid t = true → ∃ u : Thread, r.thread? c.g.gid t = some u ∧ u.status = .ready ∧ u.pc = c.s.issue.npc
/-- A command of the executing threads is queued behind those that stand in the quad, or is dropped by its guard; nothing else of the quad
changes. -/
def queued (c : Ctx) (op : MatOp → Prop) (handles : List Nat) (r : State) : Prop :=
  match guardOf c with
  | none => quadOf c = r.quad c.g.quadNo
  | some gd => ∃ x : MatCmd, r.quad c.g.quadNo = { quadOf c with cmds := (quadOf c).cmds ++ [x] } ∧ op x.op ∧ x.gid = c.g.gid ∧ x.tids = c.exec ∧
      x.handles = handles ∧ x.guard = gd ∧ x.prio = c.l.prio ∧ x.granted = none

/-- The view that a group has of its quad: its own commands in issue order have taken effect (R253). -/
def seen (c : Ctx) : Quad := c.view c.s
/-- The checks of a pass on its tile and slots (R253, reasons 0x01 to 0x06). -/
def passOk (c : Ctx) (t a b : Nat) (fa fb : BitVec 8 → Bool) (rows : Nat) (mode : BitVec 2) : Bool :=
  let v := seen c
  v.heldSlot c.g.gid a && v.heldSlot c.g.gid b && (v.slot a).filled && (v.slot b).filled && fa (v.slot a).fmt && fb (v.slot b).fmt
    && decide (c.g.width ≤ (v.slot a).nrows) && decide (rows ≤ (v.slot b).nrows) && v.heldTile c.g.gid t && (v.tile t).mode == mode
/-- The operand types of an `mma`, its slot, and the kind of its pass (R274, R277). -/
def mmaA (c : Ctx) : Nat := (c.f.fn.extractLsb' 3 3).toNat
def mmaB (c : Ctx) : Nat := (c.f.fn.extractLsb' 0 3).toNat
def mmaFloat (c : Ctx) : Bool := decide (4 ≤ mmaA c)
def mmaSlot (c : Ctx) : Nat := c.f.x.toNat / 2 % 8
def mmaOk (c : Ctx) : Bool :=
  let v := seen c
  let t := v.tile c.f.d
  passOk c c.f.d c.f.a.num c.f.b.num (fitsType (mmaA c)) (fitsType (mmaB c)) t.n (if mmaFloat c then 2 else 1) &&
    (!mmaFloat c || (c.slotImg (mmaSlot c) != 0 && t.aslot == c.slotNo (mmaSlot c) &&
      (!t.tsset || (t.tsA == (v.slot c.f.a.num).ts && t.tsB == (v.slot c.f.b.num).ts))))
def mmaKind (c : Ctx) : PassKind := if mmaFloat c then .float c.mod.fz else .int (c.f.x.getLsbD 0 || c.mod.sat)
def cmmaOk (c : Ctx) : Bool :=
  let n := ((seen c).tile c.f.d).n
  let fmt : BitVec 8 := if c.f.fn = 0 then 7 else 6
  passOk c c.f.d c.f.a.num c.f.b.num (· == fmt) (· == fmt) (n / 2) 1 && n % 2 == 0
def mzpcOk (c : Ctx) : Bool :=
  let v := seen c
  let n := (v.tile c.f.d).n
  let z := isCplx (v.slot c.f.a.num).fmt
  c.slotImg c.f.b.num != 0 && v.heldSlot c.g.gid c.f.a.num && (v.slot c.f.a.num).filled
    && decide ((if z then n / 2 else n) ≤ (v.slot c.f.a.num).nrows) && v.heldTile c.g.gid c.f.d && (v.tile c.f.d).mode == 1 && (!z || n % 2 == 0)

/-- The column of a thread, below the tile's width (R279). -/
def colOf (c : Ctx) (n t : Nat) : Option Nat :=
  match c.ctlB t with
  | .ok j => if j.toNat < n then some j.toNat else none
  | .error _ => none
def colsOk (c : Ctx) (n : Nat) : Bool := c.exec.all fun t => (colOf c n t).isSome
def col (c : Ctx) (n t : Nat) : Nat := (colOf c n t).getD 0

/-- The rows of an `oload` in memory (R270): the rows, or the K columns of a transposed one, at the pitch in B, and the scale codes behind them. -/
def oloadImg (c : Ctx) : BitVec 128 := c.slotImg ((c.f.ty.fmtSlot?).getD 0)
def oloadTr (c : Ctx) : Bool := c.f.v == 1 || c.f.v == 3
def oloadRows (c : Ctx) : Nat := (got (c.sC .int 1)).toNat
def oloadSpan (c : Ctx) : Nat := if oloadTr c then rowK (slotFmt (oloadImg c)) else oloadRows c
def oloadAt (c : Ctx) (k : Nat) : Nat := ((got (c.sA .int 2)).toNat + k) % 2 ^ 64
def oloadPieces (c : Ctx) : List (Nat × Nat) :=
  let img := oloadImg c
  let pitch := (got (c.sB .int 1)).toNat
  let each := if oloadTr c then (oloadRows c * elemBits (slotFmt img) + 7) / 8 else 64
  let nb := if blockSize (slotBlock img) = 0 then 0 else 64 / blockSize (slotBlock img)
  ((List.range (oloadSpan c)).map fun r => (oloadAt c (r * pitch), each)) ++
    if nb = 0 then [] else (List.range (oloadRows c)).map fun r => (oloadAt c (oloadSpan c * pitch + r * nb), nb)
/-- The divisors of a smoothed `oload` (R272), one for each of the K channels; none otherwise. -/
def oloadSm (c : Ctx) : Bool := c.f.v == 2 || c.f.v == 3
def divisorPieces (c : Ctx) : List (Nat × Nat) :=
  if oloadSm c then (List.range (rowK (slotFmt (oloadImg c)))).map fun k => ((divisorAt (oloadImg c) k).toNat, 4) else []
/-- The rows as the slot takes them: transposed and smoothed as the variant says. -/
def oloadData (c : Ctx) (rows divs : List (List Byte)) : List (List Byte) :=
  let img := oloadImg c
  let l := if oloadTr c then transposed (elemBits (slotFmt img)) (rowK (slotFmt img)) (oloadRows c) rows else rows
  if oloadSm c then l.map (smoothRow img (divs.map fun b => divisorVal (BitVec.ofNat 32 (leNat b)))) else l
/-- The conditions of an `oload` (R253, R270 to R272). -/
def oloadOk (c : Ctx) : Bool :=
  (!oloadSm c || (slotSmooth (oloadImg c) != 0 && isFloatFmt (slotFmt (oloadImg c)))) && constOk c c.f.a && constOk c c.f.b && constOk c c.f.c && slotLoads (slotFmt (oloadImg c)) && (seen c).heldSlot c.g.gid c.f.d
    && decide (1 ≤ oloadRows c) && decide (oloadRows c ≤ 64)

/-- The command of an `adrain` (R281, R282): destination, format, rounding, policy, and the table at the team offset in B of the requantising and the
per-column variants. -/
def drainImg (c : Ctx) : Option (BitVec 128) := (c.f.ty.fmtSlot?).map c.slotImg
def drainSpec (c : Ctx) : DrainSpec :=
  ⟨c.f.ty, ((drainImg c).map slotFmt).getD 0, c.mode (drainImg c), c.policy (drainImg c), false, false, [], 0, 0, [], [],
    ((seen c).tile c.f.a.num).n⟩
def drainPieces (c : Ctx) : List (Nat × Nat) :=
  let n := ((seen c).tile c.f.a.num).n
  if c.f.v = 0 then [] else [((got (c.sB .int 1)).toNat, if c.f.v = 1 then 4 + 4 * n else 8 * n)]
def drainWords (l : List (List Byte)) : List Word :=
  (List.range (l.flatten.length / 4)).map fun i => BitVec.ofNat 32 (leNat ((l.flatten.drop (4 * i)).take 4))
def drainFull (c : Ctx) (ws : List Word) : DrainSpec :=
  let w0 := nth ws 0 0
  if c.f.v = 1 then
    { drainSpec c with
      rq := true, shift := w0.toNat % 64, zo := sgn 8 (w0.toNat / 256 % 256) (c.f.ty == .i8), mult := (ws.drop 1).map BitVec.toInt }
  else if c.f.v = 2 then { drainSpec c with table := (List.range (ws.length / 2)).map fun j => (nth ws (2 * j) 0, nth ws (2 * j + 1) 0) }
  else drainSpec c
def drainOk (c : Ctx) (ws : List Word) : Bool :=
  let v := seen c
  (c.f.v == 0 || constOk c c.f.b && (got (c.sB .int 1)).toNat % (if c.f.v = 1 then 4 else 8) == 0) &&
  (c.f.v != 1 || (v.tile c.f.a.num).mode == 1 && nth ws 0 0 &&& 0xFFFF00C0 == 0) &&
  let regs := (MatOp.drain c.f.a.num c.f.d (drainSpec c)).destRegs
  v.heldTile c.g.gid c.f.a.num && (v.tile c.f.a.num).mode != 0 && (regs.all fun r => decide (r < c.g.nregs))
    && (match drainImg c with
      | some i => drainFmtOk i
      | none => true) && c.exec.all fun t => regs.all fun r => !c.s.pends c.g (c.th t) r

/-- A cell's integer or floating product sum, by the pass (R260, R275): the cell after the pass from the cell before it. -/
def cellAfter (t : Tile) (k : PassKind) (sa sb : Slot) (i j : Nat) : Cell :=
  match k with
  | .int sat => (t.cell i j).addInt sat (dot (rowInts sa.fmt (sa.row i)) (rowInts sb.fmt (sb.row j)))
  | .float fz => (t.cell i j).floatPass t.anchor (List.zip (rowVals sa.fmt fz (sa.row i)) (sa.scaleCodes i))
      (List.zip (rowVals sb.fmt fz (sb.row j)) (sb.scaleCodes j))
  | .cplx conj sat =>
    let z := cdot conj (rowCplx sa.fmt (sa.row i)) (rowCplx sb.fmt (sb.row (j / 2)))
    (t.cell i j).addInt sat (if j % 2 = 0 then z.1 else z.2)

end Sys2Proof.Claims

section
open Sys2Proof Sys2Proof.Machine Sys2Proof.Safety Sys2Proof.Claims

/-- R252, R267 to R269: `oclaim`, `aclaim`, `orelease`, `arelease` and `aclear` (oclaim, aclaim, orelease, arelease, aclear) when the quad has no command in
flight. A claim of a free handle, or of its own, answers true and of another group's false; a release frees the handle; a clear sets the tile's mode
and zeroes its cells. Nothing else changes. -/
def Obligations.ClaimsReleasesClears : Prop :=
  (∀ i f s c, IsRow i .oclaim f → matReady .oclaim f s = some c → (quadOf c).cmds = [] → s.issue.pfx.guard = none →
    let q := quadOf c
    let o := q.slot c.f.a.num
    Answers (exec i s) fun (r : State) => r.mem = s.mem ∧
      r.quad c.g.quadNo = (if o.holder = none then q.setSlot c.f.a.num { o with filled := false, nrows := 0, holder := some c.g.gid } else q) ∧
      ∀ t ∈ c.tids, ∃ u : Thread, r.thread? c.g.gid t = some u ∧ u.v = (c.th t).v ∧
        u.p = ((c.th t).setPred c.f.d (decide (o.holder = none ∨ o.holder = some c.g.gid))).p) ∧
  (∀ i f s c, IsRow i .aclaim f → matReady .aclaim f s = some c → (quadOf c).cmds = [] → s.issue.pfx.guard = none → constOk c c.f.b = true →
    let q := quadOf c
    let t := q.tile c.f.a.num
    let n := (got (c.sB .int 1)).toNat
    8 ≤ n → n ≤ 64 → (t.holder = some c.g.gid → t.n = n) →
    Answers (exec i s) fun (r : State) => r.mem = s.mem ∧
      r.quad c.g.quadNo = (if t.holder = none then q.setTile c.f.a.num { t with cells := [], n := n, mode := 0, tsset := false, holder := some c.g.gid }
        else q) ∧
      ∀ k ∈ c.tids, ∃ u : Thread, r.thread? c.g.gid k = some u ∧ u.v = (c.th k).v ∧
        u.p = ((c.th k).setPred c.f.d (decide (t.holder = none ∨ t.holder = some c.g.gid))).p) ∧
  (∀ i f s c, IsRow i .orelease f → matReady .orelease f s = some c → (quadOf c).cmds = [] → s.issue.pfx.guard = none → c.f.a.num < 0x40 →
    let q := quadOf c
    (q.slot c.f.a.num).holder = some c.g.gid →
    Answers (exec i s) fun (r : State) => quiet c r ∧ wentOn c r ∧
      r.quad c.g.quadNo = q.setSlot c.f.a.num { q.slot c.f.a.num with holder := none }) ∧
  (∀ i f s c, IsRow i .arelease f → matReady .arelease f s = some c → (quadOf c).cmds = [] → s.issue.pfx.guard = none →
    let q := quadOf c
    (q.tile c.f.a.num).holder = some c.g.gid →
    Answers (exec i s) fun (r : State) => quiet c r ∧ wentOn c r ∧
      r.quad c.g.quadNo = q.setTile c.f.a.num { q.tile c.f.a.num with holder := none }) ∧
  (∀ i f s c, IsRow i .aclear f → matReady .aclear f s = some c → (quadOf c).cmds = [] → s.issue.pfx.guard = none →
    let q := quadOf c
    let t := q.tile c.f.a.num
    let img := c.slotImg c.f.b.num
    t.holder = some c.g.gid → (c.f.b.num = 0x7F ∨ isFloatFmt (slotFmt img) = true) →
    Answers (exec i s) fun (r : State) => quiet c r ∧ wentOn c r ∧
      r.quad c.g.quadNo = q.setTile c.f.a.num
        (if c.f.b.num = 0x7F then { t with cells := [], mode := 1, anchor := 0, aslot := 0, tsset := false }
          else { t with cells := [], mode := 2, anchor := slotAnchor img, aslot := c.f.b.num, tsset := false }))

/-- R246, R256, R259, R266, R270 and R274 to R281: `oload`, `mma`, `cmma`, `mzpc`, `aload`, `aread` and `adrain` (oload, mma, cmma, mzpc, aload, aread,
adrain) queue one command of the executing threads, or are dropped by a GUARD that is decided false. No register, predicate or byte of memory changes
with them; an `aread` or `adrain` leaves its registers pending or holds its threads. -/
def Obligations.MatrixCommandsQueued : Prop :=
  (∀ i f s c, IsRow i .mma f → matReady .mma f s = some c → noneLeft c = true → c.exec ≠ [] → (quadOf c).entries < 32 → mmaOk c = true →
    Answers (exec i s) fun r => quiet c r ∧ wentOn c r ∧
      queued c (· = .pass (mmaKind c) c.f.d c.f.a.num c.f.b.num) [tileCode c.f.d, c.f.a.num, c.f.b.num] r) ∧
  (∀ i f s c, IsRow i .cmma f → matReady .cmma f s = some c → noneLeft c = true → c.exec ≠ [] → (quadOf c).entries < 32 → cmmaOk c = true →
    Answers (exec i s) fun r => quiet c r ∧ wentOn c r ∧
      queued c (· = .pass (.cplx (c.f.x.getLsbD 1) (c.f.x.getLsbD 0 || c.mod.sat)) c.f.d c.f.a.num c.f.b.num)
        [tileCode c.f.d, c.f.a.num, c.f.b.num] r) ∧
  (∀ i f s c, IsRow i .mzpc f → matReady .mzpc f s = some c → noneLeft c = true → c.exec ≠ [] → (quadOf c).entries < 32 → mzpcOk c = true →
    Answers (exec i s) fun r => quiet c r ∧ wentOn c r ∧
      queued c (· = .zpc c.f.d c.f.a.num (slotZp (c.slotImg c.f.b.num))) [tileCode c.f.d, c.f.a.num] r) ∧
  (∀ i f s c rows divs, IsRow i .oload f → matReady .oload f s = some c → noneLeft c = true → c.exec ≠ [] → oloadOk c = true →
    c.fetch s c.exec (if c.f.x = 0 then 1 else 2) (oloadPieces c) = .ok rows → c.fetch s c.exec 2 (divisorPieces c) = .ok divs →
    let img := oloadImg c
    Answers (exec i s) fun r => quiet c r ∧ wentOn c r ∧
      queued c (· = .oload c.f.d (oloadData c (rows.take (oloadSpan c)) divs) (rows.drop (oloadSpan c)) (slotTs img) (slotFmt img) (slotBlock img) (slotBscale img)) [c.f.d] r) ∧
  (∀ i f s c ads rows, IsRow i .aload f → matReady .aload f s = some c → noneLeft c = true → c.exec ≠ [] →
    (seen c).heldTile c.g.gid c.f.d = true → ((seen c).tile c.f.d).mode ≠ 0 →
    collectEach (c.exec.map fun t => (t, c.aloadAt c.f.d t)) = .ok ads →
    rowsOf (ads.map fun e => (e.1, c.aloadRow s e.2 ((seen c).tile c.f.d).n e.1)) = .ok rows →
    Answers (exec i s) fun r => quiet c r ∧ wentOn c r ∧ queued c (· = .aload c.f.d rows) [tileCode c.f.d] r) ∧
  (∀ i f s c, IsRow i .aread f → matReady .aread f s = some c → noneLeft c = true → c.exec ≠ [] →
    (seen c).heldTile c.g.gid c.f.a.num = true → ((seen c).tile c.f.a.num).mode ≠ 0 → colsOk c ((seen c).tile c.f.a.num).n = true →
    Answers (exec i s) fun r => quiet c r ∧ wentOn c r ∧
      queued c (· = .aread c.f.a.num (partOf c.f.v) (c.exec.map fun t => (t, col c ((seen c).tile c.f.a.num).n t)) c.f.d) [tileCode c.f.a.num] r) ∧
  (∀ i f s c l, IsRow i .adrain f → matReady .adrain f s = some c → noneLeft c = true → c.exec ≠ [] →
    (if c.f.v = 0 then l = [] else c.fetch s c.exec 1 (drainPieces c) = .ok l) → drainOk c (drainWords l) = true →
    let p := drainFull c (drainWords l)
    Answers (exec i s) fun r => quiet c r ∧ (guardOf c = none ∨ hasFault p.policy = false ∨ p.rq = true → wentOn c r) ∧
      queued c (fun x => ∃ seeds, x = .drain c.f.a.num c.f.d { p with seeds := seeds }) [tileCode c.f.a.num] r)

/-- R279: `awrite` (awrite) when the quad has no command in flight: in each executing thread's row the cell of its column takes the part it names;
every other cell of the tile, and everything else, is as it was. -/
def Sys2Proof.Claims.AccumulatorsWritten : Prop :=
  ∀ i f s c, IsRow i .awrite f → matReady .awrite f s = some c → (quadOf c).cmds = [] → s.issue.pfx.guard = none → c.exec ≠ [] →
    let q := quadOf c
    let t := q.tile c.f.d
    let p := partOf c.f.v
    t.holder = some c.g.gid → t.mode ≠ 0 → (t.mode = 1 → p = .lo ∨ p = .flg) → t.n ≤ 64 → colsOk c t.n = true → constOk c c.f.a = true →
    Answers (exec i s) fun (r : State) => quiet c r ∧ wentOn c r ∧ (∃ u : Tile, r.quad c.g.quadNo = q.setTile c.f.d u ∧
      u = { t with cells := u.cells } ∧ ∀ a b, b < 64 → u.cell a b =
        if a ∈ c.exec ∧ b = col c t.n a then (t.cell a b).write p (decide (t.mode = 1)) ((wordA c a).setWidth 32) else t.cell a b)

/-- R284, R285, R249, R250: `mwaitq` (mwaitq) goes on when none of the group's commands on the handle is outstanding and else waits for them; `mstat`
(mstat) puts the handle's record into a scalar. -/
def Sys2Proof.Claims.MatrixWaits : Prop :=
  (∀ i f s c, IsRow i .mwaitq f → oneGroup s f = some c → s.issue.pfx.rep = none →
    let l := ((quadOf c).cmds.filter fun x => x.gid == c.g.gid && (c.f.a.num == 0x7F || x.handles.contains c.f.a.num)).map (·.cid)
    exec i s = .next (groupsAfter s f fun c g =>
      { g with
        threads := g.threads.mapIdx fun tid t =>
          if c.tids.contains tid then
            (if l.isEmpty then stepOn c (s.core c.g.coreNo).cycles tid t else { t with status := .matrix l s.issue.npc })
          else t })) ∧
  (∀ i f s c, IsRow i .mstat f → matReady .mstat f s = some c →
    let h := c.f.a.num
    let x : Nat := if h < 0x40 then s.slotRecord ((seen c).slot h) else s.tileRecord ((seen c).tile (h - 0x40)) / 2 ^ (64 * c.f.b.num)
    exec i s = .next (groupAfter s f fun c g => scalarWrite c c.f.d (BitVec.ofNat 64 x) g))

/-- R245, R260, R261, R263, R264 and R275: what a pass leaves in a tile. Each cell of a row of the pass's threads, and of a column below N, has the
product sum added, clamped or pinned as its mode says; every other cell, and the tile's record, is as it was. -/
def Obligations.PassArithmetic : Prop :=
  ∀ (t : Tile) (k : PassKind) (sa sb : Slot) (tids : List Nat), tids.Nodup → t.n ≤ 64 → ((∃ a b, k = .cplx a b) → t.n % 2 = 0) →
    ∃ cells, t.pass k sa sb tids = { t with cells := cells } ∧
      ∀ i j, j < 64 → (t.pass k sa sb tids).cell i j = if i ∈ tids ∧ j < t.n then cellAfter t k sa sb i j else t.cell i j

/-- R246, R256, R271, R275, R279, R280 and R283: PASS_GRANT, PASS_COMPLETE, PRIORITY_RISE, OLOAD_COMPLETE, ALOAD_COMPLETE, AREAD_COMPLETE and DRAIN_COMPLETE
(passGrant, passComplete, priorityRise, oloadComplete, aloadComplete, areadComplete, drainComplete). The arbiter grants the first of the highest
priority; the command whose turn it is takes effect on its slot or tile, or writes its threads' registers, and leaves the quad; then the commands
behind it that take effect at once do, and the threads that waited go on. -/
def Obligations.MatrixEngineSteps : Prop :=
  (∀ (s : State) n x, (s.quad n).winner = some x →
    exec (.passGrant n) s = .next ((s.setQuad n { s.quad n with
      cmds := (s.quad n).cmds.map fun y => if y.cid = x.cid then { y with granted := some s.fresh } else y }).bump)) ∧
  (∀ (s : State) n x, (s.quad n).firstGranted = some x →
    exec (.passComplete n) s = .next ((s.setQuad n ((x.op.mark x.gid (x.op.data x.tids (s.quad n))).dropCmd x.cid)).settleQuad n)) ∧
  (∀ (s : State) n k, exec (.priorityRise n k) s = .next (s.setQuad n { s.quad n with
    cmds := (s.quad n).cmds.map fun y => if y.cid = k ∧ y.op.isPass = true ∧ y.granted = none ∧ y.prio < 7 ∧
        y.entered + 1024 * (y.rises + 1) ≤ s.quadNow n then { y with prio := y.prio + 1, rises := y.rises + 1 } else y })) ∧
  (∀ (s : State) n k x, (s.quad n).ready? k MatOp.isOload = some x →
    exec (.oloadComplete n k) s = .next ((s.setQuad n ((x.op.mark x.gid (x.op.data x.tids (s.quad n))).dropCmd x.cid)).settleQuad n)) ∧
  (∀ (s : State) n k x, (s.quad n).ready? k MatOp.isAload = some x →
    exec (.aloadComplete n k) s = .next ((s.setQuad n ((x.op.mark x.gid (x.op.data x.tids (s.quad n))).dropCmd x.cid)).settleQuad n)) ∧
  (∀ (s : State) n k x t p cols d, (s.quad n).ready? k MatOp.isAread = some x → x.op = .aread t p cols d →
    exec (.areadComplete n k) s = .next ((((s.modGroup x.gid fun g => cols.foldl (fun g e =>
      g.modThread e.1 fun th => th.writeReg d ((((s.quad n).tile t).cell e.1 e.2).read p)) g).unpend x).setQuad n
        ((s.quad n).dropCmd x.cid)).settleQuad n)) ∧
  (∀ (s : State) n k x t p d rows, (s.quad n).ready? k MatOp.isDrain = some x → x.op = .drain t d p →
    x.tids.map (fun i => ((s.quad n).tile t).drainRow p i p.cols 0
      (match p.seeds.find? fun e => e.1 == i with
        | some e => e.2
        | none => 0)) = rows.map (fun (e : List Nat) => Except.ok e) →
    exec (.drainComplete n k) s = .next ((((s.modGroup x.gid fun g => (List.zip x.tids rows).foldl (fun g r =>
      g.modThread r.1 fun th => th.writeRegs d (packWords p.target.width r.2)) g).unpend x).setQuad n
        ((s.quad n).dropCmd x.cid)).settleQuad n))

/-- R249, R250, R279, R284, R285: `awrite`, `mwaitq` and `mstat` (awrite, mwaitq, mstat). -/
def Obligations.AccumulatorsAndWaits : Prop := AccumulatorsWritten ∧ MatrixWaits

end

/-! ### Synchronisation: semaphores, pigeonholes, messages, collectives -/

namespace Sys2Proof.Claims

open Sys2Proof Sys2Proof.Machine Sys2Proof.Safety

/-- A context of one group whose executing threads pass the register-range and routing checks and have nothing outstanding. -/
def syncReady (o : Op) (f : Fields) (s : State) : Option Ctx :=
  match oneGroup s f with
  | some c =>
    if s.issue.pfx.rep.isNone && c.exec.all fun t => isOk (c.precheck o t) && idleThread (c.th t) then some c else none
  | none => none
/-- The value that a check of a thread gives, where it passes. -/
def passed {α : Type} (x : Except TrapInfo α) : Option α :=
  match x with
  | .ok a => some a
  | .error _ => none
/-- A thread at the next unit. -/
def onward (c : Ctx) (t : Thread) : Thread := { t with pc := c.s.issue.npc, stamp := (c.s.core c.g.coreNo).cycles }
/-- A saturating unsigned sum of 32 bits (R349). -/
def satSum (a b : Word) : Word := if 2 ^ 32 ≤ a.toNat + b.toNat then 0xFFFFFFFF else a + b

end Sys2Proof.Claims

section
open Sys2Proof Sys2Proof.Machine Sys2Proof.Safety Sys2Proof.Claims

/-- R349, R350: `semsig`, `semwait` and `semrd` (semsig, semwait, semrd) of threads with nothing outstanding. A signal adds its increment, saturating, to
the die's semaphore and to no other; a wait goes on when the value has reached its threshold and else blocks, and threads of one tag of which some go
on and some block have tags of their own (DEDUCED, log 37); a read takes the value. -/
def Obligations.SemaphoreUnits : Prop :=
  (∀ i f s c t n inc, IsRow i .semsig f → syncReady .semsig f s = some c → c.exec = [t] → c.semArgs t = .ok (n, inc) →
    Answers (exec i s) fun (z : State) => z.mem = s.mem ∧ z.teams = s.teams ∧ z.sem c.g.die n = satSum (s.sem c.g.die n) inc ∧
      (∀ k, k ≠ 4096 * c.g.die + n → tget z.sems k 0 = tget s.sems k 0) ∧
      ∃ u : Thread, z.thread? c.g.gid t = some u ∧ u.v = (c.th t).v ∧ u.p = (c.th t).p ∧ u.ops = [] ∧ u.pc = s.issue.npc) ∧
  (∀ i f s c, IsRow i .semwait f → syncReady .semwait f s = some c → (c.exec.all fun t => isOk (c.semArgs t)) = true →
    exec i s = .next (s.splitEarly f <| executingAfter s f fun c tid t => match passed (c.semArgs tid) with
      | some x => if x.2.toNat ≤ (s.sem c.g.die x.1).toNat then onward c t else { t with status := .blocked (.sem x.1 x.2) s.issue.npc }
      | none => t)) ∧
  (∀ i f s c, IsRow i .semrd f → syncReady .semrd f s = some c → (c.exec.all fun t => isOk (c.semNo t)) = true →
    exec i s = .next (executingAfter s f fun c tid t => match passed (c.semNo tid) with
      | some n => onward c (t.writeReg c.f.d (s.sem c.g.die n))
      | none => t))

/-- R35, R36, R57, R353, R354: `post` and `collect` (post, collect) of threads with nothing outstanding. A post whose pigeonhole is not full goes on with
its item in flight, and one to a full pigeonhole blocks with it. A collector blocks, or has last post at once (its pair zero and its predicate true);
then the pigeonholes give what they hold to their blocked collectors, what is still to come is pending in the trick's other threads, and the machine
evaluates the conditions over waiting threads. Threads of one tag of which some go on and some block have tags of their own (DEDUCED, log 37). -/
def Obligations.PostAndCollect : Prop :=
  (∀ i f s c, IsRow i .post f → syncReady .post f s = some c → (c.exec.all fun t => isOk (c.postArgs t)) = true →
    exec i s = .next (State.settle (s.splitEarly f <| executingAfter s f fun c tid t => match passed (c.postArgs tid) with
      | some (h, x) =>
        if (c.l.hole h).items.length < 2 ^ (c.l.hole h).cap then
          onward c { t with
            ops := t.ops ++ [⟨t.seq, s.issue.id, .hole c.l.lid h, 0, 1, .item x, [], none, some 3, false, none, false, false⟩], seq := t.seq + 1 }
        else { t with status := .blocked (.post h x s.issue.id) s.issue.npc }
      | none => t))) ∧
  (∀ i f s c, IsRow i .collect f → syncReady .collect f s = some c → (c.exec.all fun t => isOk (c.collectArgs t)) = true → s.issue.lid = c.g.lid →
    exec i s = .next (State.settle (((executingAfter s f fun c tid t => match passed (c.collectArgs tid) with
      | some h =>
        if c.l.lastPost then
          { (t.writeRegs c.f.d [0, 0]).writePred (c.f.c.num % 8) true with
            status := .ready, pc := s.issue.npc, stamp := (s.core c.g.coreNo).cycles }
        else { t with status := .blocked (.collect h c.f.d (c.f.c.num % 8) s.issue.id) s.issue.npc }
      | none => t).serveHoles c.g.lid).pendTrick s f fun c => [c.f.d, c.f.d + 1, predReg (c.f.c.num % 8)]))) ∧
  (∀ (s : State) (l : Launch) h gid tid x items lane d p k npc (g : Group) (t : Thread), s.launch? l.lid = some l → (l.hole h).items = x :: items →
    h < l.holes.length → s.collectors l.lid h = [(lane, gid, tid)] → s.group? gid = some g → s.thread? gid tid = some t →
    t.status = .blocked (.collect h d p k) npc →
    ∃ z : State, s.giveItems l.lid h = z ∧ z.mem = s.mem ∧ (∃ m : Launch, z.launch? l.lid = some m ∧ (m.hole h).items = items) ∧
      ∃ u : Thread, z.thread? gid tid = some u ∧ u.status = .ready ∧ u.pc = npc ∧
        u.v = ((t.setReg d (x.setWidth 32)).setReg (d + 1) (x.extractLsb' 32 32)).v ∧ u.p = (t.setPred p false).p)

/-- R42, R355, R358, R394: `amsend` (amsend) blocks each executing thread with its message, and those whose messages are accepted go on; `coll` (coll) reads
its descriptor, gives the collective to the communication unit with the accesses of the group that are outstanding or stand at their units (R305, R342),
and goes on. -/
def Sys2Proof.Claims.MessagesIssued : Prop :=
  (∀ i f s c, IsRow i .amsend f → oneGroup s f = some c → s.issue.pfx.rep = none →
    (c.exec.all fun t => isOk (c.precheck .amsend t) && isOk (c.message t)) = true →
    let z := executingAfter s f fun c tid t => match passed (c.message tid) with
      | some x => { t with status := .blocked (.amsend x.2 x.1) s.issue.npc }
      | none => t
    exec i s = .next z.serveSenders) ∧
  (∀ i f s c bs, IsRow i .coll f → oneGroup s f = some c → s.issue.pfx.rep = none → c.exec ≠ [] → isOk (c.precheck .coll (nth c.exec 0 0)) = true →
    constOk c c.f.a = true → (got (c.sA .int 2)).toNat % 64 = 0 →
    c.fetch s [nth c.exec 0 0] 2 [((got (c.sA .int 2)).toNat, 64)] = .ok bs → collectiveOk s.boot.position bs.flatten = true →
    Answers (exec i s) fun (z : State) => z.mem = s.mem ∧ z.teams = s.teams ∧
      (∃ x : Collective, z.collectives = s.collectives ++ [x] ∧ x.gid = c.g.gid ∧ x.lid = c.g.lid ∧ x.die = c.g.die ∧ x.asid = c.l.asid ∧
        x.header = bs.flatten ∧ (∀ e, e ∈ x.before ↔ ∃ n t a, c.g.threads[n]? = some t ∧ a ∈ t.ops ∧ e = ⟨c.g.gid, n, a.seq⟩) ∧
        ∀ e, e ∈ x.parked ↔ ∃ n t r, c.g.threads[n]? = some t ∧ t.request? = some r ∧ e = (n, r.trick)) ∧
      ∀ t ∈ c.tids, s.issue.goes c.g.gid t = true → ∃ u : Thread, z.thread? c.g.gid t = some u ∧ u.v = (c.th t).v ∧ u.p = (c.th t).p ∧ u.pc = s.issue.npc)

/-- R42, R317, R346, R355: `amsend` (amsend) completes. The message of one executing thread that no fence holds, with room at its destination and no other
sender before it, is accepted: it is on its way, the thread goes on to the next unit with its registers as they were, and memory is as it was. -/
def Sys2Proof.Claims.MessageAccepted : Prop :=
  ∀ i f s c t k m, IsRow i .amsend f → oneGroup s f = some c → s.issue.pfx.rep = none → c.exec = [t] → isOk (c.precheck .amsend t) = true →
    c.message t = .ok (k, m) → s.canSend k m = true → (c.th t).holds = [] → s.senders = 0 →
    ∃ z : State, exec i s = .next z ∧ z.mem = s.mem ∧ z.teams = s.teams ∧ z.messagesOut = s.messagesOut ++ [⟨k, c.g.gid, t, m⟩] ∧
      (z.senders = 0) ∧ ∃ u : Thread, z.thread? c.g.gid t = some u ∧ u.v = (c.th t).v ∧ u.p = (c.th t).p ∧ u.stack = (c.th t).stack ∧
        u.status = .ready ∧ u.pc = s.issue.npc

/-- R317, R323, R358: `coll` (coll) completes. A descriptor that is aligned, readable and has only values that R358 gives is taken by the communication
unit, with what the group has outstanding; the group's threads go on, and memory is as it was. -/
def Sys2Proof.Claims.CollectiveStarted : Prop :=
  ∀ i f s c bs, IsRow i .coll f → oneGroup s f = some c → s.issue.pfx.rep = none → s.issue.only = none → c.exec ≠ [] →
    isOk (c.precheck .coll (nth c.exec 0 0)) = true → constOk c c.f.a = true → (got (c.sA .int 2)).toNat % 64 = 0 →
    c.fetch s [nth c.exec 0 0] 2 [((got (c.sA .int 2)).toNat, 64)] = .ok bs → collectiveOk s.boot.position bs.flatten = true →
    ∃ z x, exec i s = .next z ∧ z.collectives = s.collectives ++ [x] ∧ Collective.header x = bs.flatten ∧ x.gid = c.g.gid ∧ z.mem = s.mem ∧
      ∀ t ∈ c.tids, ∃ u : Thread, z.thread? c.g.gid t = some u ∧ u.v = (c.th t).v ∧ u.p = (c.th t).p ∧ u.stack = (c.th t).stack ∧ u.pc = s.issue.npc

end

/-! ### Bisection, traps and their return -/

namespace Sys2Proof.Claims

open Sys2Proof Sys2Proof.Machine Sys2Proof.Safety

/-- The operations that act in each executing thread alone, of classes 0, 1, 3 and 4. -/
def vecOps : List Op :=
  [.iadd, .isub, .ineg, .iabs, .imin, .imax, .iclamp, .imul, .imad, .isad, .idot, .icdot, .icmp, .isel, .iaddr, .and, .or, .xor, .andn, .orn, .not,
   .tlog, .shl, .shr, .rot, .bit, .bfld, .mov, .plog, .pcvt, .fadd, .fsub, .fmul, .ffma, .fmin, .fmax, .fcmp, .fsel, .fclass, .frnd, .fldexp, .ffrexp,
   .fdiv, .fsqrt, .fexp2, .flog2, .fsin, .fcos, .ftanh, .flogi, .frcp, .frsqrt, .cvt, .bdequant, .pack, .unpack, .srseed]

/-- A group that takes a trap of some threads at once: no trap of it is entered or handled and it is not halted, the pages of their records are present, its handler's
address is a landing in the launch's text (R440, R444), and none of the threads is in an evaluation. -/
def trapReady (s : State) (g : Group) (tids : List Nat) : Bool :=
  !g.handler && g.entering.isNone && !g.halted && distinct tids && decide (g.threads.length ≤ 64) &&
    (tids.all fun t => g.stackUp t recordOff && match g.threads[t]? with
      | some u => u.inv.isNone
      | none => false) &&
    match s.launch? g.lid with
    | some l => g.trapbase != 0 && (s.targetCause l g.trapbase true).isNone
    | none => false
/-- What a taken trap leaves (R440, R441): the group's trap registers and handler mode, and in each trapped thread the handler's address, its
record at 0x0FC0 of its stack's reserved bytes, and its registers as they were. -/
def entered (g : Group) (x : GroupTrap) (z : State) : Prop :=
  ∃ h : Group, z.group? g.gid = some h ∧ h.trapcause = x.cause.setWidth 32 ∧ h.trapinfo = x.info ∧ h.handler = true ∧ h.trapbase = g.trapbase ∧
    h.s = g.s ∧ h.g = g.g ∧ (∀ k < 64, h.trapmask.getLsbD k = true ↔ ∃ e ∈ x.threads, e.tid = k) ∧
    (∀ e l, x.threads = e :: l → h.trapepc = e.restart) ∧
    ∀ e ∈ x.threads, ∀ a : Thread, g.threads[e.tid]? = some a → ∃ b : Thread, h.threads[e.tid]? = some b ∧ b.pc = g.trapbase ∧ b.status = .ready ∧
      b.inHandler = true ∧ b.v = a.v ∧ b.p = a.p ∧ b.ret = a.ret ∧ b.stack = wrBytes a.stack 0x0FC0 e.entry

/-- Is every thread of trapmask at `tret` or gone, and some thread at `tret` (R185)? -/
def allReturn (g : Group) : Bool :=
  g.handler && ((List.range g.threads.length).any g.tretWaiting) &&
    (List.range g.threads.length).all fun i => !g.trapmask.getLsbD i || g.tretWaiting i || ((g.threads[i]?).map (·.exited)).getD true

/-- Eval(t, o) of R237 begins: the argument is Val(o), the thread stands at the routine's first instruction in a phase of its bisection, and its
predicates, brackets, return stack and iteration count are as they were. -/
def evaluates (t : Thread) (e : InvEval) (o : Int) (ph : InvPhase) (r : InvOut) (p : InvEval → Prop) : Prop :=
  r.2 = none ∧ r.1.pc = e.start ∧ r.1.v = t.v.set e.a (valOf e.pfx.dom o) ∧ r.1.p = t.p ∧ r.1.b = t.b ∧ r.1.ret = t.ret ∧ r.1.repctr = t.repctr ∧
    ∃ x : InvEval, r.1.inv = some x ∧ x.trial = o ∧ x.phase = ph ∧ x.done = false ∧ x.start = e.start ∧ x.pfx = e.pfx ∧ x.a = e.a ∧ x.d = e.d ∧ p x
/-- A stop point of R237 and R241, with the bracket and the iteration count that the evaluation leaves: the thread stands at its unit, or its
bisection goes on. -/
def stopPoint (t : Thread) (e : InvEval) (stop : Bool) (b : Bracket) (n : Nat) (r : InvOut) : Prop :=
  let u := { t.setBracket e.br b with repctr := n }
  if stop then r.2 = none ∧ r.1.pc = e.upc ∧ r.1.inv = none ∧ r.1.v = t.v ∧ r.1.p = t.p ∧ r.1.b = t.b.set e.br b ∧ r.1.repctr = n
  else r = (u.leavesValued e.upc e.br true).invNext e

end Sys2Proof.Claims

section
open Sys2Proof Sys2Proof.Machine Sys2Proof.Safety Sys2Proof.Claims

/-- R235 to R238: how the far `call` under INV (callFar) enters a bisection, and what each evaluation's value does. The target is the start of a listed
routine, and any other address is restricted. A NaN y misses; a valued bracket goes on from where it is; else the ends of A and D, in order, are
evaluated, and they trap where one is a NaN code. A NaN value or one out of order traps with its reason; the ends' values make the valued bracket
with iteration count 0; a middle whose value is y is the result, and another takes the place of the end on its side, and the count rises. -/
def Sys2Proof.Claims.BisectionPhases : Prop :=
  (∀ (c : Ctx) p t e y, c.invEntry p t = .ok (e, y) →
    (∃ r ∈ c.l.kernel.routines, (r.1.toNat : Int) = c.direct ∧ e.start = r.1) ∧ e.pfx = p ∧ e.d = c.f.d ∧ e.a = c.f.a.num ∧
      e.upc = c.s.issue.upc ∧ e.npc = c.s.issue.npc ∧ ∃ w : Dword, c.raw .bits 1 t c.f.b = .ok w ∧ y = w.setWidth 32) ∧
  (∀ (c : Ctx) p t, c.f.d < c.g.nregs → (∀ n, c.f.a = .vec n ∨ c.f.b = .vec n → n < c.g.nregs) →
    (∀ r ∈ c.l.kernel.routines, (r.1.toNat : Int) ≠ c.direct) → ∃ e : TrapInfo, c.invEntry p t = .error e ∧ e.cause = 0x0062) ∧
  (∀ (t : Thread) (e : InvEval) y,
    let d := e.pfx.dom
    (ordOf d y = none → t.invBegin e y = (t, some ⟨0x0060, 0, 0⟩)) ∧
    ∀ yo, ordOf d y = some yo →
      ((t.bracket e.br).st = 1 → t.invBegin e y = (t.leavesValued e.upc e.br true).invNext { e with y := yo, arg0 := t.reg e.a }) ∧
      ((t.bracket e.br).st ≠ 1 → (ordOf d (t.reg e.a) = none ∨ ordOf d (t.reg e.d) = none) → t.invBegin e y = (t, some ⟨0x0061, 2, 0⟩)) ∧
      ∀ p q, (t.bracket e.br).st ≠ 1 → ordOf d (t.reg e.a) = some p → ordOf d (t.reg e.d) = some q →
        evaluates t e (min p q) .endLo (t.invBegin e y) fun x => x.lo = min p q ∧ x.hi = max p q ∧ x.y = yo) ∧
  (∀ (t : Thread) (e : InvEval) stop,
    let r := t.invReturn e stop
    let b := t.bracket e.br
    let f := ordOf e.pfx.dom (t.reg e.a)
    (e.phase ≠ .mid → f = none → r = (t, some ⟨0x0061, 2, 0⟩)) ∧
    (e.phase = .mid → f = none → r = (t, some ⟨0x0061, 4, e.trial⟩)) ∧
    ∀ x, f = some x →
      (e.phase = .endLo → evaluates t e e.hi .endHi r fun k => k.flo = x ∧ k.lo = e.lo ∧ k.hi = e.hi ∧ k.y = e.y) ∧
      (e.phase = .endHi → e.key x < e.key e.flo → r = (t, some ⟨0x0061, 3, 0⟩)) ∧
      (e.phase = .endHi → e.key e.flo ≤ e.key x →
        stopPoint t e stop { st := 1, fhi := ordBits x, flo := ordBits e.flo, hi := ordBits e.hi, lo := ordBits e.lo } 0 r) ∧
      (e.phase = .mid → (e.key x < e.key (ordIn e.pfx.dom b.flo) ∨ e.key (ordIn e.pfx.dom b.fhi) < e.key x) →
        r = (t, some ⟨0x0061, 4, e.trial⟩)) ∧
      (e.phase = .mid → e.key (ordIn e.pfx.dom b.flo) ≤ e.key x → e.key x ≤ e.key (ordIn e.pfx.dom b.fhi) →
        (x = e.y → e.br < t.b.length → r.2 = none ∧ r.1.inv = none ∧ r.1.pc = e.npc ∧ r.1.repctr = 0 ∧
          r.1.v = t.v.set e.d (valOf e.pfx.dom e.trial) ∧ r.1.p = t.p ∧
          r.1.b = t.b.set e.br { st := 2, fhi := ordBits e.y, flo := ordBits e.y, hi := ordBits e.trial, lo := ordBits e.trial }) ∧
        (x ≠ e.y → e.key x < e.key e.y → stopPoint t e stop { b with lo := ordBits e.trial, flo := ordBits x } (t.repctr + 1) r) ∧
        (x ≠ e.y → e.key e.y ≤ e.key x → stopPoint t e stop { b with hi := ordBits e.trial, fhi := ordBits x } (t.repctr + 1) r)))

/-- R235 to R238 and R241: the far `call` under INV (callFar), the `ret` that ends an evaluation (ret, retShort) and INV_ITERATION (invIteration). The call
starts or goes on with each thread's bisection; the `ret` marks the evaluations done; the iteration of a thread that evaluates alone takes f's value to the bracket, and goes on or finishes. From a valued bracket
the unit ends out of range, within the tolerance or at the limit, or evaluates the middle. -/
def Sys2Proof.Claims.BisectionSteps : Prop :=
  (∀ (g : LimmF) s p c (u : Nat → Thread), s.issue.pfx.inv = some p → oneGroup s g.fieldsFar = some c → s.issue.pfx.rep = none →
    (∀ t ∈ c.tids, ∃ e y, c.invEntry p t = .ok (e, y) ∧ (c.th t).invBegin e y = (u t, none)) →
    exec (.callFar g) s = .next (groupsAfter s g.fieldsFar fun c h =>
      { h with
        threads := h.threads.mapIdx fun tid t => if c.tids.contains tid then { u tid with stamp := (s.core c.g.coreNo).cycles } else t })) ∧
  (∀ i f s, IsRow i .ret f → s.issue.trick ≠ [] → (∀ e ∈ s.issue.trick, e.2 ≠ [] ∧ ∀ t ∈ e.2, s.inEval e.1 t = true) → trickOk s = true →
    s.issue.pfx.rep = none →
    exec i s = .next (executingAfter s f fun _ _ t => { t with inv := t.inv.map fun e => { e with done := true } })) ∧
  (∀ (s : State) gid tid (g : Group) (t u : Thread) e, s.group? gid = some g → g.threads[tid]? = some t → t.inv = some e → e.done = true →
    g.evalOf e.id = [(tid, t, e)] → t.invReturn e (s.stopsAt g t) = (u, none) → u.inv ≠ none →
    exec (.invIteration gid tid) s = .next (State.settle (s.modThread gid tid fun _ => { u with stamp := (s.core g.coreNo).cycles }))) ∧
  (∀ (s : State) gid tid (g : Group) (t u : Thread) e, s.group? gid = some g → g.threads[tid]? = some t → t.inv = some e → e.done = true →
    g.evalOf e.id = [(tid, t, e)] → t.invReturn e (s.stopsAt g t) = (u, none) → u.inv = none →
    ∃ n w, exec (.invIteration gid tid) s = .next (State.settle { s.modThread gid tid fun _ => { u with stamp := (s.core g.coreNo).cycles, tag := n } with
      fresh := w })) ∧
  (∀ (t : Thread) (e : InvEval),
    let b := t.bracket e.br
    let lo := ordIn e.pfx.dom b.lo
    let hi := ordIn e.pfx.dom b.hi
    let below := e.key e.y < e.key (ordIn e.pfx.dom b.flo)
    let above := e.key (ordIn e.pfx.dom b.fhi) < e.key e.y
    (below → e.pfx.clamp = true → t.invNext e = (t.invFinish e lo 3, none)) ∧
    (¬below → above → e.pfx.clamp = true → t.invNext e = (t.invFinish e hi 3, none)) ∧
    (below ∨ above → e.pfx.clamp = false → t.invNext e = (t, some ⟨0x0060, 1, 0⟩)) ∧
    (¬below → ¬above → hi - lo ≤ e.pfx.tol.toNat + 1 → t.invNext e = (t.invFinish e (closer e.pfx.dom b e.y) 2, none)) ∧
    (¬below → ¬above → e.pfx.tol.toNat + 1 < hi - lo → t.repctr = e.pfx.lim.toNat + 1 →
      t.invNext e = (t.invFinish e (closer e.pfx.dom b e.y) 3, none)) ∧
    (¬below → ¬above → e.pfx.tol.toNat + 1 < hi - lo → t.repctr ≠ e.pfx.lim.toNat + 1 → ∃ u : Thread, t.invNext e = (u, none) ∧ u.pc = e.start ∧
      u.v = t.v.set e.a (valOf e.pfx.dom (lo + (hi - lo) / 2)) ∧ u.p = t.p ∧ u.b = t.b ∧ u.ret = t.ret))

/-- R235 to R238 and R241: the far `call` under INV (callFar), the `ret` that ends an evaluation (ret, retShort) and INV_ITERATION (invIteration): the states
that they leave, and how a bisection begins, iterates, stops and ends. -/
def Obligations.Bisection : Prop := BisectionSteps ∧ BisectionPhases

/-- R46, R59, R163, R340, R347 and R440: traps are precise. A vector unit whose one executing thread fails the register-range or routing check, and a memory
unit whose request fails a check, change no register, no predicate and no byte of memory; the group enters the trap with the thread at its unit.
A register beyond the group's is code 0x20, a misaligned address 0x40 with the address. -/
def Obligations.PreciseTraps : Prop :=
  (∀ i o f s c t e, IsRow i o f → o ∈ vecOps → oneGroup s f = some c → c.exec = [t] → c.precheck o t = .error e → trapReady s c.g [t] = true →
    Answers (exec i s) fun (z : State) => z.mem = s.mem ∧ z.teams = s.teams ∧
      entered c.g ⟨e.cause, e.info, [⟨t, s.issue.upc, { e with flags := e.flags ||| 1 }⟩]⟩ z) ∧
  (∀ i o f s c t e, IsRow i o f → isMem o = true → newIssue s = true → oneGroup s f = some c → c.exec = [t] → c.resolved o (formOf o) t = .error e →
    (e.cause = 0x0044 → e.reason ≠ 4) → trapReady s c.g [t] = true →
    Answers (exec i s) fun (z : State) => z.mem = s.mem ∧ z.teams = s.teams ∧
      entered c.g ⟨e.cause, e.info, [⟨t, s.issue.upc, { e with flags := e.flags ||| 1 }⟩]⟩ z) ∧
  (∀ (c : Ctx) o t sh, shape o c.f = some sh → c.rangeOk sh = false → ∃ e, c.precheck o t = .error e ∧ e.cause = 0x0020) ∧
  (∀ (c : Ctx) o t va, c.precheck o t = .ok () → (o = .ld ∨ o = .lda) → c.loadAddr c.f.v.toNat t = .ok va → va.toNat % memBytes c.f.ty ≠ 0 →
    ∃ e, c.resolved o (formOf o) t = .error e ∧ e.cause = 0x0040 ∧ e.info = va ∧ e.address = va)

/-- R440, R441 and R185: a trap is entered once, by one rule, and `tret` (tret) returns from it. The entry saves the code, the information, the threads and
the restart offset in the group's registers and a record in each trapped thread's stack, and sends those threads to the handler's landing. In handler
mode `tret` makes its threads wait; outside it is an illegal instruction. When every trapped thread waits or has exited, each goes on at its resume
offset and handler mode ends. -/
def Obligations.TrapEntryAndReturn : Prop :=
  (∀ (s : State) (g : Group) id (x : GroupTrap), s.group? g.gid = some g → x.threads ≠ [] → trapReady s g (x.threads.map (·.tid)) = true →
    entered g x (s.raise g.gid id x) ∧ (s.raise g.gid id x).mem = s.mem ∧ (s.raise g.gid id x).teams = s.teams) ∧
  (∀ i f s c, IsRow i .tret f → oneGroup s f = some c → c.g.handler = true →
    exec i s = .next (State.settle (groupsAfter s f fun c h =>
      { h with
        threads := h.threads.mapIdx fun tid t => if c.tids.contains tid then { t with status := .blocked .tret s.issue.npc } else t }))) ∧
  (∀ i f s c, IsRow i .tret f → oneGroup s f = some c → c.g.handler = false →
    exec i s = .next (State.settle (s.unitTrap c c.tids (c.tids.map fun t => (t, c.illegal))))) ∧
  (∀ (s : State) (g : Group) l, s.group? g.gid = some g → s.launch? g.lid = some l → allReturn g = true → g.heldTraps = [] →
    (∀ t, g.tretWaiting t = true → s.targetCause l (State.resumeOff g t) false = none) →
    (s.tretRelease g.gid).mem = s.mem ∧ ∃ h : Group, (s.tretRelease g.gid).group? g.gid = some h ∧ h.handler = false ∧ h.s = g.s ∧
      ∀ t a, g.threads[t]? = some a → ∃ b : Thread, h.threads[t]? = some b ∧ b.v = a.v ∧ b.p = a.p ∧ b.stack = a.stack ∧ b.ret = a.ret ∧
        (g.tretWaiting t = true → b.pc = State.resumeOff g t ∧ b.status = .ready ∧ b.inHandler = false) ∧
        (g.tretWaiting t = false → b.pc = a.pc ∧ b.status = a.status))

end

/-! ### Steps of the part itself: threads, accesses, teams, pages -/

namespace Sys2Proof.Claims

open Sys2Proof Sys2Proof.Machine Sys2Proof.Safety

/-- The ready threads of the trick changed, and nothing else. -/
def trickThreads (s : State) (h : Group → Thread → Thread) : State :=
  { s with groups := s.groups.map fun g =>
      match s.issue.trick.find? fun e => e.1 == g.gid with
      | none => g
      | some e => { g with threads := g.threads.mapIdx fun tid t => if e.2.contains tid && (s.thread? g.gid tid).any Thread.ready then h g t else t } }
/-- The trick of the next repetition: its ready threads, save those that stop at the stop point (R78, R179). -/
def nextTrick (s : State) : List (Nat × List Nat) :=
  (s.stillIssuing.map fun e => (e.1, e.2.filter fun i => !s.stopsHere e.1 i)).filter fun e => !e.2.isEmpty
/-- One access that is performed by itself: nothing must be performed before it or with it, and its team is on its core. -/
def alone (s : State) (g : Group) (tid : Nat) (t : Thread) (a : Access) : Bool :=
  s.group? g.gid == some g && g.threads[tid]? == some t && (t.ops.find? fun o => o.seq == a.seq) == some a &&
    s.together g a == [(t.lane, ⟨g.gid, tid, a.seq⟩)] && s.canPerform a && !s.away g

end Sys2Proof.Claims

section
open Sys2Proof Sys2Proof.Machine Sys2Proof.Safety Sys2Proof.Claims

/-- R179: REP_REPETITION (repRepetition). The end of a repetition raises the counter of each thread of the trick; after the last the threads stand at the
next unit with counter 0, and before it the next repetition begins in those that do not stop. -/
def Obligations.Repetitions : Prop :=
  (∀ (s : State) p, s.issue.pfx.rep = some p → trickOk s = true → s.issue.rep = p.cnt.toNat →
    exec .repRepetition s = .next { trickThreads s fun g t =>
      { t with pc := s.issue.npc, stamp := (s.core g.coreNo).cycles, repctr := 0 } with issue := { s.issue with trick := [] } }) ∧
  (∀ (s : State) p, s.issue.pfx.rep = some p → trickOk s = true → s.issue.rep < p.cnt.toNat →
    exec .repRepetition s = .next (State.settle { trickThreads s fun _ t =>
      if t.repctr ≤ s.issue.rep then { t with repctr := s.issue.rep + 1 } else t with
        issue := { s.issue with rep := s.issue.rep + 1, trick := nextTrick s } }))

/-- R309, R310, R313, R341, R345: STORE_ACK and ACCESS_PERFORM (storeAck, accessPerform). A scratchpad store is performed at its bank by the first, a load, an
atomic, a `cas` or an arm by the second; then the machine evaluates the conditions over waiting threads. A performed access of a thread with no
other changes the bytes at its place as its operation says and no other byte, and writes its thread's registers from the bytes that stood there. An
access that waits at its unit and meets an uncorrectable word has the data-error trap and changes nothing. Results that come at another time than
those of the rest of a tag give its threads tags of their own (R25; DEDUCED, log 37). -/
def Obligations.AccessesPerformed : Prop :=
  (∀ (s : State) (g : Group) tid (t : Thread) (a : Access) pa, alone s g tid t a = true → a.place = .phys pa → a.op.isStore = true →
    isAperture pa = false → s.isTail a = false → a.guard = none →
    exec (.storeAck g.gid tid a.seq) s =
      .next (State.settle (((s.performAcc g.gid tid a.seq).retryStore g.gid tid).sendPeers))) ∧
  (∀ (s : State) (g : Group) tid (t : Thread) (a : Access) pa, alone s g tid t a = true → a.place = .phys pa → a.op.isStore = false →
    exec (.accessPerform g.gid tid a.seq) s =
      .next (State.settle ((((s.performAcc g.gid tid a.seq).retryStore g.gid tid).splitLoads a.trick
        (if a.reads then [(g.gid, tid, s.remote a.place g)] else [])).sendPeers))) ∧
  (∀ (s : State) (g : Group) tid (t : Thread) (a : Access) pa, s.group? g.gid = some g → g.threads[tid]? = some t → t.ops = [a] →
    a.place = .phys pa → (a.op.isStore || a.reads) = true → (a.reads = true → s.badAt pa a.size = false) →
    (s.performAcc g.gid tid a.seq).mem = memAfter s.mem pa a.size a.op ∧ (s.performAcc g.gid tid a.seq).teams = s.teams ∧
      ∃ u : Thread, (s.performAcc g.gid tid a.seq).thread? g.gid tid = some u ∧ u.v = regsAfter t.v a.op (rdBytes s.mem pa a.size) ∧ u.p = t.p ∧
        u.ops = []) ∧
  (∀ (s : State) (g : Group) tid (t : Thread) (a : Access) pa npc, s.group? g.gid = some g → g.threads[tid]? = some t → t.ops = [a] →
    a.place = .phys pa → a.reads = true → t.status = .access a.seq npc → s.badAt pa a.size = true → trapReady s g [tid] = true →
    (∀ k u, k ≠ tid → g.threads[k]? = some u → u.holdsFor a.trick = none) →
    let z := s.performAcc g.gid tid a.seq
    z.mem = s.mem ∧ z.teams = s.teams ∧
      entered g ⟨0x0045, a.va, [⟨tid, t.pc, TrapInfo.mk 0x0045 a.va 0 1 (s.faultWord g tid) a.va (BitVec.ofNat 64 pa) 0⟩]⟩ z)

/-- R26, R30, R171, R402, R414, R35, R81 and R82: JOIN_RELEASE, SPIN_FORCE, YIELD_EXPIRY, TAIL_POINTER_WRITE, ITEM_WRITTEN and ILLEGAL_INSTRUCTION (joinRelease, spinForce,
yieldExpiry, tailPointerWrite, itemWritten, illegalInstruction). -/
def Obligations.ThreadSteps : Prop :=
  (∀ (s : State) (g : Group) adr, s.group? g.gid = some g → g.joinReady adr = true →
    exec (.joinRelease g.gid adr) s = .next (State.settle (s.bump.modGroup g.gid fun h =>
      { h with
        threads := h.threads.map fun t => match t.status with
          | .join a _ npc =>
            if a = adr then
              { t.ordered (g.teamPending ((g.waitersAt adr).map (·.1))) with
                status := .ready, pc := npc, tag := s.fresh, stamp := (s.core g.coreNo).cycles }
            else t
          | _ => t }))) ∧
  (∀ (s : State) (g : Group) tid (t : Thread), s.group? g.gid = some g → g.threads[tid]? = some t → t.spin = 8 → t.forced = none → t.exited = false →
    exec (.spinForce g.gid tid) s = .next ((s.setCore g.coreNo { s.core g.coreNo with cycles := max (s.core g.coreNo).cycles (t.lastIssue + 4096) }).modThread
      g.gid tid fun t' => { t' with forced := some (t.lastIssue + 4096) })) ∧
  (∀ (s : State) (g : Group) tid (t : Thread) k, s.group? g.gid = some g → g.threads[tid]? = some t → t.yieldUntil = some k →
    exec (.yieldExpiry g.gid tid) s = .next ((s.setCore g.coreNo { s.core g.coreNo with cycles := max (s.core g.coreNo).cycles k }).modThread
      g.gid tid fun t' => { t' with yieldUntil := none })) ∧
  (∀ (s : State) (g : Group) tid (t : Thread) (a : Access) pa bs d, alone s g tid t a = true → a.place = .phys pa → a.op = .store bs →
    s.doorbell? pa a.size = some d →
    exec (.tailPointerWrite g.gid tid a.seq) s = .next (State.settle
      (let z := s.performTrick g.gid tid a.seq
       { z with posted := z.posted ++ if d.live then [(d.port, d.bus, BitVec.ofNat 32 (leNat bs))] else [] }))) ∧
  (∀ (s : State) (l : Launch) h x, s.launch? l.lid = some l → (firstInTrick (s.postsOut l.lid h)).filter Posted.free = [x] →
    (l.hole h).items.length < 2 ^ (l.hole h).cap →
    exec (.itemWritten l.lid h) s = .next (State.settle (State.dropGone (State.giveItems
      ((({ s with choices := s.choices + 1 }).modLaunch l.lid fun l => l.setHole h { l.hole h with items := (l.hole h).items ++ [x.item] }).postDone x)
        l.lid h)))) ∧
  (∀ (s : State) (g : Group) tids cause (word : Word), s.issue.trick = [(g.gid, tids)] → s.group? g.gid = some g → tids ≠ [] → trapReady s g tids = true →
    Answers (exec (.illegalInstruction cause word) s) fun z => z.mem = s.mem ∧ entered g ⟨cause, word.setWidth 64,
      tids.map fun t => ⟨t, s.issue.upc, { cause := cause, info := word.setWidth 64, flags := 1, word := word }⟩⟩ z)

/-- R33, R427, R429 and R430: what the completion of a launch does to its run. A failed one fails the run, which keeps the first failed node; another
lowers the counter of each successor in turn, and one that reaches zero is launched unless the run has failed. When no launch of the run is left, the run
completes with 0x24 and its first failed node, or, every node complete, with 0x00: the completion goes to the session that carried the command, and the
channels return. -/
def Sys2Proof.Claims.RunsGoOn : Prop :=
  (∀ (s : State) (l : Launch) r, s.run? l.run = some r →
    s.nodeDone l true = State.settleRun { s with
      launches := s.launches.filter fun k => k.lid != l.lid, frames := s.frames.filter fun f => !l.holeFrames.contains f,
      runs := s.runs.map fun x => if x.inst = l.run then { x with failed := true, firstFail := if x.failed then x.firstFail else l.node } else x }
        l.run) ∧
  (∀ (s : State) (l : Launch) r n, s.run? l.run = some r → nodeOf (s.graphOf r) l.node = some n →
    s.nodeDone l false = State.settleRun (n.succs.foldl (fun z k => z.dropPred l.run k) { s with
      launches := s.launches.filter fun k => k.lid != l.lid, frames := s.frames.filter fun f => !l.holeFrames.contains f,
      runs := s.runs.map fun x => if x.inst = l.run then { x with finished := x.finished ++ [l.node] } else x }) l.run) ∧
  (∀ (s : State) r n k, s.run? r.inst = some r → nodeOf (s.graphOf r) k = some n →
    let counts := tset r.counts k (tget r.counts k 0 - 1)
    let z : State := { s with runs := s.runs.map fun x => if x.inst = r.inst then { x with counts := tset x.counts k (tget x.counts k 0 - 1) } else x }
    s.dropPred r.inst k = if tget counts k 0 = 0 ∧ r.failed = false ∧ k ∉ r.launched then z.launchNode { r with counts := counts } n else z) ∧
  (∀ (s : State) r n o k, s.object? r.handle = some o → o.kernels[n.kernel]? = some k →
    (s.launchNode r n).runs = (s.runs.map fun x => if x.inst = r.inst then { x with launched := x.launched ++ [n.id] } else x) ∧
    ∃ l : Launch, (s.launchNode r n).launches = s.launches ++ [l] ∧ l.lid = r.inst * 1024 + n.id ∧ l.run = r.inst ∧ l.node = n.id ∧ l.kernel = k ∧
      l.home = o.home ∧ l.asid = u16 r.cmd 0xE ∧ l.holes = k.holes ∧ l.nextTeam = 0 ∧ l.lastPost = false ∧ l.failed = false) ∧
  (∀ (s : State) r, s.run? r.inst = some r → r.begun = true → (s.launches.all fun l => l.run != r.inst) = true →
    let done := (s.graphOf r).all fun n => r.finished.contains n.id
    (r.failed = true ∨ done = true →
      (s.settleRun r.inst).completions = s.completions ++ [(r.session, leBytes 1 (u8 r.cmd 0) ++ leBytes 1 (if r.failed then 0x24 else 0) ++
        leBytes 2 (u16 r.cmd 2) ++ leBytes 4 (u32 r.cmd 4) ++ leBytes 4 (if r.failed then r.firstFail else 0) ++ leBytes 4 0)] ∧
      (s.settleRun r.inst).runs = s.runs.filter (fun x => x.inst != r.inst) ∧
      ∀ d ∈ (s.settleRun r.inst).dies, ∀ c ∈ d.2.channels, c.2.owner ≠ some r.inst) ∧
    (r.failed = false → done = false → s.settleRun r.inst = s)) ∧
  (∀ (s : State) (l : Launch) r, s.run? r.inst = some r → l ∈ s.launches → l.run = r.inst → s.settleRun r.inst = s)

/-- R14, R17, R18, R21, R31 to R33, R40 to R44, R435: CONTEXT_FREE, GROUP_RETIRE, LAUNCH_COMPLETE, TEAM_ADMIT, ADMISSION_WAIT_LIMIT, MESSAGE_WHOLE and HANDLER_START
(contextFree, groupRetire, launchComplete, teamAdmit, admissionWaitLimit, messageWhole, handlerStart), and the registers of a thread that starts. A launch
whose pigeonholes still hold items fails, and the errors core has the launch and the counts (by letters: DESIGN CHOICE, log 12). The storage of
pigeonholes is carved from free frames as the first team is admitted (DESIGN CHOICE, log 24). -/
def Sys2Proof.Claims.TeamSteps : Prop :=
  (∀ (s : State) gid tid (t : Thread), s.thread? gid tid = some t → t.exited = true → t.freed = false → t.unacked = 0 →
    exec (.contextFree gid tid) s = .next ((s.modThread gid tid fun t => { t with freed := true }).dropGone)) ∧
  (∀ (s : State) (g : Group), s.group? g.gid = some g → g.retired = false → g.threads.all Thread.exited = true → s.granted g = false →
    exec (.groupRetire g.gid) s = .next (
      let s1 := s.dropGuarded g.gid
      let s2 := (s1.setQuad g.quadNo ((s1.quad g.quadNo).dropGroup g.gid)).settleQuad g.quadNo
      let s3 := s2.modGroup g.gid fun h =>
        { h with
          retired := true, s := List.replicate 64 0, g := List.replicate 16 0, pages := [], entering := none, heldTraps := []
          threads := h.threads.map fun t => { t with stack := [] } }
      let s4 := { s3.setCore g.coreNo { s3.core g.coreNo with faults := (s3.core g.coreNo).faults.filter fun e => e.stackOf != some g.gid } with
        frames := s3.frames.filter fun f => !(g.pages.any fun p => p.2 == f) }
      (((s4.retryFull g.coreNo).retireTeam g.tuid).dropGone).settle)) ∧
  (∀ (s : State) (l : Launch), s.launch? l.lid = some l → s.launchIdle l = true → (∀ h < l.holes.length, (l.hole h).items = []) →
    exec (.launchComplete l.lid) s = .next (s.nodeDone l l.failed)) ∧
  (∀ (s : State) (l : Launch), s.launch? l.lid = some l → s.launchIdle l = true →
    let left := (List.range l.holes.length).filter fun h => !(l.hole h).items.isEmpty
    left ≠ [] →
    exec (.launchComplete l.lid) s =
      .next ((s.report 2 8 (l.lid :: left.flatMap fun h => [h, (l.hole h).items.length])).nodeDone l true)) ∧
  (∀ (s z : State) (l : Launch) core places, s.launch? l.lid = some l → s.admitsNow l = true → s.roomFor l = some (core, places) →
    s.carveHoles l = some z →
    exec (.teamAdmit l.lid l.nextTeam) s = .next ((z.bump.startTeam
      (Team.start s.fresh l.lid (BitVec.ofNat 32 l.nextTeam) core l.kernel.paired (teamUnits l.kernel.teamSize)
        (wrBytes [] 0 (s.loadedBytes l.kernel.imageBase l.kernel.imageSize)) false)
      l.kernel.want places l.kernel.entry [] 0 0).modLaunch l.lid fun m =>
        { m with nextTeam := l.nextTeam + 1, waitSince := s.now, pressing := false })) ∧
  (∀ (s : State) (l : Launch), s.launch? l.lid = some l → s.mayPlace l = true → l.pressing = false →
    exec (.admissionWaitLimit l.lid l.nextTeam) s =
      .next ((s.atLeast (l.waitSince + 1000000)).modLaunch l.lid fun m => { m with pressing := true })) ∧
  (∀ (s : State) m e, (landsNext s.boot.position [] s.messagesOut).find? (fun e => e.m == m) = some e → (s.die m.die).messages.length < 256 →
    s.messageFault m = none →
    exec (.messageWhole m) s = .next (({ s with messagesOut := s.messagesOut.erase e }).setDie m.die
      { s.die m.die with messages := (s.die m.die).messages ++ [m] })) ∧
  (∀ (s : State) die m rest (l : Launch) h c p, (s.die die).messages = m :: rest → s.messageFault m = none → s.launch? m.lid.toNat = some l →
    l.kernel.handler m.handler = some h → s.handlerCore l die (l.handlerWant h) = some (c, p) → l.kernel.teams ≤ l.nextTeam →
    exec (.handlerStart die) s = .next (State.settle ((s.startHandler l m h c p).messageGone die m))) ∧
  (∀ gid tuid lid number team width nregs core ctx base regBase handler entry payload s0 s1 stamp tag i (t : Thread), payload.length ≤ nregs →
    (Group.start gid tuid lid number team width nregs core ctx base regBase handler entry payload s0 s1 stamp tag).threads[i]? = some t →
    t.lane = base + i ∧ t.pc = entry ∧ t.p = 1 ∧ t.ret = [] ∧ t.repctr = 0 ∧ t.status = .ready ∧ t.v.length = nregs ∧
      ∀ k, t.reg k = nth payload k 0)

/-- R14, R17, R18, R21, R31 to R33, R40 to R44, R427, R429, R430, R435: the events of teams, launches and messages, and what the completion of a launch does to
its run (R33, R430). The storage of pigeonholes is carved as the first team is admitted (DESIGN CHOICE, log 24). -/
def Obligations.TeamsAndMessages : Prop := TeamSteps ∧ RunsGoOn

/-- R295, R305, R306, R308, R405, R416, R465: FAULT_SERVICE and TABLE_CHANGE (faultService, tableChange). A page that the memory core maps leaves the buffer, and the requests
parked on it that its range allows are executed again with the same operands, while the others trap; a stack page stands on a zeroed frame of its core's
die, or its accesses trap (which of the two is the memory core's own choice, log 7); a change of a space writes its layout or a token, or its table when no access through the old entry is
outstanding and every bound function has answered its ATS Invalidate Request; until then it waits. A pinned page stays as it is, and of two changes
to the same bytes the later one waits (DESIGN CHOICE, log 25). -/
def Obligations.PagesAndTables : Prop :=
  (∀ (s z : State) core asid page e rng, (s.core core).faults.find? (fun e => e.asid == asid && e.page == page) = some e → e.stackOf = none →
    core < 768 →
    let hits := s.parkedOn core (s.onEntry e)
    s.verdict asid page (core / 64) (fun g => if hits.isEmpty then (if e.write then g.w else g.r) else hits.any (Parked.allowed g)) = .map z rng →
    exec (.faultService core asid page) s =
      .next (State.settle ((((z.dropFault core e).refuseThreads (hits.filter fun h => !h.allowed rng)).replayAll
        (hits.filter (Parked.allowed rng))).retryFull core))) ∧
  (∀ (s : State) core asid page e gid f, (s.core core).faults.find? (fun e => e.asid == asid && e.page == page) = some e → e.stackOf = some gid →
    s.freeFrame 0 (core / 64) = some f →
    let hits := s.parkedOn core (s.onEntry e)
    let refused := ((s.dropFault core e).refuseThreads hits).refuseRecord gid e.page
    exec (.faultService core asid page) s = .next (State.settle (State.retryFull (if Config.refuses s.frees then { refused with frees := refused.frees + 1 }
      else State.retryEntry (State.replayAll
        (((s.dropFault core e).zeroFrame f).modGroup gid fun g => { g with pages := g.pages ++ [(e.page % 16, f)] }) hits) gid) core))) ∧
  (∀ (s : State) x lo hi kind r w, 0 < x.asid → x.asid < 4096 → s.space? x.asid = some x →
    exec (.tableChange x.asid (.reserve lo hi kind r w)) s =
      .next (s.modSpace x.asid fun y => { y with layout := y.layout ++ [⟨lo, hi, kind, r, w⟩] })) ∧
  (∀ (s : State) x k tok, 0 < x.asid → x.asid < 4096 → s.space? x.asid = some x → k < 4096 →
    exec (.tableChange x.asid (.token k tok)) s = .next (s.modSpace x.asid fun y => { y with tokens := tset y.tokens k tok })) ∧
  (∀ (s z : State) x level va e, 0 < x.asid → x.asid < 4096 → s.space? x.asid = some x → level ≤ 3 → s.usesPage x.asid level va = false →
    s.pinnedIn x.asid (levelBase level va) (levelSpan level) = false → (s.shootdowns.all fun d => !d.meets x.asid level va) = true →
    ((s.entryNow x level va).getLsbD 0 = true → s.boundTo x.asid = []) → s.mapAt va.toNat e level 4 0 x.root = some z →
    exec (.tableChange x.asid (.entry level va e)) s = .next z) ∧
  (∀ (s : State) x level va e, 0 < x.asid → x.asid < 4096 → s.space? x.asid = some x → level ≤ 3 →
    s.pinnedIn x.asid (levelBase level va) (levelSpan level) = false → (s.shootdowns.all fun d => !d.meets x.asid level va) = true →
    (s.entryNow x level va).getLsbD 0 = true → s.boundTo x.asid ≠ [] →
    exec (.tableChange x.asid (.entry level va e)) s = .next { s with
      shootdowns := s.shootdowns ++ [⟨x.asid, level, va, e, s.boundTo x.asid, s.now, none⟩],
      answers := s.answers ++ (s.boundTo x.asid).map fun r =>
        .invalidate r x.asid (BitVec.ofNat 64 (va.toNat / 2 ^ (52 - 12 * level) * 2 ^ (52 - 12 * level))) (2 ^ (52 - 12 * level)) }) ∧
  (∀ (s : State) a rid, 0 < a → a < 4096 → exec (.tableChange a (.answered rid)) s = .next { s with shootdowns := answeredBy a rid s.shootdowns }) ∧
  (∀ (s z : State) x d, 0 < x.asid → x.asid < 4096 → s.space? x.asid = some x → (s.shootdowns.find? fun k => k.isOf x.asid d.level d.va d.e) = some d →
    (d.awaiting ≠ [] ∨ s.usesPage x.asid d.level d.va = true → exec (.tableChange x.asid (.entry d.level d.va d.e)) s = .next s) ∧
    (d.awaiting = [] → s.usesPage x.asid d.level d.va = false → d.frame = none → s.mapAt d.va.toNat d.e d.level 4 0 x.root = some z →
      exec (.tableChange x.asid (.entry d.level d.va d.e)) s = .next { z with shootdowns := z.shootdowns.erase d }))

end

/-! ### Copy engines and dealers -/

namespace Sys2Proof.Claims

open Sys2Proof Sys2Proof.Machine Sys2Proof.Safety

/-- A copy that stands in its channel at a phase, all of whose writes are acknowledged, and that is not squashed. -/
def copyAt (s : State) (die chan : Nat) (c : Copy) (p : CopyPhase) : Prop :=
  s.copy? die chan c.cid = some c ∧ c.phase = p ∧ c.quiet = true ∧ c.squashed = false
/-- The next copy of a channel may begin: none that has begun waits, and none of an earlier start is saved. Its template is read as it begins (R366). -/
def beginsAt (s : State) (die chan : Nat) (c : Copy) (l : Launch) : Prop :=
  (∀ x ∈ ((s.die die).channel chan).queue, x.phase ≠ .reading) ∧ ((s.die die).channel chan).next = some c ∧ s.copy? die chan c.cid = some c ∧
    s.launch? c.lid = some l ∧ s.savedBefore die chan c.cid = false ∧ c.ask = none ∧ c.squashed = false
def begun (s : State) (c : Copy) (l : Launch) : Copy := { c with phase := .reading, image := s.templateImage l c.template }
/-- A copy's phase set, and nothing else. -/
def atPhase (s : State) (die chan cid : Nat) (p : CopyPhase) : State := s.modCopy die chan cid fun c => { c with phase := p }

/-- The address of an element (R369): the base plus the element size times the sum of the indices' strides, modulo 2^64. -/
def elementAt (base e : Nat) (strides : List Int) (x : List Nat) : Nat :=
  (((base : Int) + e * ((List.zip strides x).map fun p => p.1 * (p.2 : Int)).sum) % (2 ^ 64 : Nat)).toNat
/-- The indices in the order in which they take the destination strides (R369): a transposing copy exchanges the two innermost ones. -/
def dstOrder (xf : Nat) (x : List Nat) : List Nat :=
  match x with
  | a :: b :: r => if xf = 1 then b :: a :: r else x
  | _ => x
/-- Produced elements of `e` bytes each that lie one behind the other from an address on. -/
def rowFrom (e b : Nat) (l : List Produced) : Prop :=
  0 < e ∧ l ≠ [] ∧ b + e * l.length ≤ 2 ^ 64 ∧ ∀ n x, l[n]? = some x → x.2.1 = b + e * n ∧ x.2.2.length = e
def rowData (l : List Produced) : List Byte := l.flatMap fun x => x.2.2

/-- A running dealer whose next micro-operation is `m` (R377 to R379). -/
def dealerAt (s : State) (core : Nat) (l : Launch) (m : MicroOp) (n : Nat) : Prop :=
  s.launch? (s.core core).dealer.lid = some l ∧ (s.core core).dealer.running = true ∧ s.microOp l (s.core core).dealer = .ok m ∧ m.mop = n
/-- The state with the dealer of a core changed, and nothing else; a dealer at its next micro-operation; one with a buffer or a register written. -/
def dealerNow (s : State) (core : Nat) (d : Dealer) : State := s.setCore core { s.core core with dealer := d }
def next1 (d : Dealer) : Dealer := { d with idx := d.idx + 1, asked := none, got := [] }
def withBuf (d : Dealer) (n : Nat) (ws : List Word) : Dealer := { d with e := d.e.set n ws }
def withReg (d : Dealer) (n : Nat) (x : Dword) : Dealer := { d with d := d.d.set n x }

end Sys2Proof.Claims

section
open Sys2Proof Sys2Proof.Machine Sys2Proof.Safety Sys2Proof.Claims

/-- R366, R369 to R371, R373, R374: what a copy that begins moves. There is one element for each index tuple, in ascending order with i0 fastest: its source
lies at the source base plus its indices' source strides, its destination at the destination base plus their destination strides, which a transposing
copy gives to the two innermost indices exchanged; a base-delta copy reads its elements from blocks of 32, and a converting one converts each. In memory
the writes stand in index order, so that a later element's byte stands. The checksum covers the destination rows from the lowest address up, rows of
equal addresses in index order, and each row's bytes in ascending address; the count is that of all bytes. -/
def Sys2Proof.Claims.CopyElements : Prop :=
  (∀ (ds : List Dim), (tuples ds).length = (ds.map Dim.extent).prod ∧
    ∀ n x, (tuples ds)[n]? = some x → x.length = ds.length ∧
      ∀ k d i, ds[k]? = some d → x[k]? = some i → i = n / ((ds.take k).map Dim.extent).prod % d.extent) ∧
  (∀ (s : State) (l : Launch) die (c : Copy) p se de,
    let t := c.tmpl
    t.sizes (c.img l) = some (se, de) → s.copyPlan l die c = .ok p →
    t.ok c.flags (c.img l) = true ∧ ∃ vs : List Nat × List (Place × Nat), s.copySource c.asid die t se c.srcBase c.got = .ok vs ∧
      vs.1.length = t.count ∧ p.items.length = t.count ∧
      ∀ (n : Nat) (x : List Nat) (v : Nat), (tuples t.used)[n]? = some x → vs.1[n]? = some v →
        ∃ w, (if t.xf = 3 then engConvert (c.img l) (se == 4) v = some w else w = v) ∧
          p.items[n]? = some (x, elementAt (t.dst + 64 * c.dstOff.toNat) de (t.used.map Dim.ds) (dstOrder t.xf x), leBytes de w)) ∧
  (∀ (s : State) asid die (t : Template) se sb got vs, t.xf ≠ 2 → s.copySource asid die t se sb got = .ok vs →
    ∀ (n : Nat) (x : List Nat), (tuples t.used)[n]? = some x → ∃ b : EngData,
      s.engRead asid die t.srcSp (elementAt sb se (t.used.map Dim.ss) x) se 3 5 got = .ok b ∧ vs.1[n]? = some (leNat b.1)) ∧
  (∀ (s : State) asid die (t : Template) se sb got, t.xf = 2 →
    s.copySource asid die t se sb got = s.readBlocks asid die t.srcSp se got (t.count / 32) sb) ∧
  (∀ (s : State) asid die sp e got n va (h : EngData), s.engRead asid die sp va 1 3 5 got = .ok h →
    let w := (nth h.1 0 0).toNat
    (w = 0 ∨ 16 < w → s.readBlocks asid die sp e got (n + 1) va = .error (.fail 7)) ∧
    ∀ (b : EngData) rest, 0 < w → w ≤ 16 → s.engRead asid die sp ((va + 1) % 2 ^ 64) (e + 4 * w) 3 5 got = .ok b →
      s.readBlocks asid die sp e got n ((va + 1 + e + 4 * w) % 2 ^ 64) = .ok rest →
      s.readBlocks asid die sp e got (n + 1) va = .ok ((List.range 32).map (fun k =>
        (((leNat (b.1.take e) : Int) + (BitVec.ofNat w (leNat (b.1.drop e) / 2 ^ (w * k))).toInt) % (2 ^ (8 * e) : Nat)).toNat) ++ rest.1,
          h.2 ++ b.2 ++ rest.2)) ∧
  (∀ (s : State) die chan (c : Copy) (p : CopyPlan), s.copy? die chan c.cid = some c →
    (∀ e ∈ p.places, ∃ pa n, e = [(.phys pa, n)] ∧ s.bridgeAt pa = none) →
    let z := s.writePlan die chan c.cid c.tmpl p
    z.mem = (List.zip p.items p.places).foldl (fun m e => match e.2 with
      | [(.phys pa, n)] => wrBytes m pa (e.1.2.2.take n)
      | _ => m) s.mem ∧
    ∃ k : Copy, z.copy? die chan c.cid = some k ∧ k.phase = .payload 0 ∧ k.crc = (if c.tmpl.crc then c.tmpl.checksum p.items else 0) ∧
      k.count = (p.items.map fun x => x.2.2.length).sum) ∧
  (∀ (t : Template) e b1 b2 r1 r2 l1 l2, rowFrom e b1 l1 → rowFrom e b2 l2 → r1 ≠ r2 → (∀ x ∈ l1, t.rowOf x.1 = r1) → (∀ x ∈ l2, t.rowOf x.1 = r2) →
    t.checksum l1 = crc32c (rowData l1) ∧
    t.checksum (l1 ++ l2) = crc32c (if b1 ≤ b2 then rowData l1 ++ rowData l2 else rowData l2 ++ rowData l1)) ∧
  (∀ (t : Template) x, t.rowOf x = (dstOrder t.xf x).drop 1)

/-- R291, R292, R365, R368, R373 to R375: COPY_ACCEPT, COPY_BEGIN, CHECKSUM_RECORD, POSTMARK, COPY_INCREMENT and DRAIN_LIMIT (copyAccept, copyBegin, checksumRecord, postmark,
copyIncrement, drainLimit). A channel with room takes a start store as its newest copy; a copy that begins moves its elements as its template says, or
stops with a status; then its record, its postmark and its increment follow in that order, and it leaves the channel. A postmark waits for the payload of
earlier copies to its destination, and the drain limit does not squash a copy that one which it waits for waits for (DEDUCED, log 35). The letter of a copy
that stops is as written here (DESIGN CHOICE, log 12). -/
def Sys2Proof.Claims.CopyEvents : Prop :=
  (∀ (s : State) gid tid seq (g : Group) t a pa bs l, s.startStore gid tid seq false = some (g, t, a, pa, bs) → s.launch? g.lid = some l →
    let d := s.die (apertureChannel pa).1
    let ch := d.channel (apertureChannel pa).2
    ch.queue.length < 16 →
    ∃ c : Copy, c.template = leNat bs % 65536 ∧ c.flags = BitVec.ofNat 16 (leNat bs / 65536) ∧ c.srcOff = BitVec.ofNat 32 (leNat bs / 2 ^ 64) ∧
      c.dstOff = BitVec.ofNat 32 (leNat bs / 2 ^ 96) ∧ c.lid = l.lid ∧ c.asid = l.asid ∧ c.phase = .queued ∧ c.guard = a.guard ∧
      c.number = (if a.guard.isNone then some (ch.seqno + 1) else none) ∧
      exec (.copyAccept gid tid seq) s = .next ((s.bump.setDie (apertureChannel pa).1 (d.setChannel (apertureChannel pa).2
        { ch with seqno := if a.guard.isNone then ch.seqno + 1 else ch.seqno, queue := ch.queue ++ [c] })).startDone g tid seq)) ∧
  (∀ (s : State) die chan c l p, beginsAt s die chan c l →
    let z := s.modCopy die chan c.cid fun _ => begun s c l
    z.copyPlan l die (begun s c l) = .ok p → z.mustWait l die chan (begun s c l) = false →
    exec (.copyBegin die chan) s = .next (z.writePlan die chan c.cid (begun s c l).tmpl p)) ∧
  (∀ (s : State) die chan c l n, beginsAt s die chan c l →
    let z := s.modCopy die chan c.cid fun _ => begun s c l
    z.copyPlan l die (begun s c l) = .error (.fail n) →
    exec (.copyBegin die chan) s = .next (z.stopCopy die chan c.cid n)) ∧
  (∀ (s : State) die chan c st, copyAt s die chan c (.payload st) → (st ≠ 0 ∨ c.tmpl.crc = false) →
    exec (.checksumRecord die chan c.cid) s = .next (atPhase s die chan c.cid (.record st))) ∧
  (∀ (s z : State) die chan c, copyAt s die chan c (.payload 0) → c.tmpl.crc = true →
    s.markWrite die chan c c.tmpl (c.tmpl.mark - 8)
      (leBytes 4 c.crc.toNat ++ leBytes 4 (c.count % 2 ^ 32)) = .ok z →
    exec (.checksumRecord die chan c.cid) s = .next (atPhase z die chan c.cid (.record 0))) ∧
  (∀ (s : State) die chan c st, copyAt s die chan c (.record st) → (c.tmpl.mark = 0 ∨ c.flags.getLsbD 0 = true) →
    exec (.postmark die chan c.cid) s = .next (atPhase s die chan c.cid (.mark st))) ∧
  (∀ (s z : State) die chan c st, copyAt s die chan c (.record st) → c.tmpl.mark ≠ 0 → c.flags.getLsbD 0 = false → s.markWaits die chan c = false →
    s.markWrite die chan c c.tmpl c.tmpl.mark
      (leBytes 8 ((c.number.getD 0).toNat + st.toNat * 2 ^ 48 + chan * 2 ^ 56)) = .ok z →
    exec (.postmark die chan c.cid) s = .next (atPhase z die chan c.cid (.mark st))) ∧
  (∀ (s : State) die chan c st, copyAt s die chan c (.record st) → c.tmpl.mark ≠ 0 → c.flags.getLsbD 0 = false → s.markWaits die chan c = true →
    exec (.postmark die chan c.cid) s = .next s) ∧
  (∀ (s : State) die chan c, copyAt s die chan c (.mark 0) →
    let t := c.tmpl
    let z := if t.inc = 0 || c.flags.getLsbD 1 then s else s.semAdd die t.sem t.inc
    exec (.copyIncrement die chan c.cid) s = .next (z.setDie die ((z.die die).setChannel chan
      { (z.die die).channel chan with queue := ((z.die die).channel chan).queue.filter fun x => x.cid != c.cid }))) ∧
  (∀ (s : State) (t : Team) due, s.team? t.tuid = some t → t.drainBy = some due →
    exec (.drainLimit t.tuid) s = .next (
      let z := s.atLeast due
      { z with dies := z.dies.map fun (d : Nat × Die) => (d.1, { d.2 with channels := d.2.channels.map fun (c : Nat × Channel) =>
          (c.1, { c.2 with queue := c.2.queue.map fun (x : Copy) =>
            if x.tuid = t.tuid ∧ x.active = true ∧ x.idem = true ∧ z.awaited d.1 c.2 x = false then { x with squashed := true, toSend := [] } else x }) }) })) ∧
  (∀ (s : State) die chan c st n, copyAt s die chan c (.record st) → c.tmpl.mark ≠ 0 → c.flags.getLsbD 0 = false → s.markWaits die chan c = false →
    s.markWrite die chan c c.tmpl c.tmpl.mark
      (leBytes 8 ((c.number.getD 0).toNat + st.toNat * 2 ^ 48 + chan * 2 ^ 56)) = .error (.fail n) →
    exec (.postmark die chan c.cid) s = .next (atPhase s die chan c.cid (.mark (if st = 0 then BitVec.ofNat 8 n else st)))) ∧
  (∀ (s : State) die chan c st, copyAt s die chan c (.mark st) → st ≠ 0 →
    let t := c.tmpl
    let y := if t.inc = 0 || c.flags.getLsbD 1 then s else s.semAdd die t.sem t.inc
    let z := y.report 2 4 [c.lid, chan, (c.number.getD 0).toNat, st.toNat]
    exec (.copyIncrement die chan c.cid) s = .next (z.setDie die ((z.die die).setChannel chan
      { (z.die die).channel chan with queue := ((z.die die).channel chan).queue.filter fun x => x.cid != c.cid })))

/-- R291, R292, R365, R366, R368 to R371, R373 to R375: the steps of a copy (copyAccept, copyBegin, checksumRecord, postmark, copyIncrement, drainLimit), and
what its elements, its checksum and its count are. -/
def Obligations.CopySteps : Prop := CopyEvents ∧ CopyElements

/-- R376 to R381: DEALER_START and the eighteen micro-operations (dealerStart, mopHalt, mopGet, mopGets, mopPutm, mopPut, mopExpand, mopCvtn, mopCvtw, mopTr8,
mopCopy, mopMovi, mopAddi, mopLdk, mopLoop, mopJmp, mopSemw, mopSig, mopFence): the buffers, registers and index of the core's dealer, the bytes or
the chute entry that it writes, the ownership of the chutes that a start takes, and the fault of a word that is no micro-operation, which is
the row MOP_HALT (DESIGN CHOICE, log 19). -/
def Obligations.DealerOperations : Prop :=
  (∀ (s : State) gid tid seq (g : Group) t a pa bs, s.startStore gid tid seq true = some (g, t, a, pa, bs) → (s.core g.coreNo).takes g.lid = true →
    a.guard = none → exec (.dealerStart gid tid seq) s = .next (((s.setCore g.coreNo { s.core g.coreNo with
      failed := false
      dealer := Dealer.start g.lid g.tuid (leNat bs % 65536) (BitVec.ofNat 64 (leNat bs / 2 ^ 64 % 2 ^ 32))
        (BitVec.ofNat 64 (leNat bs / 2 ^ 96 % 2 ^ 32)) }).ownChutes g.coreNo g.lid).startDone g tid seq)) ∧
  (∀ (s : State) core l m, dealerAt s core l m 0 → exec (.mopHalt core) s = .next (dealerNow s core { (s.core core).dealer with running := false })) ∧
  (∀ (s : State) core l r, s.launch? (s.core core).dealer.lid = some l → (s.core core).dealer.running = true →
    s.microOp l (s.core core).dealer = .error r → exec (.mopHalt core) s = .next (s.dealerFault core r)) ∧
  (∀ (s : State) core l m (x : EngData), dealerAt s core l m 1 →
    s.dealerRead l.asid (core / 64) (s.core core).dealer m.f ((s.core core).dealer.addr m) 256 = .ok x →
    exec (.mopGet core) s =
      .next (dealerNow (s.engMarks (core / 64) x.2) core (next1 (withBuf (s.core core).dealer m.x (wordsOf x.1))))) ∧
  (∀ (s : State) core l m (xs : List EngData), dealerAt s core l m 2 → s.dealerGather l.asid (core / 64) (s.core core).dealer m = .ok xs →
    exec (.mopGets core) s = .next (dealerNow (s.engMarks (core / 64) (xs.flatMap fun x => x.2)) core
      (next1 (withBuf (s.core core).dealer m.x (xs.map fun x => BitVec.ofNat 32 (leNat x.1)))))) ∧
  (∀ (s : State) core l m ps, dealerAt s core l m 3 → s.engPlaces l.asid (core / 64) 0 ((s.core core).dealer.addr m) 256 3 true = .ok ps →
    exec (.mopPutm core) s =
      .next (dealerNow (s.engWrite ps (bytesOfWords ((s.core core).dealer.buf m.x))) core (next1 (s.core core).dealer))) ∧
  (∀ (s : State) core l m, dealerAt s core l m 4 → ((s.core core).chute m.f).length < 64 →
    exec (.mopPut core) s = .next ((s.setCore core { s.core core with
      chutes := (s.core core).chutes.set m.f ((s.core core).chute m.f ++ [(s.core core).dealer.buf m.x])
      dealer := next1 (s.core core).dealer }).serveChute core m.f 128)) ∧
  (∀ (s : State) core l m ws n, dealerAt s core l m 5 → expandTwo (bytesOfWords ((s.core core).dealer.buf m.y)) = some (ws, n) →
    exec (.mopExpand core) s = .next (dealerNow s core (next1 (withReg (withBuf (s.core core).dealer m.x ws) m.a
      ((s.core core).dealer.reg m.a + BitVec.ofNat 64 n))))) ∧
  (∀ (s : State) core l m ws, dealerAt s core l m 6 → narrowBuf (nth l.kernel.slots m.f 0) ((s.core core).dealer.buf m.y) = some ws →
    exec (.mopCvtn core) s = .next (dealerNow s core (next1 (withBuf (s.core core).dealer m.x ws)))) ∧
  (∀ (s : State) core l m ws, dealerAt s core l m 7 → widenBuf (nth l.kernel.slots m.f 0) ((s.core core).dealer.buf m.y) = some ws →
    exec (.mopCvtw core) s = .next (dealerNow s core (next1 (withBuf (s.core core).dealer m.x ws)))) ∧
  (∀ (s : State) core l m, dealerAt s core l m 8 → ∃ ws, ws.length = 64 ∧
    exec (.mopTr8 core) s = .next (dealerNow s core (next1 (withBuf (s.core core).dealer m.x ws))) ∧
      ∀ r c, r < 8 → c < 8 → nth ws (8 * r + c) 0 = nth ((s.core core).dealer.buf m.y) (8 * c + r) 0) ∧
  (∀ (s : State) core l m, dealerAt s core l m 9 →
    exec (.mopCopy core) s = .next (dealerNow s core (next1 (withBuf (s.core core).dealer m.x ((s.core core).dealer.buf m.y))))) ∧
  (∀ (s : State) core l m, dealerAt s core l m 10 →
    exec (.mopMovi core) s = .next (dealerNow s core (next1 (withReg (s.core core).dealer m.a (m.imm.signExtend 64))))) ∧
  (∀ (s : State) core l m, dealerAt s core l m 11 →
    exec (.mopAddi core) s =
      .next (dealerNow s core (next1 (withReg (s.core core).dealer m.a ((s.core core).dealer.reg m.a + m.imm.signExtend 64))))) ∧
  (∀ (s : State) core l m, dealerAt s core l m 12 → m.imm.toNat + 1 < l.kernel.constCount →
    s.constBad l m.imm.toNat = false → s.constBad l (m.imm.toNat + 1) = false →
    exec (.mopLdk core) s = .next (dealerNow s core (next1 (withReg (s.core core).dealer m.a
      (s.constWord l (m.imm.toNat + 1) ++ s.constWord l m.imm.toNat))))) ∧
  (∀ (s : State) core l m, dealerAt s core l m 13 →
    let d := withReg (s.core core).dealer m.a ((s.core core).dealer.reg m.a - 1)
    exec (.mopLoop core) s = .next (dealerNow s core (if (s.core core).dealer.reg m.a = 1 then next1 d else { d with idx := m.imm.toNat }))) ∧
  (∀ (s : State) core l m, dealerAt s core l m 14 →
    exec (.mopJmp core) s = .next (dealerNow s core { (s.core core).dealer with idx := m.imm.toNat })) ∧
  (∀ (s : State) core l m, dealerAt s core l m 15 →
    exec (.mopSemw core) s = .next (if ((s.core core).dealer.reg m.a).toNat % 2 ^ 32 ≤ (s.sem (core / 64) m.imm.toNat).toNat
      then dealerNow s core (next1 (s.core core).dealer) else s)) ∧
  (∀ (s : State) core l m, dealerAt s core l m 16 →
    exec (.mopSig core) s = .next (dealerNow (s.semAdd (core / 64) m.imm.toNat (((s.core core).dealer.reg m.a).toNat % 2 ^ 32)) core
      (next1 (s.core core).dealer))) ∧
  (∀ (s : State) core l m, dealerAt s core l m 17 → exec (.mopFence core) s = .next (dealerNow s core (next1 (s.core core).dealer)))

end

/-! ### The fabric and collectives -/

namespace Sys2Proof.Claims

open Sys2Proof Sys2Proof.Machine Sys2Proof.Safety

/-- A port's place in the wiring (R384): the peer at offset `o`, of the `k` ports of that peer the one numbered `i`. -/
def wired (n p o i : Nat) : Prop := 2 ≤ n ∧ 1 ≤ o ∧ o < n ∧ i < 48 / (n - 1) ∧ p = 48 / (n - 1) * (o - 1) + i
/-- A port changed, and nothing else. -/
def portNow (s : State) (p : Nat) (x : Port) : State := { s with ports := tset s.ports p x }
/-- A flit that leaves a port under its next count (R386, R388): it acknowledges the last flit that the port received in order. -/
def flitLeaves (s : State) (p : Nat) (kind : BitVec 4) (seq : BitVec 12) (body : FlitBody) : State := { s with
  ports := tset s.ports p { s.port p with count := (s.port p).count + 1 }
  flitsOut := s.flitsOut ++ [(p, ⟨seq, (s.port p).rxSeq - 1, kind, body,
    BitVec.ofNat 4 s.boot.position ++ BitVec.ofNat 4 ((s.portPeer p).getD 0) ++ BitVec.ofNat 8 p ++ (s.port p).gen ++ BitVec.ofNat 64 (s.port p).count,
    (s.port p).secret⟩)] }
/-- Flits of a replay buffer that are sent again, each under a new count (R387). -/
def flitsAgain (s : State) (p : Nat) (l : List SentFlit) : State := l.foldl (fun acc e => flitLeaves acc p 0 e.seq e.body) s
/-- A port that leaves service: its flits that are not acknowledged are dropped, and the network core has a letter (R387); those that no end-to-end
recovery sends again go by another port (DEDUCED, log 13). -/
def portLost (s : State) (p : Nat) : State :=
  ((s.port p).replay.filter fun e => !e.body.recovers).foldl (fun acc e => acc.pushTo (p / 4) e.dest e.body)
    ((portNow s p { s.port p with trained := false, replay := [], retrain := true }).send 4 5 (Config.letterKind 22) (leBytes 8 p))
/-- A port that has a flit more under its partner's key (R388). -/
def flitCounted (s : State) (p : Nat) : State := portNow s p { s.port p with rxCount := (s.port p).rxCount + 1 }
/-- A flit that a trained port receives, with its link header's fields (R386), and a count left for an answer (R389). -/
def flitComes (s : State) (p : Nat) (f : List Byte) : Prop := (s.port p).trained = true ∧ f.length = 128 ∧ (s.port p).count ≤ 2 ^ 64 - 2
def seqOf (f : List Byte) : BitVec 12 := BitVec.ofNat 12 (le f 0 8 / 2 ^ 52)
def ackOf (f : List Byte) : BitVec 12 := BitVec.ofNat 12 (le f 0 8 / 2 ^ 40)
def kindOf (f : List Byte) : Nat := le f 0 8 / 2 ^ 36 % 16
def crcGood (f : List Byte) : Prop := (crc32c (f.take 124)).toNat = le f 124 4
/-- A good flit of a kind, with its body, that acknowledges nothing which the port still holds. -/
def goodFlit (s : State) (p : Nat) (f : List Byte) (kind : Nat) (body : List Byte) : Prop :=
  flitComes s p f ∧ crcGood f ∧ s.openFlit p f = some body ∧ kindOf f = kind ∧ ∀ e ∈ (s.port p).replay, e.seq ≠ ackOf f
/-- The port once a data flit has come in order: it expects the next, and has acknowledged this one. -/
def flitTaken (s : State) (p : Nat) : State :=
  flitLeaves (portNow (flitCounted s p) p { (flitCounted s p).port p with rxSeq := (s.port p).rxSeq + 1 }) p 2 0 .control
/-- The first check that fails, of a list in order. -/
def firstFailure : List (Bool × BitVec 8) → Option (BitVec 8)
  | [] => none
  | (b, n) :: r => if b then some n else firstFailure r
/-- The checks that need no translation, in the order of R397: the token's code, its entry, its source, its age, its right, its range. -/
def ingressChecks (s : State) (r : PeerRequest) : List (Bool × BitVec 8) :=
  let tk := r.token
  let w : BitVec 128 := tget s.windows (tk.extractLsb' 0 20).toNat 0
  let rights : BitVec 8 := tk.extractLsb' 32 8 &&& w.extractLsb' 115 8
  let msg : Dword := BitVec.ofNat 64 ((tk.extractLsb' 0 40).toNat + 2 ^ 40 * r.srcModule + 2 ^ 44 * s.boot.position)
  [((sipHash24 (Config.tokenKey s.boot.keyDraw r.srcModule) msg).extractLsb' 0 24 != tk.extractLsb' 40 24, 1),
   (16384 ≤ (tk.extractLsb' 0 20).toNat || w.getLsbD 127 == false, 2),
   ((w.extractLsb' 123 4).toNat != r.srcModule, 3),
   (tk.extractLsb' 20 12 != 0xFFF &&
     (tk.extractLsb' 20 12).toNat ≤ ((BitVec.ofNat 28 (s.tokenClock / 2 ^ 24)) - w.extractLsb' 75 28 : BitVec 28).toNat, 4),
   (rights.getLsbD (match r.op with | .load => 0 | .store _ => 1 | .arm => 3 | _ => 2) == false, 5),
   ((w.extractLsb' 48 27).toNat * 65536 < r.offset + r.len, 6)]
def isMessage (o : PeerOp) : Bool :=
  match o with
  | .message _ => true
  | _ => false
/-- A request from another module of the cluster. -/
def fromPeer (s : State) (r : PeerRequest) : Prop := r.srcModule ≠ s.boot.position ∧ r.srcModule < s.boot.n ∧ r.srcDie < 12
/-- The responses that stay kept once a source says which it has (R392). -/
def keptAfter (t : TargetPair) (acked : Word) : TargetPair := { t with kept := t.kept.filter fun k => 2 ^ 31 ≤ (acked - k.1).toNat }
/-- A response to a request: neither a word that wakes an arm nor a credit that comes back. -/
def answersRequest (r : PeerResponse) : Prop :=
  match r with
  | .wake | .credit _ => False
  | _ => True
/-- A request of a pair that is still outstanding. -/
def outstanding (s : State) (die peer : Nat) (o : OutReq) : Prop := (s.pair die peer).out.find? (fun x => x.seq == o.seq) = some o
/-- The pair without a request. -/
def requestOver (s : State) (die peer : Nat) (seq : Word) (failed : Bool) : State :=
  s.setPair die peer { s.pair die peer with out := (s.pair die peer).out.filter fun x => x.seq != seq, failed := failed }

/-- Every other participant of a collective has issued under its id, and the group's earlier accesses are performed (R323, R359); `mark` is
where its postmark stands, if it has one. -/
def collectiveReady (s : State) (x : Collective) (peers : List PeerSource) (mark : List (Place × Nat)) : Prop :=
  s.collectives.find? (fun y => y.uid == x.uid) = some x ∧ s.groupDone x = true ∧ x.stopped = false ∧
    sortBy (fun a b => a < b) (peers.map (·.module)) = (Coll.of x.header).members.filter (fun m => m != s.boot.position) ∧
    (∀ p ∈ peers, u32 p.header 8 = u32 x.header 8) ∧
    (u64 x.header 0x28 = 0 ∧ mark = [] ∨ u64 x.header 0x28 ≠ 0 ∧ s.named x.asid x.die (u64 x.header 0x28) 8 true = .ok mark)
/-- A collective that is over with a status: its postmark, then its increment (R359). -/
def collectiveOver (s : State) (x : Collective) (st : Nat) (mark : List (Place × Nat)) : State :=
  let z := (s.engWrite mark (leBytes 8 (u32 x.header 8 + st * 2 ^ 48 + 0xFF * 2 ^ 56))).semAdd x.die (u16 x.header 0x20) (u16 x.header 0x22)
  ({ z with collectives := z.collectives.filter fun y => y.uid != x.uid } : State).settle
/-- The sources of a collective in ascending module order, and what the module's destination receives from them. -/
def collectiveOut (s : State) (x : Collective) (own : List Byte) (peers : List PeerSource) : List Byte :=
  ((Coll.of x.header).result s.boot.position (sortBy (fun a b => a.1 < b.1) ((s.boot.position, own) :: peers.map fun p => (p.module, p.bytes)))).flatMap
    fun v => leBytes (Coll.of x.header).bytes v

end Sys2Proof.Claims

section
open Sys2Proof Sys2Proof.Machine Sys2Proof.Safety Sys2Proof.Claims

/-- R384, R386 to R390: LINK_TRAINING, FLIT_RECEIVE, REPLAY_REQUEST, LINK_REPLAY_TIMEOUT, KEY_EXHAUSTED and DETOUR_INSTALL (linkTraining, flitReceive,
replayRequest, linkReplayTimeout, keyExhausted, detourInstall). A trained port starts anew under the secret that its exchange has agreed, which needs a
point of the curve signed by its partner; a flit that is sealed under a key opens under it with its body as it was; a bad flit is asked for again by its
number; a data flit in order is acknowledged, and a relay forwards it or drops and counts it. That an idle flit acknowledges at once, when a port
switches its key, that it does so only while a generation is left, and how a body names a request or a response are the model's choice (DESIGN CHOICE, log 21); the
letter of a port that is lost is as written here (DESIGN CHOICE, log 12), and what no recovery sends again goes by another port (DEDUCED, log 13). -/
def Obligations.FabricLinks : Prop :=
  (∀ (s : State) p o i share, s.boot.booted = true → wired s.boot.n p o i →
    let y : State := { s with fresh := s.fresh + 1, answers := s.answers ++ [.share p (ownShare s.fresh)] }
    exec (.linkTraining p ((s.boot.position + o) % s.boot.n) ⟨48 / (s.boot.n - 1) * (s.boot.n - 1 - o) + i, share⟩) s =
      .next (match sharedSecret s.fresh ((s.boot.position + o) % s.boot.n) share with
        | some k => State.drainFabric { y with
          ports := tset s.ports p { Port.reset with trained := true, secret := k }
          pairs := s.pairs.map fun (e : Nat × Pair) =>
            (e.1, if e.1 % 16 = (s.boot.position + o) % s.boot.n then { e.2 with failed := false } else e.2)
          detours := tdel s.detours ((s.boot.position + o) % s.boot.n) }
        | none => portLost y p)) ∧
  (∀ n j share,
    let key := beBytes 64 (Config.identityKey j).toNat
    let x := beNat (share.take 32)
    let y := beNat ((share.drop 32).take 32)
    sharedSecret n j share =
      if share.length = 128 ∧ onCurve x y = true ∧
        ecdsaOk (key.take 32) (key.drop 32) (share.take 64) ((share.drop 64).take 32) ((share.drop 96).take 32) = true then
        (Point.times (Config.shareSecret n).toNat (some (x, y))).map (·.1)
      else none) ∧
  (∀ (s : State) p o i m q share, s.boot.booted = true → wired s.boot.n p o i →
    (m ≠ (s.boot.position + o) % s.boot.n ∨ q ≠ 48 / (s.boot.n - 1) * (s.boot.n - 1 - o) + i) →
    exec (.linkTraining p m ⟨q, share⟩) s = .next (portLost s p)) ∧
  (∀ (s : State) p m q share, (s.boot.booted = false ∨ 48 / (s.boot.n - 1) * (s.boot.n - 1) ≤ p) → exec (.linkTraining p m ⟨q, share⟩) s = .next s) ∧
  (∀ (f : Flit), f.bytes.length = 128 ∧ crcGood f.bytes ∧ seqOf f.bytes = f.seq ∧ ackOf f.bytes = f.ack ∧ kindOf f.bytes = f.kind.toNat) ∧
  (∀ (s : State) p j (f : Flit), s.boot.n ≤ 16 → s.portPeer p = some j → f.nonce = s.comingNonce p → f.secret = (s.port p).secret →
    s.openFlit p f.bytes = some (sized 104 f.body.bytes)) ∧
  (∀ (s : State) p f, flitComes s p f → ¬crcGood f → exec (.flitReceive p (f.take 8) (f.drop 8)) s = .next (flitLeaves (flitCounted s p) p 1 (seqOf f) .control)) ∧
  (∀ (s : State) p f, flitComes s p f → crcGood f → s.openFlit p f = none →
    let l := (s.port p).tagFails.filter (fun t => s.now < t + 1000000) ++ [s.now]
    let y := flitLeaves (flitCounted s p) p 1 (seqOf f) .control
    let z := portNow y p { y.port p with tagFails := l }
    exec (.flitReceive p (f.take 8) (f.drop 8)) s = .next (if l.length < 16 then z else portLost z p)) ∧
  (∀ (s : State) p f body, goodFlit s p f 0 body → (s.port p).rxSeq = seqOf f →
    let z := flitTaken s p
    exec (.flitReceive p (f.take 8) (f.drop 8)) s = .next (State.drainFabric (match (Config.relayTarget body).filter (· ≠ s.boot.position) with
      | none =>
        { z with arrived := z.arrived ++ (Config.bodyRequest body).toList, answered := z.answered ++ (Config.bodyResponse body).toList }
      | some j => if s.portsTo j = [] then { z with relayDrops := s.relayDrops + 1 } else z.pushTo (p / 4) j (.relayed body)))) ∧
  (∀ (s : State) p f body, goodFlit s p f 0 body → (s.port p).rxSeq ≠ seqOf f →
    exec (.flitReceive p (f.take 8) (f.drop 8)) s = .next (flitLeaves (flitCounted s p) p 2 0 .control).drainFabric) ∧
  (∀ (s : State) p f body, goodFlit s p f 3 body →
    exec (.flitReceive p (f.take 8) (f.drop 8)) s = .next (portNow (flitCounted s p) p { s.port p with rxGen := (s.port p).rxGen + 1, rxCount := 0 }).drainFabric) ∧
  (∀ (s : State) p f body a b e, flitComes s p f → crcGood f → s.openFlit p f = some body → kindOf f = 2 →
    (s.port p).replay = a ++ e :: b → SentFlit.seq e = ackOf f → (∀ x ∈ a, x.seq ≠ ackOf f) →
    exec (.flitReceive p (f.take 8) (f.drop 8)) s = .next (portNow (flitCounted s p) p { (flitCounted s p).port p with replay := b }).drainFabric) ∧
  (∀ (s : State) p seq a b e, (s.port p).trained = true → (s.port p).replay = a ++ e :: b → SentFlit.seq e = BitVec.ofNat 12 seq →
    (∀ x ∈ a, x.seq ≠ BitVec.ofNat 12 seq) → (s.port p).count + (b.length + 1) ≤ 2 ^ 64 - 1 →
    exec (.replayRequest p seq) s = .next (flitsAgain s p (e :: b))) ∧
  (∀ (s : State) p e l, (s.port p).trained = true → (s.port p).replay = e :: l →
    exec (.linkReplayTimeout p) s = .next (portLost (s.atLeast (SentFlit.first e + 50000)) p)) ∧
  (∀ (s : State) p, (s.port p).trained = true → (s.port p).count = 2 ^ 64 - 1 →
    exec (.keyExhausted p) s = .next ((portLost s p).send 4 0 (Config.letterKind 23) (leBytes 8 p))) ∧
  (∀ (s : State) p, (s.port p).trained = true → (s.port p).count ≤ 2 ^ 64 - 2 → (s.port p).gen = 0xFFFF → exec (.keyExhausted p) s = .next s) ∧
  (∀ (s : State) p, (s.port p).trained = true → (s.port p).count ≤ 2 ^ 64 - 2 → (s.port p).gen ≠ 0xFFFF →
    let z := flitLeaves s p 3 0 .control
    exec (.keyExhausted p) s = .next (portNow z p { z.port p with gen := (s.port p).gen + 1, count := 0 })) ∧
  (∀ (s : State) peer (onward : BitVec 16) r, peer ≠ s.boot.position → peer < s.boot.n → s.portsTo peer = [] → r < s.boot.n →
    (∀ q, q ≤ r → ((q ≠ s.boot.position ∧ q ≠ peer ∧ s.portsTo q ≠ [] ∧ onward.getLsbD q = true) ↔ q = r)) →
    let z : State := { s with
      pairs := s.pairs.map fun (e : Nat × Pair) => (e.1, if e.1 % 16 = peer then { e.2 with failed := false } else e.2)
      detours := tset s.detours peer r }
    exec (.detourInstall peer onward) s = .next z.drainFabric)

/-- R391, R392, R393, R396, R397: REQUEST_RESEND, REQUEST_ARRIVE, RESPONSE_ARRIVE and WINDOW_CHANGE (requestResend, requestArrive, responseArrive, windowChange).
A request is sent again under its number, at most eight times, after the timer that the module holds or one that the network core sets, from 20 us to
10 ms (DESIGN CHOICE, log 21); a target performs the next request of a pair once and keeps its response, and sends it again for every request that it has
performed; the first response ends a request; a failed check of the ingress is the response, and a page that may not be reached is reason 0x07. A window
that opens has its pages mapped and pinned, or does not open. The letter of a pair that fails goes out at its first failure, and a credit comes back in a
word of its own (DEDUCED, log 13); the letter is as written here (DESIGN CHOICE, log 12). -/
def Obligations.FabricRecovery : Prop :=
  (∀ (s : State) die peer o, outstanding s die peer o → o.sends < 8 → ∃ n, (n = s.resendAfter ∨ 20000 ≤ n ∧ n ≤ 10000000) ∧
    let y : State := State.atLeast { s with resendAfter := n, choices := s.choices + 1 } (o.last + n)
    exec (.requestResend die peer o.seq) s = .next ((y.setPair die peer { s.pair die peer with
      out := (s.pair die peer).out.map fun x => if x.seq = o.seq then { x with sends := x.sends + 1, last := y.now } else x }).pushTo die peer
        (.request o.req))) ∧
  (∀ (s : State) die peer o, outstanding s die peer o → 8 ≤ o.sends → ∃ n, (n = s.resendAfter ∨ 20000 ≤ n ∧ n ≤ 10000000) ∧
    let z := requestOver (State.atLeast { s with resendAfter := n, choices := s.choices + 1 } (o.last + n)) die peer o.seq true
    exec (.requestResend die peer o.seq) s = .next ((((if (s.pair die peer).failed then z else z.report 5 6 [die, peer]).deliverTo o.waiter
      (pairNo die peer) peer o.seq (.reject 9)).sendPeers).settle)) ∧
  (∀ (s : State) die peer o r, outstanding s die peer o → answersRequest r → s.fitsWaiter o.waiter r = true →
    exec (.responseArrive die peer o.seq r) s = .next
      ((((requestOver s die peer o.seq (s.pair die peer).failed).deliverTo o.waiter (pairNo die peer) peer o.seq r).sendPeers).settle)) ∧
  (∀ (s : State) die peer seq d, exec (.responseArrive die peer seq (.credit d)) s = .next
    (State.settle { s with credits := tset s.credits (16 * peer + d) (tget s.credits (16 * peer + d) 0 - 1) })) ∧
  (∀ (s : State) die peer seq r, answersRequest r → (s.pair die peer).out.find? (fun x => x.seq == seq) = none →
    exec (.responseArrive die peer seq r) s = .next s) ∧
  (∀ (s : State) (r : PeerRequest), fromPeer s r → r.seq = (s.target r.srcModule r.srcDie).done + 1 → (s.target r.srcModule r.srcDie).held = [] →
    let z := (s.setTarget r.srcModule r.srcDie (keptAfter (s.target r.srcModule r.srcDie) r.acked)).peerRequest r
    exec (.requestArrive r) s = .next (((z.2.setTarget r.srcModule r.srcDie
      ⟨r.seq, (z.2.target r.srcModule r.srcDie).kept ++ [(r.seq, z.1)],
        (z.2.target r.srcModule r.srcDie).held.filter fun h => h.seq != r.seq⟩).pushTo (z.2.homeOf r) r.srcModule (.response r.srcDie r.seq z.1)).settle)) ∧
  (∀ (s : State) (r : PeerRequest), fromPeer s r →
    ((r.seq - (s.target r.srcModule r.srcDie).done).toNat = 0 ∨ 2 ^ 31 ≤ (r.seq - (s.target r.srcModule r.srcDie).done).toNat) →
    let t := keptAfter (s.target r.srcModule r.srcDie) r.acked
    let z := s.setTarget r.srcModule r.srcDie t
    exec (.requestArrive r) s = .next (match t.kept.find? fun k => k.1 == r.seq with
      | some k => z.pushTo (z.homeOf r) r.srcModule (.response r.srcDie r.seq k.2)
      | none => z)) ∧
  (∀ (s : State) (r : PeerRequest), fromPeer s r → 1 < (r.seq - (s.target r.srcModule r.srcDie).done).toNat →
    (r.seq - (s.target r.srcModule r.srcDie).done).toNat ≤ 1024 → (∀ h ∈ (s.target r.srcModule r.srcDie).held, h.seq ≠ r.seq) →
    let t := keptAfter (s.target r.srcModule r.srcDie) r.acked
    exec (.requestArrive r) s = .next (s.setTarget r.srcModule r.srcDie { t with held := t.held ++ [r] })) ∧
  (∀ (s : State) (r : PeerRequest), fromPeer s r → 1024 < (r.seq - (s.target r.srcModule r.srcDie).done).toNat →
    (r.seq - (s.target r.srcModule r.srcDie).done).toNat < 2 ^ 31 →
    exec (.requestArrive r) s = .next (s.setTarget r.srcModule r.srcDie (keptAfter (s.target r.srcModule r.srcDie) r.acked))) ∧
  (∀ (s : State) (r : PeerRequest) n, isMessage r.op = false → firstFailure (ingressChecks s r) = some n → s.peerRequest r = (.reject n, s)) ∧
  (∀ (s : State) (r : PeerRequest) pa, r.op = .load → firstFailure (ingressChecks s r) = none →
    let w : BitVec 128 := tget s.windows (r.token.extractLsb' 0 20).toNat 0
    s.windowPlaces (w.extractLsb' 103 12).toNat ((w.extractLsb' 0 48).toNat * 65536 + r.offset) r = some [(pa, r.len)] →
    s.peerRequest r = (if s.badAt pa r.len then .marked else .data (s.physRead pa r.len), s.scrub pa r.len)) ∧
  (∀ (s : State) (r : PeerRequest), isMessage r.op = false → firstFailure (ingressChecks s r) = none →
    let w : BitVec 128 := tget s.windows (r.token.extractLsb' 0 20).toNat 0
    s.windowPlaces (w.extractLsb' 103 12).toNat ((w.extractLsb' 0 48).toNat * 65536 + r.offset) r = none → s.peerRequest r = (.reject 7, s)) ∧
  (∀ (s : State) (r : PeerRequest) o n pa, r.op = .cas o n → firstFailure (ingressChecks s r) = none → s.badAt pa r.len = false →
    let w : BitVec 128 := tget s.windows (r.token.extractLsb' 0 20).toNat 0
    s.windowPlaces (w.extractLsb' 103 12).toNat ((w.extractLsb' 0 48).toNat * 65536 + r.offset) r = some [(pa, r.len)] →
    let old := s.physRead pa r.len
    s.peerRequest r = (.data old, if BitVec.ofNat 64 (leNat old) = o then (s.scrub pa r.len).engWrite [(.phys pa, r.len)] (leBytes r.len n.toNat)
      else (s.scrub pa r.len).wake (.phys pa) r.len)) ∧
  (∀ (s : State) (r : PeerRequest) pa, r.op = .arm → firstFailure (ingressChecks s r) = none →
    let w : BitVec 128 := tget s.windows (r.token.extractLsb' 0 20).toNat 0
    s.windowPlaces (w.extractLsb' 103 12).toNat ((w.extractLsb' 0 48).toNat * 65536 + r.offset) r = some [(pa, r.len)] →
    s.peerRequest r = (.ack, s.armTable ⟨bankNo pa, .peer r.srcModule r.srcDie r.seq pa⟩)) ∧
  (∀ (s : State) (r : PeerRequest) m, r.op = .message m →
    s.peerRequest r = (.ack, { s with messagesOut := s.messagesOut ++ [⟨s.boot.position, 0, 0, m⟩] })) ∧
  (∀ (s : State) (r : PeerRequest) v ty b pa, r.op = .atom v ty b → firstFailure (ingressChecks s r) = none → s.badAt pa r.len = false →
    let w : BitVec 128 := tget s.windows (r.token.extractLsb' 0 20).toNat 0
    s.windowPlaces (w.extractLsb' 103 12).toNat ((w.extractLsb' 0 48).toNat * 65536 + r.offset) r = some [(pa, r.len)] →
    let old := s.physRead pa r.len
    s.peerRequest r = (.data old, (s.scrub pa r.len).engWrite [(.phys pa, r.len)]
      (leBytes r.len (atomNew v.toNat ty (BitVec.ofNat 64 (leNat old)) b).toNat))) ∧
  (∀ (s : State) (r : PeerRequest) b pa, r.op = .store b → b.length = r.len → firstFailure (ingressChecks s r) = none →
    let w : BitVec 128 := tget s.windows (r.token.extractLsb' 0 20).toNat 0
    s.windowPlaces (w.extractLsb' 103 12).toNat ((w.extractLsb' 0 48).toNat * 65536 + r.offset) r = some [(pa, r.len)] →
    s.peerRequest r = (.ack, s.writePlace (.phys pa) b)) ∧
  (∀ (s : State) i (e : BitVec 128), i < 16384 → e.getLsbD 127 = false → exec (.windowChange i e) s = .next { s with
    windows := tset s.windows i e, pins := s.pins.filter fun p => p.owner != .window i }) ∧
  (∀ (s : State) i (e : BitVec 128), i < 16384 → e.getLsbD 127 = true →
    State.servePages { s with pins := s.pins.filter fun p => p.owner != .window i } (e.extractLsb' 103 12).toNat (e.extractLsb' 0 48).toNat true false
      (e.extractLsb' 48 27).toNat = none → exec (.windowChange i e) s = .next { s with frees := s.frees + 1 }) ∧
  (∀ (s z : State) i (e : BitVec 128), i < 16384 → e.getLsbD 127 = true →
    State.servePages { s with pins := s.pins.filter fun p => p.owner != .window i } (e.extractLsb' 103 12).toNat (e.extractLsb' 0 48).toNat true false
      (e.extractLsb' 48 27).toNat = some z → ∃ w : BitVec 128,
    exec (.windowChange i e) s = .next { z with
      windows := tset z.windows i w, pins := z.pins ++ (List.range (e.extractLsb' 48 27).toNat).map fun k =>
        ⟨(e.extractLsb' 103 12).toNat, (e.extractLsb' 0 48).toNat + k, .window i⟩ } ∧ w.extractLsb' 0 75 = e.extractLsb' 0 75 ∧
      w.extractLsb' 103 25 = e.extractLsb' 103 25 ∧ w.extractLsb' 75 28 = BitVec.ofNat 28 (z.tokenClock / 2 ^ 24))

/-- R323, R359: COLLECTIVE_COMPLETE (collectiveComplete). It waits for every store that stood before the `coll` in its group. Headers that differ end it with status 1 and change no destination; else the destination receives what
its kind says, the postmark follows, and the increment. A rejection ends it with status 2: which elements were written is free (DESIGN CHOICE, log 22). -/
def Sys2Proof.Claims.CollectivesEnd : Prop :=
  (∀ (s : State) (x : Collective) g tid t a peers rej, s.collectives.find? (fun y => y.uid == x.uid) = some x → s.group? x.gid = some g →
    g.threads[tid]? = some t → a ∈ t.ops → a.op.isStore = true → ⟨x.gid, tid, a.seq⟩ ∈ x.before →
    exec (.collectiveComplete x.uid peers rej) s = .next s) ∧
  (∀ (s : State) (x : Collective) peers rej mark, collectiveReady s x peers mark → (∃ p ∈ peers, Coll.of p.header ≠ Coll.of x.header) →
    exec (.collectiveComplete x.uid peers rej) s = .next (collectiveOver s x 1 mark)) ∧
  (∀ (s : State) (x : Collective) peers own ps mark, collectiveReady s x peers mark → (∀ p ∈ peers, Coll.of p.header = Coll.of x.header) →
    s.namedRead x.asid x.die (u64 x.header 0x10) ((Coll.of x.header).count * (Coll.of x.header).bytes) = .ok own →
    s.named x.asid x.die (u64 x.header 0x18) (collectiveOut s x own.1 peers).length true = .ok ps →
    exec (.collectiveComplete x.uid peers false) s =
      .next (collectiveOver ((s.engMarks x.die own.2).engWrite ps (collectiveOut s x own.1 peers)) x 0 mark)) ∧
  (∀ (s : State) (x : Collective) peers own ps mark, collectiveReady s x peers mark → (∀ p ∈ peers, Coll.of p.header = Coll.of x.header) →
    s.namedRead x.asid x.die (u64 x.header 0x10) ((Coll.of x.header).count * (Coll.of x.header).bytes) = .ok own →
    s.named x.asid x.die (u64 x.header 0x18) (collectiveOut s x own.1 peers).length true = .ok ps →
    let y := s.engMarks x.die own.2
    ∃ bs n, bs.length = (collectiveOut s x own.1 peers).length ∧
      (∀ i, bs[i]? = (collectiveOut s x own.1 peers)[i]? ∨ i < bs.length ∧ nth bs i 0 = nth (ps.flatMap fun e => y.readPlace e.1 e.2) i 0) ∧
      exec (.collectiveComplete x.uid peers true) s = .next (collectiveOver (State.engWrite { y with frees := n } ps bs) x 2 mark)) ∧
  (∀ (c : Coll) me x y, c.kind = 1 → c.ty = 0 → c.red = 0 → c.result me [(0, x), (1, y)] =
    (List.range c.count).map fun i => (le x (4 * i) 4 + le y (4 * i) 4) % 2 ^ 32) ∧
  (∀ (c : Coll) me l, c.kind = 3 → c.result me l = l.flatMap fun e => c.elems e.2) ∧
  (∀ (c : Coll) me a b x, c.kind = 4 → (∀ e ∈ a, Prod.fst e ≠ c.root) → c.result me (a ++ (c.root, x) :: b) = c.elems x) ∧
  (∀ (c : Coll) me l i, c.kind = 2 → i < c.count / c.members.length →
    (c.result me l)[i]? = (c.reduce (l.map fun e => c.elems e.2))[c.count / c.members.length * c.rank me + i]?)

/-- R42, R317, R323, R346, R355, R358, R359, R394: `amsend`, `coll`, and COLLECTIVE_COMPLETE (amsend, coll, collectiveComplete). The message of `amsend` is
accepted and its thread goes on; the collective of `coll` starts and its threads go on; it completes with its result. -/
def Obligations.MessagesAndCollectives : Prop := MessagesIssued ∧ MessageAccepted ∧ CollectiveStarted ∧ CollectivesEnd

end

/-! ### The peripheral tree -/

namespace Sys2Proof.Claims

open Sys2Proof Sys2Proof.Machine Sys2Proof.Safety

/-- A function that the tree has enabled. -/
def device (s : State) (f : Func) : Prop := s.func? f.rid = some f ∧ f.failed = false ∧ f.enabled = true
/-- The space of a request of a function: its PASID's binding, or the function's default (R415). -/
def boundTo (f : Func) (pasid : Option Nat) (asid : Nat) : Prop :=
  match pasid with
  | some p => ∃ a b, f.pasids = a ++ (p, asid) :: b ∧ ∀ e ∈ a, e.1 ≠ p
  | none => f.dflt = some asid
def unbound (f : Func) (pasid : Option Nat) : Prop :=
  match pasid with
  | some p => ∀ e ∈ f.pasids, e.1 ≠ p
  | none => f.dflt = none
/-- A leaf of a type that endpoints reach (R415), and whether they may write below it: a range that R297 makes read-only takes no write. -/
def endpointType (e : Dword) : Prop := (e.extractLsb' 5 3).toNat = 0 ∨ (e.extractLsb' 5 3).toNat = 4 ∨ (e.extractLsb' 5 3).toNat = 5
def mayWrite (s : State) (e : Dword) : Bool := e.getLsbD 3 && !(decide ((e.extractLsb' 5 3).toNat ≤ 1) && s.readOnly e.toNat)
/-- A request of a function by its own port (R408, R409): its number lies in the port's bus range. -/
def fromDevice (s : State) (r : EndpointRequest) (f : Func) : Prop := r.rid = f.rid ∧ r.rid / 256 / 32 = r.port ∧ device s f
/-- A driver claims a device (R408, R410): the image that booted has the drivers, and the device is of a class that has one (codes 1 to 3, log 20),
interrupts by MSI-X, and is one of at most 64 virtual functions of its physical function. -/
def claimed (s : State) (d : Device) : Prop :=
  s.boot.drivers = true ∧ 1 ≤ d.cls ∧ d.cls ≤ 3 ∧ d.msix = true ∧ (d.pf = none ∨ (s.funcs.filter fun f => f.pf == d.pf && f.rid != d.rid).length < 64)
/-- The answers that a machine has given, with one more. -/
def answered (s : State) (a : Answer) : State := { s with answers := s.answers ++ [a] }
/-- The 56 bytes of a page letter from offset 8 (R406). -/
def pageLetter (va asid : Nat) (r w : Bool) (port rid grp res leaf : Nat) : List Byte :=
  leBytes 8 va ++ leBytes 2 asid ++ [(if r then 1 else 0) + (if w then 2 else 0), BitVec.ofNat 8 port] ++ leBytes 2 rid ++ leBytes 2 grp ++
    leBytes 1 res ++ leBytes 7 0 ++ leBytes 8 leaf ++ leBytes 24 0
/-- A letterbox with its first letter of a kind taken out. -/
def takes (s z : State) (src dst kind : Nat) (l : Letter) : Prop :=
  ∃ a b, s.box src dst = a ++ l :: b ∧ (∀ m ∈ a, m.kind ≠ kind) ∧ l.kind = kind ∧
    z = { s with letters := tset s.letters (8 * src + dst) (a ++ b) }
/-- The window of a bridge that holds a request's bytes (R411). -/
def windowOf (s : State) (port a n : Nat) (w : BridgeWindow) : Prop :=
  ∃ x y, tget s.bridges port [] = x ++ w :: y ∧ w.lo ≤ a ∧ a + n ≤ w.lo + w.size ∧ ∀ v ∈ x, a < v.lo ∨ v.lo + v.size < a + n

end Sys2Proof.Claims

section
open Sys2Proof Sys2Proof.Machine Sys2Proof.Safety Sys2Proof.Claims

/-- R403, R405, R406, R416: MSIX_INCREMENT, ATS_TRANSLATION_REQUEST, PAGE_REQUEST, PAGE_REQUEST_SERVICE, PAGE_RESPONSE and STOP_MARKER (msixIncrement,
atsTranslationRequest, pageRequest, pageRequestService, pageResponse, stopMarker). The letter of a message that is no increment is as written here (DESIGN CHOICE, log 12). -/
def Obligations.TreeRequests : Prop :=
  (∀ (s : State) port die sem inc, die < 12 → sem < 4096 → 1 ≤ inc → inc < 65536 →
    exec (.msixIncrement port (BitVec.ofNat 64 (0xFEE0000000 + 0x10000 * die + 4 * sem)) (BitVec.ofNat 32 inc)) s =
      .next ((s.semAdd die sem inc).settle)) ∧
  (∀ (s : State) port (a : Dword) (v : Word),
    (a.toNat < 0xFEE0000000 ∨ 0xFEE0000000 + 0x10000 * 12 ≤ a.toNat ∨ a.toNat % 4 ≠ 0 ∨ 0x4000 ≤ a.toNat % 0x10000 ∨ v.toNat % 65536 = 0 ∨
      65536 ≤ v.toNat) →
    exec (.msixIncrement port a v) s = .next (s.report 4 9 [a.toNat, v.toNat])) ∧
  (∀ (s : State) (f : Func) pasid asid va (write : Bool) e off size b, device s f → f.ats = true → boundTo f pasid asid →
    s.translate asid va = .leaf e off size → s.placeOf asid 0 e off = .phys (b + off) → s.exists (.phys (b + off)) = true →
    endpointType e → (if write then mayWrite s e else e.getLsbD 2) = true →
    exec (.atsTranslationRequest f.rid pasid va ⟨write, false⟩) s =
      .next (answered s (.translation f.rid b size (e.getLsbD 2) (mayWrite s e)))) ∧
  (∀ (s : State) (f : Func) pasid asid va (write : Bool), device s f → f.ats = true → boundTo f pasid asid →
    (∀ e off size, s.translate asid va = .leaf e off size → (if write then mayWrite s e else e.getLsbD 2) = false ∨ ¬endpointType e ∨
      ∀ pa, s.placeOf asid 0 e off = .phys pa → s.exists (.phys pa) = false) →
    exec (.atsTranslationRequest f.rid pasid va ⟨write, false⟩) s = .next (answered s (.translation f.rid 0 0 false false))) ∧
  (∀ (s : State) rid pasid va write px, (px = true ∨ ∀ f, s.func? rid = some f → f.failed = true ∨ f.enabled = false ∨ f.ats = false ∨ unbound f pasid) →
    exec (.atsTranslationRequest rid pasid va ⟨write, px⟩) s = .next (answered s (.unsupported rid))) ∧
  (∀ (s : State) (f : Func) pasid va r w grp, s.func? f.rid = some f → unbound f pasid →
    exec (.pageRequest f.rid pasid va r w grp) s = .next (answered s (.prg f.rid grp false))) ∧
  (∀ (s : State) (f : Func) pasid asid va r w grp, s.func? f.rid = some f → boundTo f pasid asid → 512 ≤ f.groups.length →
    exec (.pageRequest f.rid pasid va r w grp) s = .next (answered s (.prg f.rid grp false))) ∧
  (∀ (s : State) (f : Func) pasid asid va r w grp, s.func? f.rid = some f → f.failed = false → boundTo f pasid asid → f.groups.length < 512 →
    exec (.pageRequest f.rid pasid va r w grp) s = .next
      (({ s with funcs := s.funcs.map fun (x : Func) => if x.rid = f.rid then { x with groups := x.groups ++ [(pasid.getD 0, grp)] } else x } : State).send
        4 3 0x21 (pageLetter (va.toNat / 65536 * 65536) asid r w f.port f.rid grp 0 0))) ∧
  (∀ (s z y : State) l leaf, takes s z 4 3 0x21 l →
    s.servePage (le l.body 8 2) (le l.body 0 8 / 65536) (le l.body 10 1 % 2 = 1) (le l.body 10 1 / 2 % 2 = 1) none (s.spaceDies (le l.body 8 2)) =
      .mapped y leaf → y.endpointLeaf leaf (le l.body 10 1 / 2 % 2 = 1) = true → y.letters = s.letters →
    exec .pageRequestService s = .next (({ y with letters := z.letters } : State).send 3 4 0x22 (pageLetter (le l.body 0 8) (le l.body 8 2)
      (le l.body 10 1 % 2 = 1) (le l.body 10 1 / 2 % 2 = 1) (le l.body 11 1) (le l.body 12 2) (le l.body 14 2) 0 leaf.toNat))) ∧
  (∀ (s z : State) l, takes s z 4 3 0x21 l →
    s.servePage (le l.body 8 2) (le l.body 0 8 / 65536) (le l.body 10 1 % 2 = 1) (le l.body 10 1 / 2 % 2 = 1) none (s.spaceDies (le l.body 8 2)) =
      .refused ∨
    (∃ y leaf, s.servePage (le l.body 8 2) (le l.body 0 8 / 65536) (le l.body 10 1 % 2 = 1) (le l.body 10 1 / 2 % 2 = 1) none
      (s.spaceDies (le l.body 8 2)) = .mapped y leaf ∧ y.endpointLeaf leaf (le l.body 10 1 / 2 % 2 = 1) = false) →
    exec .pageRequestService s = .next (({ z with frees := z.frees + 1 } : State).send 3 4 0x22 (pageLetter (le l.body 0 8) (le l.body 8 2)
      (le l.body 10 1 % 2 = 1) (le l.body 10 1 / 2 % 2 = 1) (le l.body 11 1) (le l.body 12 2) (le l.body 14 2) 1 0))) ∧
  (∀ (s z : State) l, takes s z 3 4 0x22 l → ∃ fs : List Func,
    exec .pageResponse s = .next (answered { z with funcs := fs } (.prg (le l.body 12 2) (le l.body 14 2) (le l.body 16 1 == 0))) ∧
      fs.length = s.funcs.length ∧ ∀ (k : Nat) (f : Func), s.funcs[k]? = some f →
        (f.rid ≠ le l.body 12 2 → fs[k]? = some f) ∧
        ∀ a e b, f.rid = le l.body 12 2 → f.groups = a ++ e :: b → e.2 = le l.body 14 2 → (∀ x ∈ a, x.2 ≠ e.2) →
          fs[k]? = some { f with groups := a ++ b }) ∧
  (∀ (s : State) rid pasid, exec (.stopMarker rid pasid) s = .next { s with
    funcs := s.funcs.map fun (x : Func) => if x.rid = rid then { x with groups := x.groups.filter fun e => e.1 != pasid } else x })

/-- R408 to R411, R414, R415, R416: ENDPOINT_REQUEST, BRIDGE_REQUEST, FUNCTION_FAILURE, INVALIDATE_TIMEOUT and HOT_ADD (endpointRequest, bridgeRequest,
functionFailure, invalidateTimeout, hotAdd). The codes of the device classes and what a hot-added device says of itself are the model's (DESIGN CHOICE, log 20), and
so are the windows of a bridge's partner as expansion memory (DEDUCED, log 40), letters of kinds that the spec names no code for (DESIGN CHOICE, log 12), and that an
event which cannot occur changes nothing (DESIGN CHOICE, log 17). -/
def Obligations.TreeDevices : Prop :=
  (∀ (s : State) (r : EndpointRequest) (f : Func) bs ps, fromDevice s r f → r.privExec = false → r.data = some bs →
    s.endpointPlaces f r = some ps → exec (.endpointRequest r) s = .next ((s.engWrite ps bs).settle)) ∧
  (∀ (s : State) (r : EndpointRequest) (f : Func) ps, fromDevice s r f → r.privExec = false → r.data = none →
    s.endpointPlaces f r = some ps → (s.deviceRead ps).2 = false →
    exec (.endpointRequest r) s = .next (answered (s.engMarks 0 ps) (.data f.rid (ps.flatMap fun e => s.readPlace e.1 e.2) false))) ∧
  (∀ (s : State) (r : EndpointRequest) (f : Func), fromDevice s r f → r.privExec = false → r.translated = true → f.ats = false →
    exec (.endpointRequest r) s = .next (answered (s.report 4 10 [f.rid, r.adr.toNat]) (.unsupported f.rid))) ∧
  (∀ (s : State) (r : EndpointRequest) (f : Func), fromDevice s r f → r.privExec = false → r.translated = false → unbound f r.pasid →
    exec (.endpointRequest r) s = .next (answered s (.unsupported f.rid))) ∧
  (∀ (s : State) (r : EndpointRequest) (f : Func), fromDevice s r f → r.privExec = true →
    exec (.endpointRequest r) s = .next (answered s (.unsupported r.rid))) ∧
  (∀ (s : State) (r : EndpointRequest), r.rid / 256 / 32 = r.port → (∀ f, s.func? r.rid = some f → f.failed = true ∨ f.enabled = false) →
    exec (.endpointRequest r) s =
      .next (answered (if r.translated then s.report 4 10 [r.rid, r.adr.toNat] else s) (.unsupported r.rid))) ∧
  (∀ (s : State) (r : EndpointRequest), r.rid / 256 / 32 ≠ r.port →
    exec (.endpointRequest r) s = .next (answered (s.report 4 24 [r.rid, r.port]) (.unsupported r.rid))) ∧
  (∀ (s : State) port (a : Dword) (write : Bool) bs len, (∀ w ∈ tget s.bridges port [], a.toNat < w.lo ∨
      w.lo + w.size < a.toNat + (if write then bs.length else len)) →
    exec (.bridgeRequest port a write bs len) s = .next (answered { s with bridgeErrors := s.bridgeErrors + 1 } (.bridge port none false))) ∧
  (∀ (s : State) port (a : Dword) (write : Bool) bs len w, windowOf s port a.toNat (if write then bs.length else len) w →
    (if write then w.w else w.r) = false →
    exec (.bridgeRequest port a write bs len) s = .next (answered { s with bridgeErrors := s.bridgeErrors + 1 } (.bridge port none false))) ∧
  (∀ (s : State) port (a : Dword) bs len w p, windowOf s port a.toNat bs.length w → w.w = true → w.msix = false →
    1 ≤ bs.length → (w.base + (a.toNat - w.lo)) % 65536 + bs.length ≤ 65536 → w.base + (a.toNat - w.lo) < 2 ^ 64 →
    s.access w.asid 0 (BitVec.ofNat 64 (w.base + (a.toNat - w.lo))) [0, 4] false true = .ok p →
    exec (.bridgeRequest port a true bs len) s = .next ((s.writePlace p bs).settle)) ∧
  (∀ (s : State) (f : Func) code, s.func? f.rid = some f → f.failed = false → (code = 1 ∨ code = 2 ∨ code = 3) →
    let v : State := { s with expansion := s.expansion.map fun (e : Expansion) => if e.rid = f.rid ∧ code = 2 then { e with present := false } else e }
    let u : State := if code = 1 then v.report 4 24 [f.rid, 1] else v
    let w := (s.queuePairs.filter fun q => q.rid == f.rid).foldl (fun acc q => acc.failQueue code q) { u with
      funcs := s.funcs.map fun (x : Func) => if x.rid = f.rid then { x with failed := true, enabled := false } else x }
    exec (.functionFailure f.rid code) s = .next (State.settle { w with
      dies := w.dies.map fun (d : Nat × Die) => (d.1, { d.2 with proxy := d.2.proxy.map fun (b : Doorbell) =>
        if b.rid = f.rid then { b with live := false } else b })
      shootdowns := w.shootdowns.map fun (d : Shootdown) => { d with awaiting := d.awaiting.filter fun x => x != f.rid } })) ∧
  (∀ (s : State) rid d, (s.shootdowns.find? fun k => k.awaiting.contains rid) = some d →
    exec (.invalidateTimeout rid) s = exec (.functionFailure rid 3) (s.atLeast (d.since + 10000000))) ∧
  (∀ (s : State) rid, (∀ d ∈ s.shootdowns, rid ∉ d.awaiting) → exec (.invalidateTimeout rid) s = .next s) ∧
  (∀ (s : State) (q : QueuePair) code ps, s.engPlaces q.asid q.die 0 (q.qrecord.toNat + 0x2C) 4 3 false = .ok ps →
    s.failQueue code q = (s.engWrite ps (leBytes 4 code)).semAdd q.die q.sem 0x40000000) ∧
  (∀ (s : State) port (d : Device), s.boot.booted = true → port < 8 → nth s.boot.rootPorts port 0 ≠ 3 → 32 * port ≤ d.rid / 256 →
    d.rid / 256 < 32 * port + 32 →
    let base := s.funcs.filter fun f => f.rid != d.rid
    (¬claimed s d → exec (.hotAdd port d.rid d.cls ⟨d.msix, d.ats, d.pf⟩ d.units d.dflt) s = .next { s with funcs := base ++ [⟨d.rid, port, d.cls, d.pf, false, false, [], none, [], false⟩] }) ∧
    (claimed s d → d.cls ≠ 3 ∨ d.units = 0 →
      exec (.hotAdd port d.rid d.cls ⟨d.msix, d.ats, d.pf⟩ d.units d.dflt) s = .next { s with funcs := base ++ [⟨d.rid, port, d.cls, d.pf, true, d.ats, [], d.dflt, [], false⟩] }) ∧
    (claimed s d → d.cls = 3 → 0 < d.units → ∃ top, (∀ e ∈ s.expansion, e.base + e.size ≤ top) ∧ 0x100000000000 ≤ top ∧
      exec (.hotAdd port d.rid d.cls ⟨d.msix, d.ats, d.pf⟩ d.units d.dflt) s = .next { s with
        funcs := base ++ [⟨d.rid, port, 3, d.pf, true, d.ats, [], d.dflt, [], false⟩],
        expansion := s.expansion ++ [⟨top, d.units * 2 ^ 28, d.rid, true⟩] })) ∧
  (∀ (s : State) port (d : Device), s.boot.booted = true → port < 8 → nth s.boot.rootPorts port 0 = 3 → 32 * port ≤ d.rid / 256 →
    d.rid / 256 < 32 * port + 32 → 0 < d.units → ∃ top, (∀ e ∈ s.expansion, e.base + e.size ≤ top) ∧ 0x100000000000 ≤ top ∧
    exec (.hotAdd port d.rid d.cls ⟨d.msix, d.ats, d.pf⟩ d.units d.dflt) s = .next { s with expansion := s.expansion ++ [⟨top, d.units * 2 ^ 28, d.rid, true⟩] }) ∧
  (∀ (s : State) port (d : Device), (s.boot.booted = false ∨ 8 ≤ port ∨ d.rid / 256 < 32 * port ∨ 32 * port + 32 ≤ d.rid / 256) →
    exec (.hotAdd port d.rid d.cls ⟨d.msix, d.ats, d.pf⟩ d.units d.dflt) s = .next s) ∧
  (∀ (s : State) port (a : Dword) bs len w p, windowOf s port a.toNat len w → w.r = true → w.msix = false →
    1 ≤ len → (w.base + (a.toNat - w.lo)) % 65536 + len ≤ 65536 → w.base + (a.toNat - w.lo) < 2 ^ 64 →
    s.access w.asid 0 (BitVec.ofNat 64 (w.base + (a.toNat - w.lo))) [0, 4] true false = .ok p → (s.deviceRead [(p, len)]).2 = false →
    exec (.bridgeRequest port a false bs len) s = .next (answered (s.engMarks 0 [(p, len)]) (.bridge port (some (s.readPlace p len)) false)))

end

/-! ### Network ports, ingest rings and the wake filter -/

namespace Sys2Proof.Claims

open Sys2Proof Sys2Proof.Machine Sys2Proof.Safety

/-- The ring of a port's class (R419). -/
def ringOf (s : State) (port cls : Nat) : Ring := tget s.rings (8 * port + cls) (Ring.reset (8 * port + cls))
def ringNow (s : State) (port cls : Nat) (x : Ring) : State := { s with rings := tset s.rings (8 * port + cls) x }
/-- A ring that stops running: its record is not valid, its pages are pinned no more, and a pause that it asserts is released (DEDUCED, log 39). -/
def ringClosed (s : State) (port cls : Nat) (failed : Bool) : State :=
  let x := ringOf s port cls
  let z := ringNow { s with pins := s.pins.filter fun p => p.owner != .ring (8 * port + cls) } port cls
    { x with fault := x.fault || failed, image := x.image &&& ~~~1, stage := 0, paused := false }
  if x.paused then { z with pauseFrames := s.pauseFrames ++ [(port, cls, 0)] } else z
/-- A ring's fault (R420): it stops, and the errors core is told (DESIGN CHOICE, log 12). -/
def ringFaulted (s : State) (port cls : Nat) : State := (ringClosed s port cls true).report 5 14 [port, cls]
/-- A consumer count that is read releases pause at or below the low watermark (R422). -/
def ringEased (s : State) (port cls c : Nat) : State :=
  let x := ringOf s port cls
  if x.paused = true ∧ x.p - c ≤ (x.image.extractLsb' 26 16).toNat then
    { ringNow s port cls { x with paused := false } with pauseFrames := s.pauseFrames ++ [(port, cls, 0)] }
  else s
/-- A frame that a port takes: not armed, a good FCS, of a size that is allowed (R418). -/
def goodFrame (s : State) (port : Nat) (b : List Byte) : Prop := port < 8 ∧ 60 ≤ b.length ∧ b.length ≤ 9212 ∧ s.armed = false
/-- The port's count of dropped frames, one more. -/
def portDrop (s : State) (port : Nat) : State := { s with portDrops := tset s.portDrops port (tget s.portDrops port 0 + 1) }
/-- A ring at rest, and its consumer count. -/
def ringReady (s : State) (port cls c : Nat) : Prop :=
  let x := ringOf s port cls
  x.image.getLsbD 0 = true ∧ x.stage = 0 ∧ s.readCons x = some c

end Sys2Proof.Claims

section
open Sys2Proof Sys2Proof.Machine Sys2Proof.Safety Sys2Proof.Claims

/-- R418, R420, R422, R423: FRAME_RECEIVE, PRODUCER_WRITE, INGEST_INCREMENT, PAUSE_POLL, PAUSE_REPEAT, WAKE_FILTER_MATCH and HELD_FRAME_REPLAY
(frameReceive, producerWrite, ingestIncrement, pausePoll, pauseRepeat, wakeFilterMatch, heldFrameReplay). The engine reads C at each frame, at which it may release pause; then the frame is dropped, or written. A pause that a ring's fault
ends is DEDUCED, log 39, the letter's place DESIGN CHOICE, log 12; the bits of a filter entry past the frame's end, and what a replay restores, are DEDUCED, log 23. -/
def Obligations.IngestRings : Prop :=
  (∀ (s : State) port b, port < 8 → exec (.frameReceive port false b) s = .next (portDrop s port)) ∧
  (∀ (s : State) port b, goodFrame s port b → (ringOf s port (frameClass b)).image.getLsbD 0 = false →
    exec (.frameReceive port true b) s = .next s.settle) ∧
  (∀ (s : State) port b, goodFrame s port b →
    let x := ringOf s port (frameClass b)
    x.image.getLsbD 0 = true → x.stage = 0 → (s.readCons x = none ∨ ∃ c, s.readCons x = some c ∧ x.p < c) →
    exec (.frameReceive port true b) s = .next (ringFaulted s port (frameClass b)).settle) ∧
  (∀ (s : State) port b c, goodFrame s port b → ringReady s port (frameClass b) c →
    let x := ringOf s port (frameClass b)
    c ≤ x.p → (2 ^ (x.image.extractLsb' 17 5).toNat ≤ x.p - c ∨ 2 ^ (x.image.extractLsb' 22 4).toNat < b.length + 16) →
    let z := ringEased s port (frameClass b) c
    exec (.frameReceive port true b) s = .next (ringNow z port (frameClass b) { ringOf z port (frameClass b) with drops := x.drops + 1 }).settle) ∧
  (∀ (s z : State) port b c, goodFrame s port b → ringReady s port (frameClass b) c →
    let x := ringOf s port (frameClass b)
    let slots := 2 ^ (x.image.extractLsb' 17 5).toNat
    let va := (x.image.extractLsb' 192 64).toNat + 2 ^ (x.image.extractLsb' 22 4).toNat * (x.p % slots)
    c ≤ x.p → x.p - c < slots → b.length + 16 ≤ 2 ^ (x.image.extractLsb' 22 4).toNat → va < 2 ^ 64 →
    (ringEased s port (frameClass b) c).ringWrite (x.image.extractLsb' 58 12).toNat va (if x.image.getLsbD 12 then 4 else 0)
      (leBytes 2 b.length ++ [BitVec.ofNat 8 (frameClass b), BitVec.ofNat 8 port, 1, 0, 0, 0] ++ leBytes 8 x.p ++ b) = some z →
    exec (.frameReceive port true b) s = .next (ringNow z port (frameClass b)
      { ringOf (ringEased s port (frameClass b) c) port (frameClass b) with stage := 1, lastC := c }).settle) ∧
  (∀ (s z : State) port cls, let x := ringOf s port cls
    x.stage = 1 → s.ringWrite (x.image.extractLsb' 58 12).toNat ((x.image.extractLsb' 147 45).toNat * 8) 0 (leBytes 8 (x.p + 1)) = some z →
    exec (.producerWrite port cls) s = .next (ringNow z port cls { x with p := x.p + 1, stage := 2 }).settle) ∧
  (∀ (s : State) port cls, let x := ringOf s port cls
    x.stage = 1 → s.ringWrite (x.image.extractLsb' 58 12).toNat ((x.image.extractLsb' 147 45).toNat * 8) 0 (leBytes 8 (x.p + 1)) = none →
    exec (.producerWrite port cls) s = .next (ringFaulted s port cls).settle) ∧
  (∀ (s : State) port cls, let x := ringOf s port cls
    let inc := (x.image.extractLsb' 70 16).toNat
    let z := if inc = 0 then s else s.semAdd (x.image.extractLsb' 86 4).toNat (x.image.extractLsb' 90 12).toNat inc
    let press := x.image.getLsbD 13 && decide ((x.image.extractLsb' 42 16).toNat + 1 ≤ x.p - x.lastC) && !x.paused
    let y := ringNow z port cls { x with stage := 0, paused := x.paused || press }
    x.stage = 2 → exec (.ingestIncrement port cls) s =
      .next (if press then ({ y with pauseFrames := y.pauseFrames ++ [(port, cls, 0xFFFF)] } : State) else y).settle) ∧
  (∀ (s : State) port cls c, let x := ringOf s port cls
    x.image.getLsbD 0 = true → x.paused = true → s.readCons x = some c → c ≤ x.p → x.p - c ≤ (x.image.extractLsb' 26 16).toNat →
    exec (.pausePoll port cls) s = .next { ringNow s port cls { x with paused := false } with
      pauseFrames := s.pauseFrames ++ [(port, cls, 0)] }) ∧
  (∀ (s : State) port cls c, let x := ringOf s port cls
    x.image.getLsbD 0 = true → x.paused = true → s.readCons x = some c → c ≤ x.p → (x.image.extractLsb' 26 16).toNat < x.p - c →
    exec (.pausePoll port cls) s = .next s) ∧
  (∀ (s : State) port cls, (ringOf s port cls).paused = true →
    exec (.pauseRepeat port cls) s = .next { s with pauseFrames := s.pauseFrames ++ [(port, cls, 0xFFFF)] }) ∧
  (∀ (s : State) port b (e : BitVec 272), s.armed = true → s.heldFrame = none → e ∈ s.filter → e.getLsbD 256 = true → e.getLsbD (264 + port) = true →
    (∀ k, k < 128 → (e.extractLsb' 128 128).getLsbD k = true → (e.extractLsb' 257 7).toNat + k / 8 < b.length ∧
      (nth b ((e.extractLsb' 257 7).toNat + k / 8) 0).getLsbD (k % 8) = e.getLsbD k) →
    let z := .next { s with heldFrame := some (port, b), running := if s.boot.booted = true then s.running ||| 0xA1 else s.running }
    exec (.wakeFilterMatch port b) s = z ∧ (port < 8 → 60 ≤ b.length → b.length ≤ 9212 → exec (.frameReceive port true b) s = z)) ∧
  (∀ (s : State) port b, port < 8 → 60 ≤ b.length → b.length ≤ 9212 → s.armed = true →
    (s.heldFrame ≠ none ∨ ∀ e ∈ s.filter, e.getLsbD 256 = false ∨ e.getLsbD (264 + port) = false) →
    exec (.frameReceive port true b) s = .next (portDrop s port)) ∧
  (∀ (s : State) port b, s.heldFrame = some (port, b) → s.running.getLsbD 5 = true →
    (ringOf s port (frameClass b)).image.getLsbD 0 = false →
    exec .heldFrameReplay s = .next (State.settle { s with
      armed := false, heldFrame := none, running := if s.boot.booted = true then s.running ||| 0x83 else s.running })) ∧
  (∀ (s : State) port b, s.heldFrame = some (port, b) → s.running.getLsbD 5 = true → goodFrame { s with armed := false, heldFrame := none } port b →
    (ringOf s port (frameClass b)).image.getLsbD 0 = true →
    exec .heldFrameReplay s = exec (.frameReceive port true b) { s with armed := false, heldFrame := none })

end

/-! ### Commands, runs, pre-emption and debug -/

namespace Sys2Proof.Claims

open Sys2Proof Sys2Proof.Machine Sys2Proof.Safety

/-- The first command of a queue, of which nothing has begun. -/
def headIs (s : State) (q kind : Nat) (c : Command) : Prop :=
  ∃ r, (s.swq q).cmds = c :: r ∧ (s.swq q).running = none ∧ (s.swq q).waits = false ∧ u8 c.bytes 0 = kind
/-- The state with the launch core awake (R462); a completion; a command completed, and the next one of its queue free to begin (R427, R428). -/
def awake (s : State) : State := { s with running := if s.boot.booted = true then s.running ||| 0x85 else s.running }
def completion (b : List Byte) (status result : Nat) : List Byte :=
  [BitVec.ofNat 8 (u8 b 0), BitVec.ofNat 8 status] ++ leBytes 2 (u16 b 2) ++ leBytes 4 (u32 b 4) ++ leBytes 4 result ++ leBytes 4 0
def completed (s : State) (q : Nat) (c : Command) (status result : Nat) : State :=
  { s with
    queues := tset s.queues q { s.swq q with cmds := (s.swq q).cmds.drop 1, waits := false }
    completions := s.completions ++ [(c.session, completion c.bytes status result)] }
/-- Commands come in to a module that has booted, and not past an armed filter (R423, R455; DEDUCED, log 23). -/
def listens (s : State) : Prop := s.boot.booted = true ∧ s.armed = false
/-- A command whose object's load has failed (R138). -/
def failedAs (h r : Nat) (c : Command) : Command := if u8 c.bytes 0 = 3 ∧ u32 c.bytes 8 = h then { c with failed := some r } else c
/-- A load of a queue has begun under a handle (R138): the state as it ends. -/
def loading (s : State) (q h : Nat) : Prop := s.loads.find? (fun l => l.queue == q) = some ⟨q, h⟩
def loadEnds (s : State) (q : Nat) : State := { awake s with loads := s.loads.filter fun l => l.queue != q }
/-- Items of a group's own state (R448), beside what a quad or its team holds for it. -/
def ofGroup (i : DebugItem) : Prop :=
  match i with
  | .tileCell _ _ _ _ | .tileRecord _ _ | .slotByte _ _ _ | .slotRecord _ _ | .slotScale _ _ _ | .guarded _ _ | .teamMem _ => False
  | _ => True
/-- A run command with its object, its graph and its space; what is left to check is that nothing of it is taken (R429). -/
def runnable (s : State) (q : Nat) (c : Command) (o : Obj) : Prop :=
  headIs s q 3 c ∧ runFieldsOk c.bytes = true ∧ c.failed = none ∧ s.object? (u32 c.bytes 8) = some o ∧ o.unloading = false ∧ u16 c.bytes 0xC < o.graphs.length ∧
    (s.swq q).opened = true ∧ (s.space? (u16 c.bytes 0xE)).isSome = true ∧
    ∀ l ∈ s.loads, l.handle ≠ u32 c.bytes 8

/-- The checks of a load, in their order, each with its reason (R137). What a check refuses, among other things, stands with it. -/
def ObjectChecks : Prop :=
  (∀ keys (b : List Byte), (b.length < 64 ∨ u32 b 0 ≠ 0x1A464F53 ∨ u16 b 4 ≠ 1 ∨ u16 b 6 ≠ 2 ∨ u64 b 0x18 ≠ b.length ∨
    b.length < u64 b 0x10 + 32 * u32 b 0xC) → checkObject keys b = .error 1) ∧
  (∀ keys b o, sofHeader b = .ok o → checkObject keys b =
    if o.sectionsOk = false then .error 2
    else if sha256 (bytesAt o.block 8 64) ∉ keys then .error 3
    else if blockOk o.block (b.take o.signature.off) = false then .error 4
    else if (List.range o.kernels).any (fun k => !o.recordOk k || !o.tablesOk k) then .error 5
    else if o.sections.any (fun x => x.typ == 11 && !o.graphOk (o.data x)) then .error 5
    else if (List.range o.kernels).any (fun k => !o.textOk k) then .error 6
    else .ok o) ∧
  (∀ b o, sofHeader b = .ok o → (∃ x ∈ o.sections, x.typ = 0 ∨ 15 < x.typ ∨ b.length < x.off + x.size ∨ (x.typ ≤ 10 ∧ o.kernels ≤ x.kernel)) →
    o.sectionsOk = false) ∧
  (∀ b o k t, sofHeader b = .ok o → k < o.kernels → t ∈ [1, 4, 10] → (∀ x ∈ o.sections, x.kernel = k → x.typ ≠ t) → o.sectionsOk = false) ∧
  (∀ b o, sofHeader b = .ok o → o.signature.typ ≠ 15 → o.sectionsOk = false) ∧
  (∀ (o : Sof) k, let r := o.tableOf k 4
    (u16 r 0 ≠ 1 ∨ u8 r 2 ∉ [8, 16, 32, 64] ∨ u8 r 3 < 8 ∨ 128 < u8 r 3 ∨ u8 r 3 % 8 ≠ 0 ∨ u8 r 4 = 0 ∨ 32 < u8 r 4 ∨ 7 < u8 r 5 ∨ u32 r 8 = 0 ∨ 65536 < u32 r 8 ∨
      0x40000 < u32 r 0xC ∨ u32 r 0x18 ≠ (o.tableOf k 1).length ∨ 4 * u32 r 0x28 ≠ (o.tableOf k 3).length ∨ 4 * u32 r 0x74 ≠ (o.tableOf k 10).length) →
    o.recordOk k = false) ∧
  (∀ (o : Sof) k e, e ∈ entries 8 (o.tableOf k 8) → (u32 e 0 % 4 ≠ 0 ∨ u8 e 6 = 0 ∨ 64 < u8 e 6) → o.tablesOk k = false) ∧
  (∀ (o : Sof) k, (∀ e ∈ entries 4 (o.tableOf k 10), u32 e 0 ≠ u32 (o.tableOf k 4) 0x1C) → o.textOk k = false) ∧
  (∀ (o : Sof) k e, e ∈ entries 4 (o.tableOf k 10) → u32 (o.tableOf k 1) (u32 e 0) ≠ 0x1CC → o.textOk k = false) ∧
  (∀ (o : Sof) k e, e ∈ entries 8 (o.tableOf k 8) → (o.tableOf k 1).length < u32 e 0 + u16 e 4 → o.textOk k = false) ∧
  (∀ (s : State) o home h, s.takeFrames home o.chunks.length = none → s.place o home h = .error 7) ∧
  (∀ (s z : State) fs o home h, s.takeFrames home o.chunks.length = some (fs, z) → o.relocate (loadPages s.loadPage 0 o.sections) = none →
    s.place o home h = .error 8) ∧
  (∀ (s : State) b home h, s.load b home h = match checkObject s.boot.keys b with
    | .error r => .error r
    | .ok o => match s.objects.find? fun y => y.ident == sha256 (b.take o.signature.off) with
      | some x => if x.unloading = true then .error 0x25 else .ok (s, x.handle)
      | none => (s.place o home h).map fun e => (e.1, e.2.handle))

/-- A halted group that a debugger holds, and a group that is not. -/
def haltedGroup (s : State) (g : Group) : Prop := s.group? g.gid = some g ∧ g.halted = true

end Sys2Proof.Claims

section
open Sys2Proof Sys2Proof.Machine Sys2Proof.Safety Sys2Proof.Claims

/-- R137, R138, R419, R426 to R428: LOAD_OBJECT, UNLOAD_OBJECT, UNLOAD_EFFECT, RUN_GRAPH, OPEN_QUEUE, OPEN_RING, CLOSE_RING and UNKNOWN_COMMAND (loadObject,
unloadObject, unloadEffect, runGraph, openQueue, openRing, closeRing, unknownCommand). A command waits on its queue; at its head it takes effect and
completes with its status, on the session that carried it. A load takes two steps under a handle of its own, an unload completes when it takes effect and a
second one ends with 0x25 (DEDUCED, log 36); a ring that stops ends its pause (DEDUCED, log 39); commands pass no armed filter (DEDUCED, log 23); letters by report are DESIGN CHOICE, log 12, and
UNLOAD_EFFECT does nothing while a launch runs (DESIGN CHOICE, log 17). The checks of a load stand in their order, with their reasons. -/
def Obligations.CommandsComplete : Prop :=
  (∀ (s : State) n b o, b.length = 64 → listens s →
    let x := s.swq (u16 b 2)
    let z : State := { s with running := s.running ||| 0xA3, queues := tset s.queues (u16 b 2) { x with cmds := x.cmds ++ [⟨b, o, n, none⟩] } }
    (u8 b 0 = 1 → exec (.loadObject (.arrives n b o)) s = .next z) ∧ (u8 b 0 = 2 → exec (.unloadObject (.arrives n b o)) s = .next z) ∧
    (u8 b 0 = 3 → exec (.runGraph (.arrives n b o)) s = .next z) ∧ (u8 b 0 = 4 → exec (.openQueue (.arrives n b o)) s = .next z) ∧
    (u8 b 0 = 5 → exec (.openRing (.arrives n b o)) s = .next z) ∧ (u8 b 0 = 6 → exec (.closeRing (.arrives n b o)) s = .next z) ∧
    (u8 b 0 = 0 ∨ 7 ≤ u8 b 0 → exec (.unknownCommand (.arrives n b o)) s = .next { s with
      running := s.running ||| 0xA3, completions := s.completions ++ [(n, completion b 0x20 0)] })) ∧
  (∀ (s : State) n b o, ¬listens s → ∀ i ∈ [Instr.loadObject (.arrives n b o), .unloadObject (.arrives n b o), .runGraph (.arrives n b o),
    .openQueue (.arrives n b o), .openRing (.arrives n b o), .closeRing (.arrives n b o), .unknownCommand (.arrives n b o)], exec i s = .next s) ∧
  (∀ (s : State) q c, headIs s q 1 c → (∀ l ∈ s.loads, l.queue ≠ q) → u8 c.bytes 0xC < 12 → u32 c.bytes 8 = c.object.length →
    c.object.length ≤ 2 ^ 30 → (s.swq q).opened = true →
    exec (.loadObject (.head q)) s = .next { awake s with loads := s.loads ++ [⟨q, s.fresh⟩], fresh := s.fresh + 1 }) ∧
  (∀ (s : State) q c n, headIs s q 1 c → loading s q n → exec (.loadObject (.head q)) s = .next
    (match (loadEnds s q).load c.object (u8 c.bytes 0xC) n with
      | .ok (z, h) => completed z q c 0 h
      | .error r => (completed (if r ≤ 8 then (loadEnds s q).report 2 15 [r] else loadEnds s q) q c r 0).failWaiting n r)) ∧
  ObjectChecks ∧
  (∀ (s : State) h r q, (s.failWaiting h r).swq q = { s.swq q with cmds := (s.swq q).cmds.map (failedAs h r) }) ∧
  (∀ (s : State) q c, headIs s q 1 c → (∀ l ∈ s.loads, l.queue ≠ q) →
    (12 ≤ u8 c.bytes 0xC ∨ u32 c.bytes 8 ≠ c.object.length ∨ 2 ^ 30 < c.object.length) →
    exec (.loadObject (.head q)) s = .next (completed (awake s) q c 0x20 0)) ∧
  (∀ (s : State) q c o, headIs s q 2 c → s.object? (u32 c.bytes 8) = some o → (s.swq q).opened = true → o.unloading = false →
    exec (.unloadObject (.head q)) s = .next { awake s with
      objects := s.objects.map fun (x : Obj) => if x.handle = u32 c.bytes 8 then { x with unloading := true } else x
      queues := tset s.queues q { s.swq q with waits := true } }) ∧
  (∀ (s : State) q c, headIs s q 2 c → s.object? (u32 c.bytes 8) = none →
    exec (.unloadObject (.head q)) s = .next (completed (awake s) q c 0x21 0)) ∧
  (∀ (s : State) q c o, headIs s q 2 c → s.object? (u32 c.bytes 8) = some o → (s.swq q).opened = true → o.unloading = true →
    exec (.unloadObject (.head q)) s = .next (completed (awake s) q c 0x25 0)) ∧
  (∀ (s : State) h o, s.object? h = some o → o.unloading = true → (∀ l ∈ s.launches, ∀ r, s.run? l.run = some r → r.handle ≠ h) →
    exec (.unloadEffect h) s = .next (match s.unloader h with
      | some (q, c) => completed (s.dropObject h) q c 0 0
      | none => s.dropObject h)) ∧
  (∀ (s : State) h o, s.object? h = some o → (s.dropObject h).object? h = none ∧ (∀ f ∈ o.frames, f ∉ (s.dropObject h).frames) ∧
    (∀ e ∈ (s.dropObject h).pinned, e.1 ∉ o.pages) ∧ (s.dropObject h).mem = s.mem) ∧
  (∀ (s : State) h, (∃ l ∈ s.launches, ∃ r, s.run? l.run = some r ∧ r.handle = h) → exec (.unloadEffect h) s = .next s) ∧
  (∀ (s : State) q c, headIs s q 4 c → q < 1024 → u8 c.bytes 8 < 8 → exec (.openQueue (.head q)) s = .next (completed
    { awake s with
      queues := tset s.queues q { s.swq q with opened := true, base := u8 c.bytes 8, eff := u8 c.bytes 8 } } q c 0 0)) ∧
  (∀ (s : State) q c, headIs s q 4 c → (1024 ≤ q ∨ 8 ≤ u8 c.bytes 8) →
    exec (.openQueue (.head q)) s = .next (completed (awake s) q c 0x20 0)) ∧
  (∀ (s : State) q c, headIs s q 5 c → u8 c.bytes 8 < 8 → u8 c.bytes 9 < 8 →
    let n := 8 * u8 c.bytes 8 + u8 c.bytes 9
    let x : Ring := { Ring.reset n with image := placedRecord (ringRecord c.bytes) (u8 c.bytes 8) (u8 c.bytes 9) }
    (x.recordOk = false → exec (.openRing (.head q)) s = .next (completed (awake s) q c 0x20 0)) ∧
    (x.recordOk = true → (s.swq q).opened = true → (s.space? x.asid).isSome = true →
      ∀ z, (ringClosed (awake s) (u8 c.bytes 8) (u8 c.bytes 9) false).pinRing n x = some z →
        exec (.openRing (.head q)) s = .next (completed { z with rings := tset z.rings n x } q c 0 0) ∧
        ∀ p ∈ [x.prod / 65536, x.cons / 65536], (⟨x.asid, p, .ring n⟩ : Pin) ∈ z.pins)) ∧
  (∀ (s : State) q c, headIs s q 6 c → u8 c.bytes 8 < 8 → u8 c.bytes 9 < 8 → (s.swq q).opened = true →
    exec (.closeRing (.head q)) s = .next (completed (ringClosed (awake s) (u8 c.bytes 8) (u8 c.bytes 9) false) q c 0 0))

/-- R412, R429, R432, R433, R436, R459 to R461: RUN_BEGIN, QUANTUM_BOUNDARY and QUEUE_LEVEL_RISE (runBegin, quantumBoundary, queueLevelRise). A budget
raised by its eighth rounded down is DEDUCED, log 34, a run that waits for a load of its object DEDUCED, log 36, a pair whose rings find no frames DEDUCED, log 26. -/
def Obligations.RunsAndSlots : Prop :=
  (∀ (s : State) q c, headIs s q 3 c → runFieldsOk c.bytes = false →
    exec (.runBegin q) s = .next (completed (awake s) q c 0x20 0).settle) ∧
  (∀ (s : State) q c, headIs s q 3 c → runFieldsOk c.bytes = true → (∀ l ∈ s.loads, l.handle ≠ u32 c.bytes 8) → c.failed = none → s.object? (u32 c.bytes 8) = none →
    exec (.runBegin q) s = .next (completed (awake s) q c 0x21 0).settle) ∧
  (∀ (s : State) q c r, headIs s q 3 c → runFieldsOk c.bytes = true → (∀ l ∈ s.loads, l.handle ≠ u32 c.bytes 8) → c.failed = some r →
    exec (.runBegin q) s = .next (completed (awake s) q c r 0).settle) ∧
  (∀ (s : State) q c o, headIs s q 3 c → runFieldsOk c.bytes = true → (∀ l ∈ s.loads, l.handle ≠ u32 c.bytes 8) → c.failed = none →
    s.object? (u32 c.bytes 8) = some o → o.unloading = true → exec (.runBegin q) s = .next (completed (awake s) q c 0x25 0).settle) ∧
  (∀ (s : State) q c, headIs s q 3 c → runFieldsOk c.bytes = true → (∃ l ∈ s.loads, l.handle = u32 c.bytes 8) →
    exec (.runBegin q) s = .next s.settle) ∧
  (∀ (s : State) q c o, runnable s q c o → (awake s).taken c.bytes = true →
    exec (.runBegin q) s = .next (completed (awake s) q c 0x22 0).settle) ∧
  (∀ (s : State) q c o, runnable s q c o → (awake s).taken c.bytes = false → le c.bytes 0x20 8 ≠ 0 →
    (12 ≤ u8 c.bytes 0x2C ∨ u16 c.bytes 0x10 / 2 ^ u8 c.bytes 0x2C % 2 = 0 ∨ u16 c.bytes 0x2E < u16 c.bytes 0x14 ∨
      u16 c.bytes 0x14 + u16 c.bytes 0x16 ≤ u16 c.bytes 0x2E ∨ u8 c.bytes 0x2A = 0 ∨ 16 < u8 c.bytes 0x2A ∨
      u16 c.bytes 0x30 ∉ [16, 32, 64] ∨ u16 c.bytes 0x32 ∉ [16, 32]) →
    exec (.runBegin q) s = .next (completed (awake s) q c 0x23 0).settle) ∧
  (∀ (s : State) q c o i, runnable s q c o → (awake s).taken c.bytes = false → i < 256 → s.run? i = none → (∀ j, j < i → s.run? j ≠ none) →
    le c.bytes 0x20 8 = 0 →
    exec (.runBegin q) s = .next ((awake s).startRun ⟨i, q, u32 c.bytes 8, u16 c.bytes 0xC, c.bytes, c.session, [], [], [], false, 0, false⟩).settle) ∧
  (∀ (s : State) q c o i, runnable s q c o → (awake s).taken c.bytes = false → i < 256 → s.run? i = none → (∀ j, j < i → s.run? j ≠ none) →
    le c.bytes 0x20 8 ≠ 0 → pairOk c.bytes = true →
    let r : Run := ⟨i, q, u32 c.bytes 8, u16 c.bytes 0xC, c.bytes, c.session, [], [], [], false, 0, false⟩
    exec (.runBegin q) s = .next (match (awake s).setupPair r with
      | some z => z.startRun r
      | none => completed { awake s with frees := s.frees + 1 } q c 0x23 0).settle) ∧
  (∀ (s : State) q c o, runnable s q c o → (awake s).taken c.bytes = false → (le c.bytes 0x20 8 = 0 ∨ pairOk c.bytes = true) → (∀ i, i < 256 → s.run? i ≠ none) →
    exec (.runBegin q) s = .next s.settle) ∧
  (∀ (s : State) inst b d n, d < 12 → u16 b 0x10 / 2 ^ d % 2 = 1 → u16 b 0x14 ≤ n → n < u16 b 0x14 + u16 b 0x16 → n < 4096 →
    (s.assign inst b).sem d n = 0) ∧
  (∀ (s : State) inst b d n, d < 12 → u16 b 0x10 / 2 ^ d % 2 = 1 → n < 64 → le b 0x18 8 / 2 ^ n % 2 = 1 →
    (((s.assign inst b).die d).channel n).owner = some inst ∧ (((s.assign inst b).die d).channel n).seqno = 0) ∧
  (∀ (s : State), exec .quantumBoundary s =
    .next ((((s.atLeast ((s.now / 250000 + 1) * 250000)).remap).powerBoundary).planBoundary).settle) ∧
  (∀ (s : State) c, c < 768 → s.boot.lowPower = true →
    ((s.powerBoundary).core c).budget = (s.core c).budget - (s.core c).budget / 8) ∧
  (∀ (s : State) c, c < 768 → s.boot.lowPower = false → 100 ≤ s.boot.calmMs →
    ((s.powerBoundary).core c).budget = min (s.core c).configured ((s.core c).budget + (s.core c).budget / 8)) ∧
  (∀ (s : State) n p f g, s.boot.selected = some n → s.boot.plans[n]? = some p → p.clocks = some (f, g) →
    (s.planBoundary).boot = { s.boot with plan := n, selected := none, fMHz := f, gMHz := g } ∧
      (∀ d, d < 12 → ((s.planBoundary).die d).stopped = true) ∧ ∀ t ∈ (s.planBoundary).teams, t.state ≠ .resident) ∧
  (∀ (p : Plan) f g, p.clocks = some (f, g) → 880 ≤ f ∧ f ≤ 1000 ∧ 1550 ≤ g ∧ g ≤ 1650 ∧
    (∀ b ∈ p.bands, ∀ h, 1 ≤ h → h ≤ 16 → ¬(b.1 ≤ h * f * 1000 ∧ h * f * 1000 ≤ b.2)) ∧
    ∀ v, 880 ≤ v → v ≤ 1000 → inBand v p.bands = false → absDiff (1000 * f) p.f ≤ absDiff (1000 * v) p.f) ∧
  (∀ (s : State) q, (s.swq q).running ≠ none → s.mapped q = false →
    let z := s.atLeast ((s.swq q).waitFrom + 10000000)
    10000000 ≤ z.now - (s.swq q).waitFrom ∧ exec (.queueLevelRise q) s = .next { z with queues := tset s.queues q { s.swq q with
      eff := min 7 ((s.swq q).eff + 1), waitFrom := (s.swq q).waitFrom + 10000000 } })

/-- R445 to R449: PREEMPT and TEAM_RESUME (preempt, teamResume). Blocked units are undone; copies that drain hold the team; then it is discarded, its threads at
their regions' entries, or saved with its claims and commands in a save area of frames (DESIGN CHOICE, log 35); it resumes with its registers as they were. A row that cannot
occur changes nothing (DESIGN CHOICE, log 17). -/
def Obligations.PreemptAndResume : Prop :=
  (∀ (s : State) (t : Team), s.team? t.tuid = some t → (t.state ≠ .stopping ∨ s.teamQuiet t = false) → exec (.preempt t.tuid) s = .next s) ∧
  (∀ (s : State) (t : Team), s.team? t.tuid = some t → t.state = .stopping → s.teamQuiet t = true → ((s.preemptDrain t).draining t.tuid = true ∨ (s.preemptDrain t).saveRoom t.tuid = false) →
    exec (.preempt t.tuid) s = .next (s.preemptDrain t)) ∧
  (∀ (s : State) (t : Team), s.team? t.tuid = some t → t.state = .stopping → s.teamQuiet t = true → (s.preemptDrain t).draining t.tuid = false →
    (s.preemptDrain t).saveRoom t.tuid = true →
    exec (.preempt t.tuid) s = .next ((s.preemptDrain t).preemptEnd t.tuid).settle) ∧
  (∀ (s : State) (t : Team) l, s.team? t.tuid = some t → s.launch? t.lid = some l →
    let y := if s.discards t l then s.discardTeam t l else s.saveTeam t
    let z := y.modTeam t.tuid fun x => { x with drainBy := some ((y.now / 250000 + 1) * 250000) }
    s.preemptEnd t.tuid = t.cores.foldl (fun acc c => acc.leaveChutes t c) (z.leaveQuad t)) ∧
  (∀ (s z : State) (t : Team) fs, s.takeFrames t.die t.areaPages = some (fs, z) → (s.saveTeam t).team? t.tuid = (s.team? t.tuid).map fun x =>
    let mine (h : Option Nat) : Bool := match h with
      | some g => s.groups.any fun y => y.gid == g && y.tuid == t.tuid
      | none => false
    { x with state := .saved, area := fs, slots := (s.quad t.quadNo).slots.filter fun e => mine e.2.holder,
             tiles := (s.quad t.quadNo).tiles.filter fun e => mine e.2.holder,
             cmds := heldCmds (s.quad t.quadNo).cmds ((s.groups.filter fun g => g.tuid == t.tuid).map (·.gid)) }) ∧
  (∀ (t : Thread), t.unblock.monitor = none ∧ t.unblock.pc = t.pc ∧ t.unblock.v = t.v ∧ t.unblock.p = t.p ∧ t.unblock.b = t.b ∧
    ((∃ k n, t.status = .blocked k n ∧ k ≠ .tret) → t.unblock.status = .ready)) ∧
  (∀ (t : Thread) (l : Launch) tag e d, t.exited = false → t.regionNow l = some (e, d) →
    t.discard l tag = { t.leaveUnit e false with
      pc := e, region := some (e, d), repctr := 0, spinAdr := 0, spin := 0, forced := none, status := .ready, tag := tag }) ∧
  (∀ (t : Thread) e own u k m, (u, k, m) ∈ t.valued → u ≠ e → (own = true → m = t.inHandler) → (u, k, m) ∉ (t.leaveUnit e own).valued ∧
    ∀ b, t.b[k]? = some b → (t.leaveUnit e own).b[k]? = some { b with st := 0 }) ∧
  (∀ (t : Thread) e own k, (∀ x ∈ t.valued, x.2.1 = k → x.1 = e ∨ (own = true ∧ x.2.2 ≠ t.inHandler)) → (t.leaveUnit e own).b[k]? = t.b[k]?) ∧
  (∀ (s : State) (t : Team), s.team? t.tuid = some t → t.state = .resident → t.dealers = [] → exec (.teamResume t.tuid) s = .next s) ∧
  (∀ (s : State) (t : Team) l, s.team? t.tuid = some t → t.state ≠ .resident → t.state ≠ .stopping → s.launch? t.lid = some l →
    (∃ q, s.queueOf l = some q ∧ s.mapped q = false) → exec (.teamResume t.tuid) s = .next s) ∧
  (∀ (s : State) (t : Team) l q core places, s.team? t.tuid = some t → t.state ≠ .resident → t.state ≠ .stopping → s.launch? t.lid = some l →
    s.queueOf l = some q → s.mapped q = true → s.resumeCore t l = some (core, places) → ∃ z : State,
    exec (.teamResume t.tuid) s = .next ((((z.restoreCopies t.copies).resumeDealers t.tuid).settleQuad (16 * (core / 64) + core % 64 / 4)).sendPeers).settle ∧
      z.team? t.tuid = some { t with
        die := core / 64, core := core % 64, state := .resident, drainBy := none, slots := [], tiles := [], cmds := [], copies := [], area := [] } ∧ (∀ f ∈ t.area, f ∉ z.frames) ∧
      z.groups.length = s.groups.length ∧ ∀ (k i : Nat) (g h : Group) (x y : Thread), s.groups[k]? = some g → z.groups[k]? = some h → g.threads[i]? = some x →
        h.threads[i]? = some y → h.gid = g.gid ∧ h.s = g.s ∧ y.pc = x.pc ∧ y.v = x.v ∧ y.p = x.p ∧ y.b = x.b ∧ y.stack = x.stack ∧ y.ret = x.ret)

/-- R451 to R453: HALT_REQUEST, STEP_ALL, STEP_ONE, DEBUG_RESUME, DEBUG_STATE_READ and DEBUG_STATE_WRITE (haltRequest, stepAll, stepOne, debugResume,
debugStateRead, debugStateWrite). How items are named and written as 64 bits is DESIGN CHOICE, log 47; which `mwait` a debugger's stop ends is free (DESIGN CHOICE, log 4). A row that
cannot occur changes nothing (DESIGN CHOICE, log 17). -/
def Obligations.DebuggerSteps : Prop :=
  (∀ (s : State) (g : Group), s.group? g.gid = some g → g.halted = false →
    exec (.haltRequest g.gid) s = .next (s.modGroup g.gid fun h => { h with halting := true }).settle) ∧
  (∀ (s : State) (g : Group), haltedGroup s g → exec (.haltRequest g.gid) s = .next s) ∧
  (∀ (s : State) (g : Group), haltedGroup s g → g.threads.length ≤ 64 → g.stepping = [] → ∃ l : List (List Nat),
    exec (.stepAll g.gid) s = .next (s.modGroup g.gid fun h => { h with stepping := l }) ∧
      (∀ x ∈ s.haltedReady g, ∃ u ∈ l, x.tid ∈ u) ∧ (∀ u ∈ l, ∀ i ∈ u, ∃ x ∈ s.haltedReady g, x.tid = i) ∧
      ∀ u ∈ l, ∀ x ∈ s.haltedReady g, ∀ y ∈ s.haltedReady g, x.tid ∈ u → y.tid ∈ u → x.th.pc = y.th.pc ∧ x.th.tag = y.th.tag) ∧
  (∀ (s : State) (g : Group), haltedGroup s g → s.haltedReady g = [] → exec (.stepOne g.gid) s = .next s) ∧
  (∀ (s : State) (g : Group) x, haltedGroup s g → g.stepping = [] → s.haltedReady g = [x] →
    (∀ t ∈ g.threads, t.tag = x.th.tag → t.exited = true ∨ t.lane = x.th.lane) →
    exec (.stepOne g.gid) s = .next (s.modGroup g.gid fun h => { h with stepping := [[x.tid]] })) ∧
  (∀ (s : State) (g : Group), haltedGroup s g → g.heldTraps = [] →
    exec (.debugResume g.gid) s = .next ((s.stopReturns g.gid).modGroup g.gid fun h =>
      { h.letGo (s.core h.coreNo).cycles with halted := false, halting := false, haltRecord := none, stepping := [] }).settle) ∧
  (∀ (s : State) (g : Group), s.group? g.gid = some g → g.halted = false → g.halting = false → exec (.debugResume g.gid) s = .next s) ∧
  (∀ (s : State) (g : Group) i, haltedGroup s g →
    exec (.debugStateRead g.gid i) s = .next { s with answers := s.answers ++ [.debug g.gid (s.itemOf g i)] } ∧
      (ofGroup i → s.itemOf g i = g.item i)) ∧
  (∀ (s : State) (g : Group) i v, haltedGroup s g → ofGroup i → exec (.debugStateWrite g.gid i v) s = .next (s.modGroup g.gid fun h => h.setItem i v)) ∧
  (∀ (s : State) (g : Group) t r c k, haltedGroup s g → let q := s.quad g.quadNo
    (q.heldTile g.gid t = true → s.itemOf g (.tileCell t r c k) = (((q.tile t).cell r c).read (cellPart k)).setWidth 64) ∧
    (q.heldTile g.gid t = false → s.itemOf g (.tileCell t r c k) = 0)) ∧
  (∀ (s : State) (g : Group) t r c k (v : Dword), haltedGroup s g → let q := s.quad g.quadNo
    exec (.debugStateWrite g.gid (.tileCell t r c k) v) s = .next (if q.heldTile g.gid t = true then
      s.setQuad g.quadNo (q.setTile t ((q.tile t).setCell r c (((q.tile t).cell r c).write (cellPart k) ((q.tile t).mode == 1) (v.setWidth 32))))
      else s)) ∧
  (∀ (g : Group) (t n : Nat) (x : Thread) (v : Dword), g.threads[t]? = some x → n < x.v.length →
    (g.setItem (.vreg t n) v).item (.vreg t n) = (v.setWidth 32).setWidth 64 ∧
      ∀ m, m ≠ n → (g.setItem (.vreg t n) v).item (.vreg t m) = g.item (.vreg t m)) ∧
  (∀ (g : Group) (t : Nat) (x : Thread) (v : Dword), g.threads[t]? = some x →
    (g.setItem (.pc t) v).item (.pc t) = (v.setWidth 32).setWidth 64 ∧ ∀ u, u ≠ t → (g.setItem (.pc t) v).item (.pc u) = g.item (.pc u)) ∧
  (∀ (g : Group) (n : Nat) (v : Dword), n < g.s.length → (g.setItem (.sreg n) v).item (.sreg n) = v ∧
    ∀ m, m ≠ n → (g.setItem (.sreg n) v).item (.sreg m) = g.item (.sreg m)) ∧
  (∀ (g : Group) (v : Dword), (g.setItem .trapepc v).item .trapepc = (v.setWidth 32).setWidth 64 ∧ (g.setItem .trapinfo v).item .trapinfo = v ∧
    (g.setItem .trapmask v).item .trapmask = v ∧ (g.setItem .trapcause v).item .trapcause = (v.setWidth 32).setWidth 64 ∧
    (g.setItem .trapbase v).item .trapbase = (v.setWidth 32).setWidth 64 ∧ (g.setItem .window v).item .window = (v.setWidth 9).setWidth 64) ∧
  (∀ (g : Group) (t : Nat) (x : Thread) (v : Dword), g.threads[t]? = some x → (g.setItem (.unacked t) v).item (.unacked t) = v ∧
    (g.setItem (.tag t) v).item (.tag t) = v) ∧
  (∀ (g : Group) (t k : Nat) (x : Thread) (a : Access) bs (v : Dword), g.threads[t]? = some x → (x.ops.filter (·.op.isStore))[k]? = some a →
    g.item (.store t k 0) = a.va ∧ (a.op = .store bs → bs.length = 8 → a.queued = false → (g.setItem (.store t k 1) v).item (.store t k 1) = v)) ∧
  (∀ (g : Group) (v : Dword), (g.setItem .handlerMode v).handler = v.getLsbD 0 ∧
    (∀ c l, g.haltRecord = some (c, l) → g.item .haltCode = BitVec.setWidth 64 c ∧ ∀ t w, l.find? (fun e => e.1 == t) = some (t, w) →
      g.item (.haltPc t) = BitVec.setWidth 64 w) ∧ (g.haltRecord = none → g.item .haltCode = 0 ∧ ∀ t, g.item (.haltPc t) = 0)) ∧
  (∀ (s : State) (g : Group) off p (v : Dword), haltedGroup s g → s.teamPlace g off = some p →
    s.itemOf g (.teamMem off) = BitVec.ofNat 64 (leNat (s.readPlace p 8)) ∧
    exec (.debugStateWrite g.gid (.teamMem off) v) s = .next (s.writePlace p (leBytes 8 v.toNat))) ∧
  (∀ (t : Thread) b now, (∀ npc, t.status ≠ .blocked .mwait npc) → t.stopReturns b now = t)

end

/-! ### System cores -/

namespace Sys2Proof.Claims

open Sys2Proof Sys2Proof.Machine Sys2Proof.Safety

/-- The boot record changed, and nothing else. -/
def bootNow (s : State) (b : Boot) : State := { s with boot := b }
/-- A machine with a run, a ring, or a debug session, or armed already, is not gated (R462). -/
def mayGate (s : State) : Prop :=
  s.boot.booted = true ∧ s.runs = [] ∧ (∀ e ∈ s.rings, e.2.image.getLsbD 0 = false) ∧ (∀ g ∈ s.groups, g.attached = false ∧ g.halting = false) ∧
    s.armed = false

end Sys2Proof.Claims

section
open Sys2Proof Sys2Proof.Machine Sys2Proof.Safety Sys2Proof.Claims

/-- R425: LETTER_SEND, LETTER_ARRIVAL and LETTERBOX_REFUSED_CLEAR (letterSend, letterArrival, letterboxRefusedClear). A letter takes the next sequence number of
its ordered pair and stands last in its box; the receiver has an interrupt when the box was empty, and the sender a refused bit when it was full, until a send to it is
taken (DEDUCED, log 33). Page letters stay for the row that serves them; an arrival with no letter changes nothing (DESIGN CHOICE, log 17). -/
def Obligations.Letters : Prop :=
  (∀ (s : State) src dst kind b, src < 8 → dst < 8 → src ≠ dst → kind < 256 →
    let k := 8 * src + dst
    exec (.letterSend src dst kind b) s = .next { s with
      letters := tset s.letters k (tget s.letters k [] ++ [⟨kind, tget s.letterSeq k 1, (b ++ List.replicate 56 0).take 56⟩])
      letterSeq := tset s.letterSeq k (tget s.letterSeq k 1 + 1)
      irqs := if tget s.letters k [] = [] then s.irqs ||| (1 <<< dst : BitVec 8) else s.irqs
      refused := if 16 ≤ (tget s.letters k []).length then tset s.refused src (tget s.refused src 0 ||| (1 <<< dst : BitVec 8))
        else if (tget s.refused src 0).getLsbD dst then tset s.refused src (tget s.refused src 0 &&& ~~~(1 <<< dst : BitVec 8)) else s.refused }) ∧
  (∀ (s : State) src dst kind b, (8 ≤ src ∨ 8 ≤ dst ∨ src = dst) → exec (.letterSend src dst kind b) s = .next s) ∧
  (∀ (s : State) src dst l r, tget s.letters (8 * src + dst) [] = l :: r → l.kind ≠ 0x21 → l.kind ≠ 0x22 →
    let z : State := { s with
      running := if s.boot.booted = true then s.running ||| 0x81 ||| (1 <<< dst : BitVec 8) else s.running
      irqs := s.irqs &&& ~~~(1 <<< dst : BitVec 8)
      letters := tset s.letters (8 * src + dst) r }
    exec (.letterArrival src dst) s = .next (if r.length = 16 ∧ (tget s.refused src 0).getLsbD dst = true
      then { z with refused := tset s.refused src (tget s.refused src 0 &&& ~~~(1 <<< dst : BitVec 8)) } else z)) ∧
  (∀ (s : State) src dst l r, tget s.letters (8 * src + dst) [] = l :: r → (l.kind = 0x21 ∨ l.kind = 0x22) →
    exec (.letterArrival src dst) s = .next { s with
      running := if s.boot.booted = true then s.running ||| 0x81 ||| (1 <<< dst : BitVec 8) else s.running
      irqs := s.irqs &&& ~~~(1 <<< dst : BitVec 8) }) ∧
  (∀ (s : State) src dst, tget s.letters (8 * src + dst) [] = [] → exec (.letterArrival src dst) s = .next s) ∧
  (∀ (s : State) core (m : BitVec 8), exec (.letterboxRefusedClear core m) s = .next { s with
    refused := tset s.refused core (tget s.refused core 0 &&& ~~~m) })

/-- R454 to R457: POWER_ON, BOOT_FAIL_BLINK and ATTESTATION_REQUEST (powerOn, bootFailBlink, attestationRequest). An image is accepted only when its key is the
fused one, its signature holds and its version is no lower than the fuses' count; copy B is tried second; then the pins show the reason.
The pins' codes stand in the order in which they show, and devices come with the boot, port 0 first (DEDUCED, log 40). A row
that cannot occur changes nothing (DESIGN CHOICE, log 17). -/
def Obligations.SecureBoot : Prop :=
  (∀ (s : State) hbm br dv, s.boot.booted = false → s.boot.blinking = false → exec (.powerOn hbm ⟨br, dv⟩) s = .next
    (match checkImage 0 s.boot.count, checkImage (64 * 2 ^ 20) s.boot.count with
      | .ok b, _ => s.bootWith b [1] hbm br dv
      | .error _, .ok b => s.bootWith b [1, 2] hbm br dv
      | .error _, .error q => bootNow s { s.boot with pins := 0xE, shown := [1, 2, 0xE], reason := BitVec.ofNat 4 q, blinking := true })) ∧
  (∀ o r, match checkImage o r with
    | .ok b => r ≤ u32 b 4 ∧ u32 b 0 = 0x4D494E5A ∧ b.length = u32 b 0xC ∧ ∃ sig, flashBytes (o + b.length) 136 = some sig ∧
        flashBytes o b.length = some b ∧ sha256 (bytesAt sig 8 64) = Config.fusedKeyHash ∧ blockOk sig b = true
    | .error n => n ≠ 0) ∧
  (∀ (s : State) b pins hbm br dv, let z := s.bootWith b pins hbm br dv
    z.boot.shown = pins ++ [3, 0] ∧ (∀ n, n < 8 → z.boot.firmware[n]? = some (imagePart b n)) ∧
      (z.boot.drivers = true ↔ ∃ x ∈ imageParts b, x.typ = 0x10) ∧ z.boot.keyDraw = s.frees ∧ z.running = 0xFF ∧ z.boot.booted = true ∧ z.boot.rollback = some (max s.boot.count (u32 b 4)) ∧ z.boot.imageHash = sha256 b ∧
      z.boot.pins = 0 ∧ z.boot.hbm = hbm ∧ z.boot.n = u8 (imagePart b 0x12) 0 ∧ z.boot.position = u8 (imagePart b 0x12) 1 ∧ z.groups = s.groups ∧
      z.mem = s.mem ∧ z.now = s.now) ∧
  (∀ (s : State) dv, dv.Pairwise (fun x y => x.1 ≤ y.1) → (∀ e ∈ dv, e.1 < 8) → s.enumerate dv = dv.foldl (fun t e => t.hotAdd e.1 e.2) s) ∧
  (∀ (s : State) a b, (∀ p, p < 8 → a.filter (fun e => e.1 == p) = b.filter (fun e => e.1 == p)) → s.enumerate a = s.enumerate b) ∧
  (∀ (s : State), s.boot.blinking = true → exec .bootFailBlink s = .next { s.atLeast (s.now + 500000000) with
    boot := { s.boot with
      pins := if s.boot.pins = 0xE then s.boot.reason else 0xE
      shown := s.boot.shown ++ [if s.boot.pins = 0xE then s.boot.reason else 0xE] } }) ∧
  (∀ (s : State) t, s.now ≤ t → (s.atLeast t).now = t ∧
    (s.atLeast t).tokenClock = s.tokenClock + (t * s.boot.gMHz / 1000 - s.now * s.boot.gMHz / 1000)) ∧
  (∀ (s : State), s.boot.blinking = false → exec .bootFailBlink s = .next s) ∧
  (∀ (s : State) nonce, s.boot.booted = true → nonce.length = 32 →
    let b := nonce ++ s.boot.imageHash ++ leBytes 4 s.boot.count ++ leBytes 4 s.boot.plan ++ List.replicate 24 0
    exec (.attestationRequest nonce) s = .next { s with reports := s.reports ++ [b ++ beBytes 64 (Config.identitySign b).toNat] } ∧
      (s.boot.imageHash.length = 32 → (b ++ beBytes 64 (Config.identitySign b).toNat).length = 160)) ∧
  (∀ (s : State) nonce, s.boot.booted = false → exec (.attestationRequest nonce) s = .next s)

/-- R322, R423, R459 to R463: PLAN_SELECT, CLOCK_RELOCK, POWER_SAMPLE, WEAR_SAMPLE, HEALTH_REPORT, SYSTEM_CORE_GATE and POWER_LOSS (planSelect, clockRelock,
powerSample, wearSample, healthReport, systemCoreGate, powerLoss). The report's layout (DESIGN CHOICE, log 27) and that wear survives and a module without a boot
answers no plan or report (DEDUCED, log 27) are the model's; a gating writes and arms the filter in its own step (DEDUCED, log 23); CLOCK_RELOCK and SYSTEM_CORE_GATE do nothing where they
cannot occur (DESIGN CHOICE, log 17); the refusal's letter is DESIGN CHOICE, log 12. -/
def Obligations.ClocksPowerHealth : Prop :=
  (∀ (s : State) n p c, s.boot.booted = true → s.boot.plans[n]? = some p → p.clocks = some c →
    exec (.planSelect n) s = .next (bootNow s { s.boot with selected := some n })) ∧
  (∀ (s : State) n, s.boot.booted = false → exec (.planSelect n) s = .next s ∧ exec .healthReport s = .next s) ∧
  (∀ (s : State) n, s.boot.booted = true → (∀ p, s.boot.plans[n]? = some p → p.clocks = none) → exec (.planSelect n) s = .next (s.report 7 12 [n])) ∧
  (∀ (s : State) d, (s.die d).stopped = true → (∀ t ∈ s.teams, t.placed = true → t.die ≠ d) →
    exec (.clockRelock d) s = .next { s with dies := tset s.dies d { s.die d with stopped := false } }) ∧
  (∀ (s : State) d, (∃ t ∈ s.teams, t.placed = true ∧ t.die = d) → exec (.clockRelock d) s = .next s) ∧
  (∀ (s : State) w, 9 ≤ s.boot.watts.length →
    let l := w :: s.boot.watts.take 9
    let drawn := l.foldl (fun a b => a + b) 0
    exec (.powerSample w) s = .next (bootNow s { s.boot with
      watts := l
      lowPower := s.boot.lowPower || decide (10 * 5810 < drawn)
      calmMs := if drawn < 10 * 5500 then s.boot.calmMs + 1 else 0 })) ∧
  (∀ (s : State) d n, d < 12 → n ≤ 1000 → ∃ l, (∃ a, a ++ l = (s.die d).samples ++ [n]) ∧ l.length = min 30 ((s.die d).samples.length + 1) ∧
    exec (.wearSample d n) s = .next { s with dies := tset s.dies d { s.die d with wear := n, samples := l } }) ∧
  (∀ (s : State), s.boot.booted = true → ∃ b : List Byte, exec .healthReport s = .next { s with reports := s.reports ++ [b] } ∧ b.length = 53 ∧
    ∀ d, d < 12 → u16 b (4 * d) = (s.die d).wear % 65536 ∧ u16 b 48 ≤ u16 b (4 * d + 2)) ∧
  (∀ (s : State) l, mayGate s → l.length ≤ 32 → (∀ e ∈ l, (BitVec.extractLsb' 257 7 e).toNat ≤ 112) →
    exec (.systemCoreGate l) s = .next { s with filter := l, armed := true, heldFrame := none, running := 0 }) ∧
  (∀ (s : State) l, (s.runs ≠ [] ∨ ∃ e ∈ s.rings, e.2.image.getLsbD 0 = true) → exec (.systemCoreGate l) s = .next s) ∧
  (∀ (s : State), ∃ z : State, exec .powerLoss s = .next z ∧ z.mem = [] ∧ z.sram = [] ∧ z.groups = [] ∧ z.sems = [] ∧ z.ports = [] ∧ z.running = State.reset.running ∧
    z.boot = { Boot.reset with rollback := s.boot.rollback } ∧ ∀ d, (z.die d).wear = (s.die d).wear ∧ (z.die d).proxy = [])

end

/-! ### Reset, steps, encodings, memory -/

section
open Sys2Proof Sys2Proof.Machine Sys2Proof.Safety Sys2Proof.Claims

/-- R22, R45, R51, R375, R391, R396, R419, R425, R455: the values that the spec gives at reset, and those that a thread and a group start with; both memories
have their canonical form. The token clock's zero is the model's (DESIGN CHOICE, log 2). -/
def Obligations.ResetState : Prop :=
  (∀ die n, State.reset.sem die n = 0) ∧ (∀ c, (State.reset.core c).budget = 256 ∧ (State.reset.core c).cycles = 0 ∧
    ∀ n, (State.reset.core c).chute n = []) ∧
  (∀ q n, ((State.reset.quad q).slot n).holder = none ∧ ((State.reset.quad q).tile n).holder = none) ∧ (∀ d, (State.reset.die d).drainLimit = 20) ∧
  (∀ i, (tget State.reset.windows i 0 : BitVec 128) = 0) ∧ (∀ p c, p < 8 → c < 8 → (ringOf State.reset p c).image = BitVec.ofNat 256 (c * 2 ^ 14 + p * 2 ^ 8) ∧
    (ringOf State.reset p c).p = 0) ∧ State.reset.resendAfter = 200000 ∧
  (∀ a b, State.reset.box a b = []) ∧ State.reset.running = 1 ∧ State.reset.boot.pins = 1 ∧ State.reset.tokenClock = 0 ∧ State.reset.groups = [] ∧
  State.reset.launches = [] ∧ Memory.wf State.reset.mem = true ∧ Memory.wf State.reset.sram = true ∧
  (∀ gid tuid lid number team width nregs core ctx base regBase handler entry payload s0 s1 stamp tag i (t : Thread),
    let g := Group.start gid tuid lid number team width nregs core ctx base regBase handler entry payload s0 s1 stamp tag
    g.threads[i]? = some t →
    (∀ n, 2 ≤ n → nth g.s n 0 = 0) ∧ (∀ n, nth g.g n 0 = 0) ∧ g.window = 0 ∧ g.threads.length = width ∧ t.pc = entry ∧ t.lane = base + i ∧
      (∀ n, t.pred n = decide (n = 0)) ∧ (payload = [] → ∀ n, t.reg n = 0) ∧ (∀ n, (t.bracket n).st = 0) ∧ t.ret = [] ∧ t.repctr = 0)

/-- R8, R23, R81, R179, R310, R454: a step makes one of the moves that are open. Where it issues on a core, it runs the instruction that the unit's words
decode to, with the issue record of that unit, and a unit that does not decode runs the trap instead; where it takes an occurrence, it runs that row, and
every row of the part's own steps answers a next state; a gated core that owns what it asks comes back first (DEDUCED, log 27). Time passes with it, what holds then
takes effect, and a soft error may strike a word, or be corrected in a die's own stores (DESIGN CHOICE, log 49). With no move, an idle module waits (DESIGN CHOICE, log 41), and one without
power stops (DESIGN CHOICE, log 28). -/
def Obligations.StepRunsUnit : Prop :=
  (∀ (s : State) core lid pc trick i, s.moves = [.issue core] → s.elapse.pick core = some (lid, pc, trick) →
    (s.elapse.begin core lid pc trick).1 = .ok i →
    step s = ended (match exec i (s.elapse.begin core lid pc trick).2 with
      | .next t => if t.repeating then execRepRepetition t else .next t
      | o => o)) ∧
  (∀ (s : State) x i, s.moves = [.again x] → (s.elapse.again x).1 = .ok i →
    step s = ended (match exec i (s.elapse.again x).2 with
      | .next t => if t.repeating then execRepRepetition t else .next t
      | o => o)) ∧
  (∀ (s : State) core lid pc trick e, s.moves = [.issue core] → s.elapse.pick core = some (lid, pc, trick) →
    (s.elapse.begin core lid pc trick).1 = .error e →
    step s = ended (exec (.illegalInstruction e.cause e.word) (s.elapse.begin core lid pc trick).2)) ∧
  (∀ (s : State) core lid pc trick (l : Launch) u, s.launch? lid = some l → pc.toNat < l.kernel.textSize →
    decodeUnit (s.textWord l) l.kernel.textSize pc = .ok u → (∀ x ∈ trick, s.restricted u x = false) →
    (∀ p, u.pfx.rep = some p → s.firstRep trick ≤ p.cnt.toNat) →
    (s.begin core lid pc trick).1 = .ok u.ins ∧
      (s.begin core lid pc trick).2.issue = ⟨core, lid, pc, u.ipc, u.npc, u.pfx, s.firstRep trick, s.fresh, trick, none⟩) ∧
  (∀ (s : State) i r, s.moves = [.input] → s.inputs = i :: r → i.core = none → step s = ended (exec i { s.elapse with
    inputs := r
    running := if s.elapse.boot.booted = true then (ownersOf i).foldl (fun w c => w ||| 0x81 ||| (1 <<< c : BitVec 8)) s.elapse.running
      else s.elapse.running })) ∧
  (∀ i s, i.core = none → ∃ t, exec i s = .next t) ∧
  (∀ (s : State), s.moves ≠ [] → ∃ m ∈ s.moves, step s = ended (m.apply s.elapse)) ∧
  (∀ (s : State), s.moves = [] → step s = if s.boot.booted = false ∧ s.boot.blinking = false then .fault .noPower else .next (s.elapse.wait 1 1)) ∧
  (∀ (s : State), ended (.next s) = .next ((s.settle.freed).replayHeld).upset ∧
    (s.upset = s ∨ (∃ a b, s.upset = { s with softWords := a, badWords := b }) ∨ (∃ a b, s.upset = { s with teamSoft := a, teamBad := b }) ∨
      ∃ d w, d < 12 ∧ s.upset = ({ s with dies := tset s.dies d { s.die d with corrected := (s.die d).corrected + 1 } } : State).report 3 21 [w]))

/-- R65 to R67, R94 to R104: words that the spec works out by hand decode to the instructions that they stand for. -/
def Obligations.DecodedWords : Prop :=
  decodeWords 0x0C060CD0 0 = .ok (.fmaxF32Short ⟨6, 6, ⟨.vec, 6⟩⟩) ∧
  decodeWords 0x12050CC1 0x00264000 = .ok (.fadd ⟨6, .vec, ⟨.vec, 5⟩, ⟨.vec, 9⟩, ⟨.vec, 0⟩, 2, false, 0, .f32, 0⟩) ∧
  decodeWords 0x0E820805 0x00400000 = .ok (.iadd ⟨4, .vec, ⟨.vec, 2⟩, ⟨.scal, 7⟩, ⟨.vec, 0⟩, 0, false, 1, .i32, 0⟩) ∧
  decodeWords 0x02000659 0x012C0020 = .ok (.tlog ⟨3, .vec, ⟨.vec, 0⟩, ⟨.vec, 1⟩, ⟨.vec, 2⟩, 0, false, 4, .f16x2, 0⟩) ∧
  decodeWords 0x01850A1F 0x00010000 = .ok (.iaddrUi32Limm ⟨5, 5, ⟨.lit, 0⟩, 0x10000⟩) ∧
  decodeWords 0x51810681 0x00040005 = .ok (.sadd ⟨3, .scal, ⟨.scal, 1⟩, ⟨.lit, 40⟩, ⟨.vec, 0⟩, 0, false, 0, .i64, 0⟩) ∧
  decodeWords 0xFFFFFBC0 0 = .ok (.braShort 0x7FFFFD) ∧
  decodeWords 0x000001D9 0x00012000 = .ok (.exit ⟨0, .vec, ⟨.vec, 0⟩, ⟨.vec, 0⟩, ⟨.vec, 0⟩, 1, true, 0, .i32, 0⟩) ∧
  decodeWords 0x0C8001F1 0x00400000 = .ok (.csrWr ⟨0, .vec, ⟨.vec, 0⟩, ⟨.scal, 6⟩, ⟨.vec, 0⟩, 0, false, 1, .i32, 0⟩) ∧
  decodeWords 0x00040B21 0x26340000 = .ok (.cvt ⟨5, .vec, ⟨.vec, 4⟩, ⟨.vec, 0⟩, ⟨.vec, 0⟩, 0, false, 0, .fmt2, 0x13⟩) ∧
  decodeWords 0x0B830599 0x00204000 = .ok (.awrite ⟨2, .vec, ⟨.vec, 3⟩, ⟨.lit, 5⟩, ⟨.vec, 0⟩, 2, false, 0, .b32, 0⟩) ∧
  decodeWords 0x0A020951 0x56000001 = .ok (.atom ⟨4, .vec, ⟨.scal, 2⟩, ⟨.vec, 5⟩, ⟨.vec, 0⟩, 0, false, 0, .i32, 0x2B⟩) ∧
  decodeWords 0x000309B1 0x00000023 = .ok (.collect ⟨4, .vec, ⟨.lit, 3⟩, ⟨.vec, 0⟩, ⟨.vec, 2⟩, 0, false, 0, .i32, 0⟩)

/-- R62, R65 to R69, R94 to R104: decoding and encoding agree. The words of every well-formed instruction, with every operand at every value, decode to it, and
words that decode are the words of the instruction that they decode to: no two rows share a word, and no bit is dropped. -/
def Obligations.EncodeDecode : Prop :=
  (∀ i ws, i.wf = true → encode i = some ws →
    (∃ a, ws = [a] ∧ wordLen a = 4 ∧ ∀ b, decodeWords a b = .ok i) ∨ (∃ a b, ws = [a, b] ∧ wordLen a = 8 ∧ decodeWords a b = .ok i)) ∧
  (∀ i, i.wf = true → i.core ≠ none → encode i ≠ none) ∧
  (∀ a b i, decodeWords a b = .ok i → i.wf = true ∧ encode i = some (if wordLen a = 4 then [a] else [a, b]))

/-- R297, and the memory of the model (DESIGN CHOICE, log 1): whatever step a state takes, the module's memories keep their one canonical form, so that equal memories are
equal data. -/
def Obligations.MemoryStaysCanonical : Prop :=
  ∀ (s t : State), Memory.wf s.mem = true → Memory.wf s.sram = true → step s = .next t → Memory.wf t.mem = true ∧ Memory.wf t.sram = true

end
end

