-- ==== Sys2Proof/Laws/Crypto.lean ====
section
/-!
SUPPORT. Laws of the sealing of flits: how long the words of a key schedule, a block, a tag and a ciphertext are.
-/

namespace Sys2Proof.Laws

open Sys2Proof Sys2Proof.Machine

theorem length_xorBytes (a b : List Byte) : (xorBytes a b).length = min a.length b.length := by simp [xorBytes]
/-- Every word of a key schedule has four bytes, and there are as many as asked for. -/
theorem length_keyWords (n : Nat) : ∀ i r (w : List (List Byte)), 8 ≤ i → w.length = i → (∀ x ∈ w, x.length = 4) →
    (keyWords i r w n).length = i + n ∧ ∀ x ∈ keyWords i r w n, x.length = 4 := by
  induction n with
  | zero => exact fun i r w _ h hw => ⟨by simpa [keyWords] using h, by simpa [keyWords] using hw⟩
  | succ n ih =>
    intro i r w h8 hl hw
    have at4 (k : Nat) (hk : k < i) : ((w[k]?).getD []).length = 4 := by
      rw [List.getElem?_eq_getElem (by omega)]
      exact hw _ (List.getElem_mem _)
    have a1 := at4 (i - 1) (by omega)
    have a8 := at4 (i - 8) (by omega)
    have step (u : List Byte) (hu : u.length = 4) (q : Byte) :
        (keyWords (i + 1) q (w ++ [xorBytes ((w[i - 8]?).getD []) u]) n).length = i + (n + 1) ∧
          ∀ x ∈ keyWords (i + 1) q (w ++ [xorBytes ((w[i - 8]?).getD []) u]) n, x.length = 4 := by
      obtain ⟨l, m⟩ := ih (i + 1) q (w ++ [xorBytes ((w[i - 8]?).getD []) u]) (by omega) (by simp [hl]) (by
        intro x hx
        rcases List.mem_append.mp hx with hx | hx
        · exact hw x hx
        · rw [List.mem_singleton.mp hx, length_xorBytes, a8, hu]
          rfl)
      exact ⟨by rw [l]; omega, m⟩
    refine step _ ?_ _
    split <;> try split
    all_goals simp [length_xorBytes, a1]
theorem length_roundKeys (key : List Byte) (h : key.length = 32) : ∀ k < 15, (((roundKeys key)[k]?).getD []).length = 16 := by
  intro k hk
  obtain ⟨l, m⟩ := length_keyWords 52 8 1 ((List.range 8).map fun i => (key.drop (4 * i)).take 4) (by omega) (by simp) (by
    intro x hx
    obtain ⟨i, hi, rfl⟩ := List.mem_map.mp hx
    have := List.mem_range.mp hi
    simp
    omega)
  have c : (((keyWords 8 1 ((List.range 8).map fun i => (key.drop (4 * i)).take 4) 52).drop (4 * k)).take 4).length = 4 := by
    rw [List.length_take, List.length_drop, l]
    omega
  simp only [roundKeys, List.getElem?_map, List.getElem?_range hk, Option.map_some, Option.getD_some, List.length_flatten]
  rw [List.map_congr_left (g := fun _ => 4) fun x hx => m x (List.mem_of_mem_drop (List.mem_of_mem_take hx))]
  rw [List.map_const', c]
  rfl
/-- A block of AES has 16 bytes. -/
theorem length_aesBlock (key b : List Byte) (h : key.length = 32) : (aesBlock (roundKeys key) b).length = 16 := by
  simp only [aesBlock, length_xorBytes, length_roundKeys key h 14 (by omega)]
  simp [shiftRows]
theorem length_gcmStream (key nonce : List Byte) (ctr n : Nat) (h : key.length = 32) : (gcmStream (roundKeys key) nonce ctr n).length = (n + 15) / 16 * 16 := by
  simp [gcmStream, List.length_flatMap, length_aesBlock _ _ h]
/-- A tag has 16 bytes. -/
theorem length_gcmTag (key nonce aad text : List Byte) (h : key.length = 32) : (gcmTag (roundKeys key) nonce aad text).length = 16 := by
  simp [gcmTag, length_xorBytes, length_gcmStream _ _ _ _ h, beBytes]
/-- A text keeps its length. -/
theorem length_gcmCrypt (key nonce text : List Byte) (h : key.length = 32) : (gcmCrypt (roundKeys key) nonce text).length = text.length := by
  simp only [gcmCrypt, length_xorBytes, length_gcmStream _ _ _ _ h]
  omega
end Sys2Proof.Laws
end

