-- ==== Sys2Proof/Laws/Frames.lean ====
section
/-!
SUPPORT. Frames (R465): which one the memory core takes is free, and while a die has one that is not used it finds it.
-/

namespace Sys2Proof.Laws

open Sys2Proof.Machine

/-- A frame that a demand may not take. -/
def frameUsed (s : State) (f : Nat) : Prop := (s.frames.contains f || (f * pageSize ≥ expansionBase && (s.phys (f * pageSize) == .unmapped || (s.bridgeAt (f * pageSize)).isSome))) = true

/-- The search finds nothing only if every frame that it looks at is used. -/
theorem firstFree_none (s : State) (first n k fuel : Nat) (h : s.firstFree first n k fuel = none) :
    ∀ i < fuel, frameUsed s (first + (k + i) % n) := by
  induction fuel generalizing k with
  | zero => simp
  | succ m ih =>
    simp only [State.firstFree] at h
    split at h
    · rename_i u
      intro i hi
      cases i with
      | zero => exact u
      | succ j => simpa [Nat.add_assoc, Nat.add_comm 1 j] using ih _ h j (by omega)
    · cases h

/-- The frame that a search finds is not used. -/
theorem firstFree_some (s : State) (first n k fuel f : Nat) (h : s.firstFree first n k fuel = some f) : s.frames.contains f = false := by
  induction fuel generalizing k with
  | zero => simp [State.firstFree] at h
  | succ m ih =>
    simp only [State.firstFree] at h
    split at h
    · exact ih _ h
    · rename_i u
      cases h
      simp only [Bool.or_eq_true, not_or, Bool.not_eq_true] at u
      exact u.1

/-- A die with fewer used frames than its scratchpad has yields one, whichever the memory core's choice is. -/
theorem freeFrame_isSome (s : State) (die : Nat) (hd : die < 12) (h : s.frames.length < 1536) : (s.freeFrame 0 die).isSome = true := by
  cases e : s.freeFrame 0 die with
  | some f => rfl
  | none =>
    exfalso
    have hn : scratchSize / pageSize = 1536 := by decide
    simp only [State.freeFrame, State.framesOf, hn] at e
    rw [if_neg (by decide), if_neg (by decide), Nat.min_eq_right (by omega)] at e
    generalize hb : die * dieSpan / pageSize = b at e
    generalize Config.pickFrame s.frees 1536 % 1536 = k at e
    have used := firstFree_none s b 1536 k _ e
    have small : b ≤ 12 * dieSpan / pageSize := by
      rw [← hb]
      exact Nat.div_le_div_right (Nat.mul_le_mul_right _ (by omega))
    have mem : ∀ i < s.frames.length + 1, b + (k + i) % 1536 ∈ s.frames := by
      intro i hi
      have u := used i hi
      simp only [frameUsed, Bool.or_eq_true, List.contains_iff_mem, Bool.and_eq_true, decide_eq_true_eq] at u
      rcases u with u | u
      · exact u
      · exfalso
        have : (b + (k + i) % 1536) * pageSize < expansionBase := by
          have hs : 12 * dieSpan / pageSize + 1536 ≤ expansionBase / pageSize := by decide
          have : b + (k + i) % 1536 < expansionBase / pageSize := by omega
          calc (b + (k + i) % 1536) * pageSize < expansionBase / pageSize * pageSize :=
                Nat.mul_lt_mul_of_pos_right this (by decide)
            _ ≤ expansionBase := Nat.div_mul_le_self _ _
        omega
    have nd : ((List.range (s.frames.length + 1)).map fun i => b + (k + i) % 1536).Nodup := by
      refine List.Nodup.map_on ?_ List.nodup_range
      intro x hx y hy hxy
      simp only [List.mem_range] at hx hy
      omega
    have sub := (List.subperm_of_subset nd (by
      intro x hx
      simp only [List.mem_map, List.mem_range] at hx
      obtain ⟨i, hi, rfl⟩ := hx
      exact mem i hi)).length_le
    simp at sub

/-- So do several, one after another. -/
theorem takeFrames_isSome (s : State) (die n : Nat) (hd : die < 12) (h : s.frames.length + n ≤ 1536) : (s.takeFrames die n).isSome = true := by
  induction n generalizing s with
  | zero => rfl
  | succ m ih =>
    obtain ⟨f, hf⟩ := Option.isSome_iff_exists.mp (freeFrame_isSome s die hd (by omega))
    have := ih (s.zeroFrame f) (by simp [State.zeroFrame]; omega)
    simpa [State.takeFrames, hf] using this

/-- Whether a page can be mapped depends on the tables alone. -/
theorem mapAt_isSome (s z : State) (va : Nat) (e f : Dword) (level fuel at_ table : Nat) (h : s.sram = z.sram) (k : s.nextTable = z.nextTable) :
    (s.mapAt va e level fuel at_ table).isSome = (z.mapAt va f level fuel at_ table).isSome := by
  induction fuel generalizing s z at_ table with
  | zero => rfl
  | succ n ih =>
    have same (t i : Nat) : s.entry t i = z.entry t i := by simp [State.entry, h]
    simp only [State.mapAt, same, State.newTable, k]
    split
    · rfl
    · split
      · split
        · rfl
        · split
          · rfl
          · exact ih s z _ _ h k
      · split
        · rfl
        · simp only [Option.bind_some]
          exact ih _ _ _ _ (by simp [State.setEntry, h]) (by simp [State.setEntry])

end Sys2Proof.Laws
end

