-- ==== Sys2Proof/Laws/Meaning.lean ====
section
/-!
SUPPORT. The meaning of an encodable row is that of its operation on its fields, whatever its form. The far `call` stands apart: under an
INV prefix it is a bisection.
-/

namespace Sys2Proof.Machine

/-- The meaning of an operation. -/
def opExec (o : Op) : Fields → State → Out :=
  match o with
  | .iadd => opIadd
  | .isub => opIsub
  | .ineg => opIneg
  | .iabs => opIabs
  | .imin => opImin
  | .imax => opImax
  | .iclamp => opIclamp
  | .imul => opImul
  | .imad => opImad
  | .isad => opIsad
  | .idot => opIdot
  | .icdot => opIcdot
  | .icmp => opIcmp
  | .isel => opIsel
  | .iaddr => opIaddr
  | .and => opAnd
  | .or => opOr
  | .xor => opXor
  | .andn => opAndn
  | .orn => opOrn
  | .not => opNot
  | .tlog => opTlog
  | .shl => opShl
  | .shr => opShr
  | .rot => opRot
  | .bit => opBit
  | .bfld => opBfld
  | .mov => opMov
  | .plog => opPlog
  | .pcvt => opPcvt
  | .vote => opVote
  | .sadd => opSadd
  | .ssub => opSsub
  | .smul => opSmul
  | .smin => opSmin
  | .smax => opSmax
  | .slog => opSlog
  | .sshl => opSshl
  | .sshr => opSshr
  | .scmp => opScmp
  | .ssel => opSsel
  | .smov => opSmov
  | .cbase => opCbase
  | .sbit => opSbit
  | .fadd => opFadd
  | .fsub => opFsub
  | .fmul => opFmul
  | .ffma => opFfma
  | .fmin => opFmin
  | .fmax => opFmax
  | .fcmp => opFcmp
  | .fsel => opFsel
  | .fclass => opFclass
  | .frnd => opFrnd
  | .fldexp => opFldexp
  | .ffrexp => opFfrexp
  | .fdiv => opFdiv
  | .fsqrt => opFsqrt
  | .fexp2 => opFexp2
  | .flog2 => opFlog2
  | .fsin => opFsin
  | .fcos => opFcos
  | .ftanh => opFtanh
  | .flogi => opFlogi
  | .frcp => opFrcp
  | .frsqrt => opFrsqrt
  | .cvt => opCvt
  | .bquant => opBquant
  | .bdequant => opBdequant
  | .pack => opPack
  | .unpack => opUnpack
  | .srseed => opSrseed
  | .ld => opLd
  | .st => opSt
  | .lda => opLda
  | .stl => opStl
  | .atom => opAtom
  | .cas => opCas
  | .fence => opFence
  | .marm => opMarm
  | .mwait => opMwait
  | .bar => opBar
  | .push => opPush
  | .pop => opPop
  | .oload => opOload
  | .mma => opMma
  | .cmma => opCmma
  | .mzpc => opMzpc
  | .aload => opAload
  | .aread => opAread
  | .awrite => opAwrite
  | .adrain => opAdrain
  | .semsig => opSemsig
  | .semwait => opSemwait
  | .semrd => opSemrd
  | .post => opPost
  | .collect => opCollect
  | .amsend => opAmsend
  | .coll => opColl
  | .bra => opBra
  | .call => opCall
  | .brx => opBrx
  | .callx => opCallx
  | .ret => opRet
  | .join => opJoin
  | .exit => opExit
  | .trap => opTrap
  | .yield => opYield
  | .nop => opNop
  | .gset => opGset
  | .gclr => opGclr
  | .csrRd => opCsrRd
  | .csrWr => opCsrWr
  | .tret => opTret
  | .oclaim => opOclaim
  | .orelease => opOrelease
  | .aclaim => opAclaim
  | .arelease => opArelease
  | .aclear => opAclear
  | .mwaitq => opMwaitq
  | .mstat => opMstat
  | .land => opLand

theorem exec_core {i : Instr} {fm : Form} {o : Op} {f : Fields} (h : i.core = some (fm, o, f)) (hc : o = .call → fm ≠ .limm) (s : State) :
    exec i s = opExec o f s := by
  cases i <;> first
    | (simp only [Instr.core, reduceCtorEq] at h; done)
    | (simp only [Instr.core, Option.some.injEq, Prod.mk.injEq] at h
       obtain ⟨rfl, rfl, rfl⟩ := h
       first | rfl | exact absurd rfl (hc rfl))

end Sys2Proof.Machine
end

