-- ==== Sys2Proof/Laws/Memory.lean ====
section
/-!
SUPPORT. Laws of memory: a read after a write, other bytes, the canonical form, and the equality of memories that read alike.
-/

namespace Sys2Proof.Machine

theorem rd_nil (a : Nat) : rd [] a = 0 := rfl
theorem rd_cons (k : Nat) (b : Byte) (r : Memory) (a : Nat) : rd ((k, b) :: r) a = if k = a then b else rd r a := rfl

/-- Below its lowest address a canonical memory reads zero. -/
theorem rd_below {m : Memory} {lo a : Nat} (h : memWfFrom lo m = true) (ha : a < lo) : rd m a = 0 := by
  induction m generalizing lo with
  | nil => rfl
  | cons x r ih =>
    obtain ⟨k, b⟩ := x
    simp only [memWfFrom, Bool.and_eq_true, decide_eq_true_eq] at h
    rw [rd_cons, if_neg (by omega)]
    exact ih h.2 (by omega)

theorem memWfFrom_mono {m : Memory} {lo lo' : Nat} (h : memWfFrom lo m = true) (hl : lo' ≤ lo) : memWfFrom lo' m = true := by
  cases m with
  | nil => rfl
  | cons x r =>
    obtain ⟨k, b⟩ := x
    simp only [memWfFrom, Bool.and_eq_true, decide_eq_true_eq] at h ⊢
    exact ⟨⟨by omega, h.1.2⟩, h.2⟩

/-- A write keeps the canonical form. -/
theorem wr_wfFrom {m : Memory} {lo a : Nat} (b : Byte) (h : memWfFrom lo m = true) (ha : lo ≤ a) : memWfFrom lo (wr m a b) = true := by
  induction m generalizing lo with
  | nil =>
    unfold wr
    split
    · rfl
    · rename_i hb
      simp only [memWfFrom, Bool.and_eq_true, decide_eq_true_eq, ha, true_and, and_true]
      simpa using hb
  | cons x r ih =>
    obtain ⟨k, c⟩ := x
    have hh := h
    simp only [memWfFrom, Bool.and_eq_true, decide_eq_true_eq] at h
    obtain ⟨⟨h1, h2⟩, h3⟩ := h
    unfold wr
    split
    · rename_i hak
      split
      · exact hh
      · rename_i hb
        simp only [memWfFrom, Bool.and_eq_true, decide_eq_true_eq]
        refine ⟨⟨ha, by simpa using hb⟩, ⟨by omega, h2⟩, h3⟩
    · split
      · split
        · exact memWfFrom_mono h3 (by omega)
        · rename_i hb
          simp only [memWfFrom, Bool.and_eq_true, decide_eq_true_eq]
          subst_vars
          exact ⟨⟨ha, by simpa using hb⟩, h3⟩
      · simp only [memWfFrom, Bool.and_eq_true, decide_eq_true_eq]
        exact ⟨⟨h1, h2⟩, ih h3 (by omega)⟩
theorem wr_wf {m : Memory} (a : Nat) (b : Byte) (h : Memory.wf m = true) : Memory.wf (wr m a b) = true := wr_wfFrom b h (Nat.zero_le a)
theorem wrBytes_wf (bs : List Byte) {m : Memory} (a : Nat) (h : Memory.wf m = true) : Memory.wf (wrBytes m a bs) = true := by
  induction bs generalizing m a with
  | nil => exact h
  | cons b r ih => exact ih (a + 1) (wr_wf a b h)

/-- A filter keeps the canonical form. -/
theorem filter_wfFrom {m : Memory} {lo : Nat} (p : Host.Cell → Bool) (h : memWfFrom lo m = true) : memWfFrom lo (m.filter p) = true := by
  induction m generalizing lo with
  | nil => rfl
  | cons x r ih =>
    obtain ⟨k, b⟩ := x
    simp only [memWfFrom, Bool.and_eq_true, decide_eq_true_eq] at h
    obtain ⟨⟨h1, h2⟩, h3⟩ := h
    rw [List.filter_cons]
    split
    · simp only [memWfFrom, Bool.and_eq_true, decide_eq_true_eq]
      exact ⟨⟨h1, h2⟩, ih h3⟩
    · exact memWfFrom_mono (ih h3) (by omega)

/-- A read of the byte just written. -/
theorem rd_wr_self {m : Memory} (a : Nat) (b : Byte) {lo : Nat} (h : memWfFrom lo m = true) : rd (wr m a b) a = b := by
  induction m generalizing lo with
  | nil => unfold wr; split <;> simp_all [rd]
  | cons x r ih =>
    obtain ⟨k, c⟩ := x
    simp only [memWfFrom, Bool.and_eq_true, decide_eq_true_eq] at h
    obtain ⟨⟨h1, h2⟩, h3⟩ := h
    unfold wr
    split
    · split
      · rename_i hak hb
        rw [rd_cons, if_neg (by omega), rd_below h3 (by omega), hb]
      · simp [rd]
    · split
      · split
        · rename_i hak hb
          rw [rd_below h3 (by omega), hb]
        · simp [rd]
      · rename_i h4 h5
        rw [rd_cons, if_neg (by omega)]
        exact ih h3

/-- A write leaves every other byte alone, in any memory. -/
theorem rd_wr_other (m : Memory) {a x : Nat} (b : Byte) (hx : x ≠ a) : rd (wr m a b) x = rd m x := by
  induction m with
  | nil => unfold wr; split <;> simp [rd]; omega
  | cons y r ih =>
    obtain ⟨k, c⟩ := y
    unfold wr
    split
    · split
      · rfl
      · rw [rd_cons, if_neg (by omega)]
    · split
      · split
        · rw [rd_cons, if_neg (by omega)]
        · rw [rd_cons, rd_cons, if_neg (by omega), if_neg (by omega)]
      · rw [rd_cons, rd_cons, ih]

theorem rd_wrBytes_outside (bs : List Byte) (m : Memory) (a x : Nat) (hx : x < a ∨ a + bs.length ≤ x) :
    rd (wrBytes m a bs) x = rd m x := by
  induction bs generalizing m a with
  | nil => rfl
  | cons b r ih =>
    simp only [List.length_cons] at hx
    rw [wrBytes, ih _ _ (by omega), rd_wr_other _ _ (by omega)]

theorem rd_wrBytes_inside (bs : List Byte) {m : Memory} (a i : Nat) (h : Memory.wf m = true) (hi : i < bs.length) :
    rd (wrBytes m a bs) (a + i) = bs[i] := by
  induction bs generalizing m a i with
  | nil => simp at hi
  | cons b r ih =>
    rw [wrBytes]
    cases i with
    | zero => rw [rd_wrBytes_outside _ _ _ _ (by omega)]; exact rd_wr_self a b h
    | succ j =>
      have : a + (j + 1) = (a + 1) + j := by omega
      rw [this, ih _ _ (wr_wf a b h) (by simpa using hi)]
      rfl

/-- Bytes read where bytes were written. -/
theorem rdBytes_wrBytes (bs : List Byte) {m : Memory} (a : Nat) (h : Memory.wf m = true) :
    rdBytes (wrBytes m a bs) a bs.length = bs := by
  induction bs generalizing m a with
  | nil => rfl
  | cons b r ih =>
    rw [List.length_cons, rdBytes, wrBytes, rd_wrBytes_outside _ _ _ _ (by omega), rd_wr_self a b h, ih _ (wr_wf a b h)]

/-- Two canonical memories that read alike are the same data. -/
theorem Memory.ext_rd {m n : Memory} {lo : Nat} (hm : memWfFrom lo m = true) (hn : memWfFrom lo n = true)
    (h : ∀ a, rd m a = rd n a) : m = n := by
  induction m generalizing n lo with
  | nil =>
    cases n with
    | nil => rfl
    | cons y t =>
      obtain ⟨j, c⟩ := y
      simp only [memWfFrom, Bool.and_eq_true, decide_eq_true_eq] at hn
      have := h j
      simp [rd] at this
      simp [← this] at hn
  | cons x r ih =>
    obtain ⟨k, b⟩ := x
    have hm0 := hm
    simp only [memWfFrom, Bool.and_eq_true, decide_eq_true_eq] at hm
    obtain ⟨⟨h1, h2⟩, h3⟩ := hm
    cases n with
    | nil =>
      have := h k
      simp [rd] at this
      simp [this] at h2
    | cons y t =>
      obtain ⟨j, c⟩ := y
      have hn0 := hn
      simp only [memWfFrom, Bool.and_eq_true, decide_eq_true_eq] at hn
      obtain ⟨⟨g1, g2⟩, g3⟩ := hn
      have hkj : k = j := by
        rcases Nat.lt_trichotomy k j with hlt | heq | hgt
        · have := h k
          rw [rd_cons, if_pos rfl, rd_cons, if_neg (by omega), rd_below g3 (by omega)] at this
          simp [this] at h2
        · exact heq
        · have := h j
          rw [rd_cons, if_neg (by omega), rd_below h3 (by omega), rd_cons, if_pos rfl] at this
          simp [← this] at g2
      subst hkj
      have hbc : b = c := by simpa [rd] using h k
      subst hbc
      have : r = t := ih h3 g3 (fun a => by
        have := h a
        by_cases hk : k = a
        · subst hk
          rw [rd_below h3 (by omega), rd_below g3 (by omega)]
        · simpa [rd, hk] using this)
      rw [this]

end Sys2Proof.Machine
end

