-- ==== Sys2Proof/Laws/Units.lean ====
section
/-!
SUPPORT. Laws of the shared operations of units: what a vector unit, a unit that acts once per group, and the advance of threads do.
-/

namespace Sys2Proof.Machine

open Sys2Proof.Safety

/-! ### Threads of a group -/

@[simp] theorem Group.modThread_keeps_gid (g : Group) (t : Nat) (f : Thread → Thread) : (g.modThread t f).gid = g.gid := rfl
@[simp] theorem Group.modThread_coreNo (g : Group) (t : Nat) (f : Thread → Thread) : (g.modThread t f).coreNo = g.coreNo := rfl

theorem mapIdx_id {α : Type} (l : List α) : (l.mapIdx fun _ t => t) = l := by
  apply List.ext_getElem?
  intro j
  rw [List.getElem?_mapIdx]
  cases l[j]? <;> rfl
theorem mapIdx_same (g : Group) : { g with threads := g.threads.mapIdx fun _ t => t } = g := by
  rw [mapIdx_id]

theorem Group.modThreads_gid (g : Group) (l : List Nat) (f : Thread → Thread) : (g.modThreads l f).gid = g.gid := by
  unfold Group.modThreads
  induction l generalizing g with
  | nil => rfl
  | cons a r ih => rw [List.foldl_cons, ih]; rfl
theorem Group.modThreads_coreNo (g : Group) (l : List Nat) (f : Thread → Thread) : (g.modThreads l f).coreNo = g.coreNo := by
  unfold Group.modThreads
  induction l generalizing g with
  | nil => rfl
  | cons a r ih => rw [List.foldl_cons, ih]; rfl

/-- Changing distinct threads one after another changes each once. -/
theorem foldl_modThread {α : Type} (l : List (Nat × α)) (F : α → Thread → Thread) (g : Group) (hd : distinct (l.map (·.1)) = true) :
    l.foldl (fun g e => g.modThread e.1 (F e.2)) g =
      { g with threads := g.threads.mapIdx fun i t => match l.find? fun e => e.1 == i with | some e => F e.2 t | none => t } := by
  induction l generalizing g with
  | nil =>
    rw [List.foldl_nil]
    exact (mapIdx_same g).symm
  | cons x r ih =>
    obtain ⟨i, a⟩ := x
    simp only [List.map_cons, distinct, Bool.and_eq_true, Bool.not_eq_true', List.contains_eq_mem, decide_eq_false_iff_not] at hd
    rw [List.foldl_cons, ih _ hd.2]
    have : ∀ j t, (match ((i, a) :: r).find? (fun e => e.1 == j) with | some e => F e.2 t | none => t) =
        (match r.find? (fun e => e.1 == j) with | some e => F e.2 (if i = j then F a t else t) | none => if i = j then F a t else t) := by
      intro j t
      rw [List.find?_cons]
      by_cases hij : i = j
      · subst hij
        simp only [beq_self_eq_true, if_true]
        have : r.find? (fun e => e.1 == i) = none := by
          rw [List.find?_eq_none]
          intro e he hei
          exact hd.1 (List.mem_map.2 ⟨e, he, by simpa using hei⟩)
        rw [this]
      · have hb : (i == j) = false := by simpa using hij
        simp only [hb, hij, if_false]
    simp only [Group.modThread]
    congr 1
    apply List.ext_getElem?
    intro j
    simp only [List.getElem?_mapIdx, List.getElem?_modify]
    cases g.threads[j]? with
    | none => simp
    | some t =>
      refine congrArg some (Eq.trans ?_ (this j t).symm)
      by_cases hij : i = j
      · simp only [hij, if_true]
      · simp only [hij, if_false]

theorem modThreads_eq (tids : List Nat) (F : Thread → Thread) (g : Group) (hd : distinct tids = true) :
    g.modThreads tids F = { g with threads := g.threads.mapIdx fun i t => if tids.contains i then F t else t } := by
  have h := foldl_modThread (tids.map fun i => (i, ())) (fun _ => F) g (by simpa [List.map_map, Function.comp_def] using hd)
  rw [List.foldl_map] at h
  refine h.trans ?_
  congr 2
  funext i t
  rw [List.find?_map]
  by_cases hi : i ∈ tids
  · rw [List.contains_iff_mem.2 hi]
    cases hf : List.find? ((fun e => e.1 == i) ∘ fun i => (i, ())) tids with
    | some x => simp
    | none =>
      rw [List.find?_eq_none] at hf
      exact absurd (by simp) (hf i hi)
  · have hc : tids.contains i = false := by simpa using hi
    rw [hc]
    cases hf : List.find? ((fun e => e.1 == i) ∘ fun i => (i, ())) tids with
    | none => simp
    | some x =>
      have h1 := List.find?_some hf
      have h2 := List.mem_of_find?_eq_some hf
      simp at h1
      subst h1
      exact absurd h2 hi

/-! ### The groups of a trick -/

/-- A unit whose effect on each group of the trick is a change of that group alone leaves each changed by its own context. -/
theorem perGroup_groups (s : State) (f : Fields) (k : Ctx → State → State) (h : Ctx → Group → Group)
    (hd : distinct (s.issue.trick.map (·.1)) = true) (hg : ∀ c g, (h c g).gid = g.gid)
    (hx : ∀ e ∈ s.issue.trick, (s.ctx? f e.1 e.2).isSome = true)
    (hk : ∀ e ∈ s.issue.trick, ∀ c, s.ctx? f e.1 e.2 = some c → ∀ G : List Group,
      k c { s with groups := G } = { s with groups := G.map fun g => if g.gid = e.1 then h c g else g }) :
    s.perGroup f k = groupsAfter s f h := by
  suffices H : ∀ (L : List (Nat × List Nat)) (G : List Group), distinct (L.map (·.1)) = true → (∀ e ∈ L, e ∈ s.issue.trick) →
      L.foldl (fun acc e => match s.ctx? f e.1 e.2 with | none => acc | some c => k c acc) { s with groups := G } =
        { s with groups := G.map fun g => match L.find? fun e => e.1 == g.gid with
            | none => g
            | some e => match s.ctx? f e.1 e.2 with | none => g | some c => h c g } by
    exact H s.issue.trick s.groups hd fun _ he => he
  intro L
  induction L with
  | nil => intro G _ _; simp
  | cons e r ih =>
    intro G hdl hin
    simp only [List.map_cons, distinct, Bool.and_eq_true, Bool.not_eq_true', List.contains_eq_mem, decide_eq_false_iff_not] at hdl
    have he := hin e (List.mem_cons_self)
    obtain ⟨c, hc⟩ := Option.isSome_iff_exists.1 (hx e he)
    rw [List.foldl_cons]
    simp only [hc]
    rw [hk e he c hc G, ih _ hdl.2 (fun x hx => hin x (List.mem_cons_of_mem _ hx)), List.map_map]
    congr 1
    apply List.map_congr_left
    intro g _
    simp only [Function.comp, List.find?_cons]
    by_cases hge : g.gid = e.1
    · have hn : r.find? (fun x => x.1 == e.1) = none := by
        rw [List.find?_eq_none]
        intro x hx hxe
        exact hdl.1 (List.mem_map.2 ⟨x, hx, by simpa using hxe⟩)
      simp only [hge, if_true, hg, hn, beq_self_eq_true, hc]
    · have : (e.1 == g.gid) = false := by simpa using fun h => hge h.symm
      simp only [hge, if_false, this]

/-- The parts of a trick that stands. -/
theorem trickOk_distinct {s : State} (h : trickOk s = true) : distinct (s.issue.trick.map (·.1)) = true := by
  simp only [trickOk, Bool.and_eq_true] at h
  exact h.1
theorem trickOk_ctx {s : State} (h : trickOk s = true) (f : Fields) {e : Nat × List Nat} (he : e ∈ s.issue.trick) :
    ∃ g l, s.group? e.1 = some g ∧ s.launch? g.lid = some l ∧ s.ctx? f e.1 e.2 = some ⟨s, l, g, e.2, s.fieldsNow f⟩ ∧ g.gid = e.1 ∧
      distinct e.2 = true := by
  simp only [trickOk, Bool.and_eq_true, List.all_eq_true] at h
  have h2 := h.2 e he
  cases hg : s.group? e.1 with
  | none => simp [hg] at h2
  | some g =>
    simp only [hg, Bool.and_eq_true] at h2
    obtain ⟨l, hl⟩ := Option.isSome_iff_exists.1 h2.2.1
    refine ⟨g, l, rfl, hl, ?_, ?_, h2.1⟩
    · simp [State.ctx?, hg, hl]
    · have := List.find?_some hg
      simpa using this
theorem trickOk_some {s : State} (h : trickOk s = true) (f : Fields) {e : Nat × List Nat} (he : e ∈ s.issue.trick) :
    (s.ctx? f e.1 e.2).isSome = true := by
  obtain ⟨g, l, _, _, hc, _⟩ := trickOk_ctx h f he
  simp [hc]

/-- What a context holds. -/
theorem ctx?_some {s : State} {f : Fields} {gid : Nat} {tids : List Nat} {c : Ctx} (h : s.ctx? f gid tids = some c) :
    c.s = s ∧ c.tids = tids ∧ c.f = s.fieldsNow f ∧ c.g.gid = gid ∧ s.group? gid = some c.g ∧ s.launch? c.g.lid = some c.l := by
  unfold State.ctx? at h
  cases hg : s.group? gid with
  | none => simp [hg] at h
  | some g =>
    cases hl : s.launch? g.lid with
    | none => simp [hg, hl] at h
    | some l =>
      simp only [hg, hl, Option.some.injEq] at h
      subst h
      have := List.find?_some hg
      exact ⟨rfl, rfl, rfl, by simpa using this, rfl, hl⟩

theorem distinct_filter (p : Nat → Bool) {l : List Nat} (h : distinct l = true) : distinct (l.filter p) = true := by
  induction l with
  | nil => rfl
  | cons a r ih =>
    simp only [distinct, Bool.and_eq_true, Bool.not_eq_true', List.contains_eq_mem, decide_eq_false_iff_not] at h
    rw [List.filter_cons]
    split
    · simp only [distinct, Bool.and_eq_true, Bool.not_eq_true', List.contains_eq_mem, decide_eq_false_iff_not]
      exact ⟨fun hm => h.1 (List.mem_filter.1 hm).1, ih h.2⟩
    · exact ih h.2

theorem contains_filter (p : Nat → Bool) (l : List Nat) (i : Nat) : (l.filter p).contains i = (l.contains i && p i) := by
  rw [Bool.eq_iff_iff]
  simp

/-- The advance of threads that are none of them named twice. -/
theorem advance_eq (s : State) (G : List Group) (gid : Nat) (tids : List Nat) (hd : distinct tids = true) :
    State.advance { s with groups := G } gid tids = { s with groups := G.map fun g => if g.gid = gid then
      { g with threads := g.threads.mapIdx fun i t => if tids.contains i then
          (if s.issue.pfx.rep.isNone && s.issue.goes gid i then { t with pc := s.issue.npc, stamp := (s.core g.coreNo).cycles } else t)
          else t } else g } := by
  unfold State.advance
  split
  · rename_i h
    simp only at h
    have hn : s.issue.pfx.rep.isNone = false := by simpa using h
    simp only [hn, Bool.false_and, Bool.false_eq_true, if_false, ite_self]
    rw [show (fun g : Group => if g.gid = gid then { g with threads := g.threads.mapIdx fun _ t => t } else g) = id by
      funext g
      split
      · exact mapIdx_same g
      · rfl, List.map_id]
  · rename_i h
    simp only at h
    simp only [State.modGroup]
    congr 1
    apply List.map_congr_left
    intro g _
    split
    · rw [modThreads_eq _ _ _ (distinct_filter _ hd)]
      congr 1
      apply List.ext_getElem?
      intro j
      simp only [List.getElem?_mapIdx]
      cases g.threads[j]? with
      | none => rfl
      | some t =>
        have hn : s.issue.pfx.rep.isNone = true := by simpa using h
        simp only [Option.map_some, hn, Bool.true_and, contains_filter, Thread.goto, Group.coreNo]
        generalize tids.contains j = m1
        generalize s.issue.goes gid j = m2
        cases m1 <;> cases m2 <;> rfl
    · rfl

/-! ### Results of threads -/

/-- When every thread succeeds there is no failure, and the successes are the results. -/
theorem failures_none {α : Type} (l : List Nat) (x : Nat → Except TrapInfo α) (v : Nat → α) (h : ∀ t ∈ l, x t = .ok (v t)) :
    failures (l.map fun t => (t, x t)) = [] := by
  unfold failures
  rw [List.filterMap_eq_nil_iff]
  intro e he
  obtain ⟨t, ht, rfl⟩ := List.mem_map.1 he
  simp [h t ht]
theorem successes_all {α : Type} (l : List Nat) (x : Nat → Except TrapInfo α) (v : Nat → α) (h : ∀ t ∈ l, x t = .ok (v t)) :
    successes (l.map fun t => (t, x t)) = l.map fun t => (t, v t) := by
  unfold successes
  induction l with
  | nil => rfl
  | cons a r ih =>
    rw [List.map_cons, List.map_cons, List.filterMap_cons]
    simp only [h a List.mem_cons_self]
    rw [ih fun t ht => h t (List.mem_cons_of_mem _ ht)]

theorem isOk_iff {α : Type} {x : Except TrapInfo α} : isOk x = true ↔ ∃ v, x = .ok v := by
  cases x <;> simp [isOk]
theorem isOk_unit {x : Except TrapInfo Unit} (h : isOk x = true) : x = .ok () := by
  obtain ⟨v, hv⟩ := isOk_iff.1 h
  exact hv

theorem exec_find (l : List Nat) (v : Nat → α) (i : Nat) :
    (l.map fun t => (t, v t)).find? (fun e => e.1 == i) = if l.contains i then some (i, v i) else none := by
  induction l with
  | nil => rfl
  | cons a r ih =>
    rw [List.map_cons, List.find?_cons, ih]
    by_cases h : a = i
    · subst h; simp
    · have h1 : (a == i) = false := by simpa using h
      have h2 : (i == a) = false := by simpa using fun e => h e.symm
      simp only [h1, List.contains_cons, h2, Bool.false_or]

/-- A vector unit that runs: each executing thread writes its result, and nothing else changes but where the trick's threads stand. -/
theorem vecUnit_next (o : Op) (f : Fields) (s : State) (body : Ctx → Nat → Except TrapInfo VecOut) (out : Ctx → Nat → VecOut)
    (h : unitRuns o f s = true)
    (hb : ∀ e ∈ s.issue.trick, ∀ c, s.ctx? f e.1 e.2 = some c → ∀ t ∈ c.exec, body c t = .ok (out c t)) :
    vecUnit o f s body = .next (vecAfter s f out) := by
  simp only [unitRuns, Bool.and_eq_true, List.all_eq_true] at h
  obtain ⟨ht, hr⟩ := h
  unfold vecUnit vecAfter
  congr 1
  refine perGroup_groups s f _ (fun c g => { g with threads := g.threads.mapIdx (threadAfter c (out c) (s.core g.coreNo).cycles) })
    (trickOk_distinct ht) (fun _ _ => rfl) (fun e he => trickOk_some ht f he) fun e he c hc G => ?_
  obtain ⟨g, l, hg, hl, hc', hge, hdt⟩ := trickOk_ctx ht f he
  have hcc := ctx?_some hc
  obtain ⟨h1, h2, _, h4, _⟩ := hcc
  have hrun := hr e he
  simp only [hc, Ctx.runs, Bool.and_eq_true, List.all_eq_true] at hrun
  have hall : ∀ t ∈ c.exec, (c.precheck o t).bind (fun _ => body c t) = .ok (out c t) := by
    intro t htx
    rw [isOk_unit (hrun.1.1.1 t htx)]
    exact hb e he c hc t htx
  unfold Ctx.runVec
  simp only
  rw [failures_none c.exec (fun t => (c.precheck o t).bind fun _ => body c t) (out c) hall,
    successes_all c.exec (fun t => (c.precheck o t).bind fun _ => body c t) (out c) hall]
  simp only [State.modGroup]
  rw [advance_eq s _ _ _ (by rw [h2]; exact hdt), List.map_map]
  congr 1
  apply List.map_congr_left
  intro x _
  simp only [Function.comp, h4]
  by_cases hx : x.gid = e.1
  · simp only [hx, if_true]
    rw [foldl_modThread _ (fun o t => t.apply o) x (by
      rw [List.map_map]
      simp only [Function.comp_def, List.map_id']
      exact distinct_filter _ (by rw [h2]; exact hdt))]
    simp only [hx, if_true]
    congr 1
    apply List.ext_getElem?
    intro j
    simp only [List.getElem?_mapIdx]
    cases x.threads[j]? with
    | none => rfl
    | some t =>
      simp only [Option.map_some, threadAfter, stepOn, exec_find, h1, h4, Group.coreNo]
      by_cases hj : j ∈ c.tids
      · have : c.tids.contains j = true := List.contains_iff_mem.2 hj
        simp only [this, if_true]
        by_cases hex : c.executes j = true
        · have : c.exec.contains j = true := List.contains_iff_mem.2 (List.mem_filter.2 ⟨hj, hex⟩)
          simp only [this, hex, if_true]
        · have : c.exec.contains j = false := by
            rw [Bool.eq_false_iff]
            exact fun hm => hex (List.mem_filter.1 (List.contains_iff_mem.1 hm)).2
          simp only [this, hex]
          rfl
      · have h3 : c.tids.contains j = false := by simpa using hj
        have : c.exec.contains j = false := by
          rw [Bool.eq_false_iff]
          exact fun hm => hj (List.mem_filter.1 (List.contains_iff_mem.1 hm)).1
        simp only [h3, this]
        rfl
  · simp only [hx, if_false]

/-- A unit that acts once per group, and runs: the group changes, and the trick's threads go on. -/
theorem groupUnit_next (o : Op) (f : Fields) (s : State) (body : Ctx → Except TrapInfo (Group → Group)) (h : Ctx → Group → Group)
    (hr : groupRuns o f s = true) (hg : ∀ c g, (h c g).gid = g.gid)
    (hb : ∀ e ∈ s.issue.trick, ∀ c, s.ctx? f e.1 e.2 = some c → body c = .ok (h c)) (hn : ∀ c g, (h c g).coreNo = g.coreNo) :
    groupUnit o f s body = .next (groupAfter s f h) := by
  simp only [groupRuns, Bool.and_eq_true, List.all_eq_true] at hr
  obtain ⟨ht, hr⟩ := hr
  unfold groupUnit groupAfter
  congr 1
  refine perGroup_groups s f _ _ (trickOk_distinct ht) (fun c g => hg c g) (fun e he => trickOk_some ht f he) fun e he c hc G => ?_
  obtain ⟨g, l, hgr, hl, hc', hge, hdt⟩ := trickOk_ctx ht f he
  obtain ⟨h1, h2, _, h4, _⟩ := ctx?_some hc
  have hrun := hr e he
  simp only [hc, Bool.and_eq_true] at hrun
  have hp : (c.precheck o (nth c.tids 0 0)).bind (fun _ => body c) = .ok (h c) := by
    rw [isOk_unit hrun.1.1.1, hb e he c hc]
    rfl
  unfold Ctx.runGroup
  simp only [hp, State.modGroup]
  rw [advance_eq s _ _ _ (by rw [h2]; exact hdt), List.map_map]
  congr 1
  apply List.map_congr_left
  intro x _
  simp only [Function.comp, h4]
  by_cases hx : x.gid = e.1
  · simp only [hx, if_true, hg, stepOn, h1, h4, hn]
  · simp only [hx, if_false]

theorem writeS_eq (c : Ctx) (g : Group) (d : Nat) (v : Dword) (hd : distinct c.tids = true) :
    g.writeS c.tids d v = scalarWrite c d v g := by
  unfold Group.writeS scalarWrite
  simp only
  split
  · rfl
  · rw [modThreads_eq _ _ _ hd]

theorem Group.writeS_gid (g : Group) (l : List Nat) (d : Nat) (v : Dword) : (g.writeS l d v).gid = g.gid := by
  unfold Group.writeS
  simp only
  split
  · rfl
  · rw [Group.modThreads_gid]
theorem Group.writeS_coreNo (g : Group) (l : List Nat) (d : Nat) (v : Dword) : (g.writeS l d v).coreNo = g.coreNo := by
  unfold Group.writeS
  simp only
  split
  · rfl
  · rw [Group.modThreads_coreNo]
    rfl

/-- A scalar unit that runs: `v` is the new value of s[D]. -/
theorem sclUnit_next (o : Op) (f : Fields) (s : State) (body : Ctx → Except TrapInfo Dword) (v : Ctx → Dword)
    (hr : groupRuns o f s = true) (hb : ∀ e ∈ s.issue.trick, ∀ c, s.ctx? f e.1 e.2 = some c → body c = .ok (v c)) :
    sclUnit o f s body = .next (groupAfter s f fun c => scalarWrite c c.f.d (v c)) := by
  have hr' := hr
  simp only [groupRuns, Bool.and_eq_true, List.all_eq_true] at hr'
  have ht := hr'.1
  unfold sclUnit
  have := groupUnit_next o f s (fun c => (body c).map fun v => fun g => g.writeS c.tids c.f.d v)
    (fun c g => g.writeS c.tids c.f.d (v c)) hr
    (fun c g => Group.writeS_gid g _ _ _)
    (fun e he c hc => by rw [hb e he c hc]; rfl)
    (fun c g => Group.writeS_coreNo g _ _ _)
  rw [this]
  congr 1
  unfold groupAfter groupsAfter
  congr 1
  apply List.map_congr_left
  intro g _
  cases hf : s.issue.trick.find? fun e => e.1 == g.gid with
  | none => rfl
  | some e =>
    have he := List.mem_of_find?_eq_some hf
    obtain ⟨g', l, _, _, hc, _, hdt⟩ := trickOk_ctx ht f he
    simp only [hc]
    have hw := writeS_eq ⟨s, l, g', e.2, s.fieldsNow f⟩ g (s.fieldsNow f).d (v ⟨s, l, g', e.2, s.fieldsNow f⟩) hdt
    simp only at hw
    rw [hw]

end Sys2Proof.Machine
end

