-- ==== Sys2Proof/Laws/Operands.lean ====
section
/-!
SUPPORT. Laws of operands: a source whose constant lies in the bank reads, and its value is what `got` names.
-/

namespace Sys2Proof.Machine

open Sys2Proof.Safety

theorem got_ok (v : Dword) : got (.ok v) = v := rfl

theorem raw_got (c : Ctx) (k : LitKind) (w tid : Nat) (x : Src) (h : constOk c x = true) : c.raw k w tid x = .ok (got (c.raw k w tid x)) := by
  cases x with
  | cons n =>
    simp only [constOk, decide_eq_true_eq] at h
    simp only [Ctx.raw]
    rw [if_neg (by omega)]
    rfl
  | _ => rfl

theorem opd_got (c : Ctx) (k : LitKind) (w i tid : Nat) (x : Src) (h : constOk c x = true) :
    c.opd k w i tid x = .ok (got (c.opd k w i tid x)) := by
  unfold Ctx.opd
  split
  · split
    · exact raw_got c k w tid _ h
    · split
      · exact raw_got c k w _ _ h
      · split
        · exact raw_got c k w tid _ h
        · rfl
        · rfl
  · exact raw_got c k w tid _ h

/-- What `unitRuns` says of a group's context. -/
theorem unitRuns_ctx {o : Op} {f : Fields} {s : State} (h : unitRuns o f s = true) {e : Nat × List Nat} (he : e ∈ s.issue.trick) {c : Ctx}
    (hc : s.ctx? f e.1 e.2 = some c) :
    (∀ t ∈ c.exec, c.precheck o t = .ok ()) ∧ constOk c c.f.a = true ∧ constOk c c.f.b = true ∧ constOk c c.f.c = true := by
  simp only [unitRuns, Bool.and_eq_true, List.all_eq_true] at h
  have := h.2 e he
  simp only [hc, Ctx.runs, Bool.and_eq_true, List.all_eq_true] at this
  exact ⟨fun t ht => isOk_unit (this.1.1.1 t ht), this.1.1.2, this.1.2, this.2⟩
theorem groupRuns_ctx {o : Op} {f : Fields} {s : State} (h : groupRuns o f s = true) {e : Nat × List Nat} (he : e ∈ s.issue.trick) {c : Ctx}
    (hc : s.ctx? f e.1 e.2 = some c) :
    c.precheck o (nth c.tids 0 0) = .ok () ∧ constOk c c.f.a = true ∧ constOk c c.f.b = true ∧ constOk c c.f.c = true := by
  simp only [groupRuns, Bool.and_eq_true, List.all_eq_true] at h
  have := h.2 e he
  simp only [hc, Bool.and_eq_true] at this
  exact ⟨isOk_unit this.1.1.1, this.1.1.2, this.1.2, this.2⟩

/-- Operands of a vector unit that runs. -/
theorem intA_got (c : Ctx) (w t : Nat) (h : constOk c c.f.a = true) : c.intA w t = .ok (got (c.intA w t)) := opd_got c _ _ _ _ _ h
theorem intB_got (c : Ctx) (w t : Nat) (h : constOk c c.f.b = true) : c.intB w t = .ok (got (c.intB w t)) := opd_got c _ _ _ _ _ h
theorem intC_got (c : Ctx) (w t : Nat) (h : constOk c c.f.c = true) : c.intC w t = .ok (got (c.intC w t)) := opd_got c _ _ _ _ _ h
theorem bitA_got (c : Ctx) (w t : Nat) (h : constOk c c.f.a = true) : c.bitA w t = .ok (got (c.bitA w t)) := opd_got c _ _ _ _ _ h
theorem bitB_got (c : Ctx) (w t : Nat) (h : constOk c c.f.b = true) : c.bitB w t = .ok (got (c.bitB w t)) := opd_got c _ _ _ _ _ h
theorem bitC_got (c : Ctx) (w t : Nat) (h : constOk c c.f.c = true) : c.bitC w t = .ok (got (c.bitC w t)) := opd_got c _ _ _ _ _ h
theorem opdA_got (c : Ctx) (k : LitKind) (w t : Nat) (h : constOk c c.f.a = true) : c.opdA k w t = .ok (got (c.opdA k w t)) :=
  opd_got c _ _ _ _ _ h
theorem opdB_got (c : Ctx) (k : LitKind) (w t : Nat) (h : constOk c c.f.b = true) : c.opdB k w t = .ok (got (c.opdB k w t)) :=
  opd_got c _ _ _ _ _ h
theorem opdC_got (c : Ctx) (k : LitKind) (w t : Nat) (h : constOk c c.f.c = true) : c.opdC k w t = .ok (got (c.opdC k w t)) :=
  opd_got c _ _ _ _ _ h
theorem ctlB_got (c : Ctx) (t : Nat) (h : constOk c c.f.b = true) : c.ctlB t = .ok ((got (c.intB 1 t)).setWidth 32) := by
  unfold Ctx.ctlB
  rw [show c.opdB .int 1 t = .ok (got (c.intB 1 t)) from opd_got c _ _ _ _ _ h]
  rfl
theorem ctlC_got (c : Ctx) (t : Nat) (h : constOk c c.f.c = true) : c.ctlC t = .ok ((got (c.intC 1 t)).setWidth 32) := by
  unfold Ctx.ctlC
  rw [show c.opdC .int 1 t = .ok (got (c.intC 1 t)) from opd_got c _ _ _ _ _ h]
  rfl
theorem sA_got (c : Ctx) (k : LitKind) (w : Nat) (h : constOk c c.f.a = true) : c.sA k w = .ok (got (c.sA k w)) := raw_got c _ _ _ _ h
theorem sB_got (c : Ctx) (k : LitKind) (w : Nat) (h : constOk c c.f.b = true) : c.sB k w = .ok (got (c.sB k w)) := raw_got c _ _ _ _ h
theorem sC_got (c : Ctx) (k : LitKind) (w : Nat) (h : constOk c c.f.c = true) : c.sC k w = .ok (got (c.sC k w)) := raw_got c _ _ _ _ h

end Sys2Proof.Machine
end

