-- ==== Sys2Proof/Laws/PerInstr.lean ====
section
/-!
SUPPORT. The family `Words`: a row of the table has words exactly when it is an encodable instruction, and then one or two (04 R62); the
part's own steps have none.
-/

namespace Sys2Proof.Laws.Words

/-- One or two words for an instruction, none for a step of the part's own. -/
def Statement (i : Instr) : Prop :=
  match encode i with
  | some ws => i.core.isSome = true ∧ (ws.length = 1 ∨ ws.length = 2)
  | none => i.core = none

theorem iadd (f : LongF) : Statement (.iadd f) := ⟨rfl, .inr rfl⟩
theorem isub (f : LongF) : Statement (.isub f) := ⟨rfl, .inr rfl⟩
theorem ineg (f : LongF) : Statement (.ineg f) := ⟨rfl, .inr rfl⟩
theorem iabs (f : LongF) : Statement (.iabs f) := ⟨rfl, .inr rfl⟩
theorem imin (f : LongF) : Statement (.imin f) := ⟨rfl, .inr rfl⟩
theorem imax (f : LongF) : Statement (.imax f) := ⟨rfl, .inr rfl⟩
theorem iclamp (f : LongF) : Statement (.iclamp f) := ⟨rfl, .inr rfl⟩
theorem imul (f : LongF) : Statement (.imul f) := ⟨rfl, .inr rfl⟩
theorem imad (f : LongF) : Statement (.imad f) := ⟨rfl, .inr rfl⟩
theorem isad (f : LongF) : Statement (.isad f) := ⟨rfl, .inr rfl⟩
theorem idot (f : LongF) : Statement (.idot f) := ⟨rfl, .inr rfl⟩
theorem icdot (f : LongF) : Statement (.icdot f) := ⟨rfl, .inr rfl⟩
theorem icmp (f : LongF) : Statement (.icmp f) := ⟨rfl, .inr rfl⟩
theorem isel (f : LongF) : Statement (.isel f) := ⟨rfl, .inr rfl⟩
theorem iaddr (f : LongF) : Statement (.iaddr f) := ⟨rfl, .inr rfl⟩
theorem and (f : LongF) : Statement (.and f) := ⟨rfl, .inr rfl⟩
theorem or (f : LongF) : Statement (.or f) := ⟨rfl, .inr rfl⟩
theorem xor (f : LongF) : Statement (.xor f) := ⟨rfl, .inr rfl⟩
theorem andn (f : LongF) : Statement (.andn f) := ⟨rfl, .inr rfl⟩
theorem orn (f : LongF) : Statement (.orn f) := ⟨rfl, .inr rfl⟩
theorem not (f : LongF) : Statement (.not f) := ⟨rfl, .inr rfl⟩
theorem tlog (f : LongF) : Statement (.tlog f) := ⟨rfl, .inr rfl⟩
theorem shl (f : LongF) : Statement (.shl f) := ⟨rfl, .inr rfl⟩
theorem shr (f : LongF) : Statement (.shr f) := ⟨rfl, .inr rfl⟩
theorem rot (f : LongF) : Statement (.rot f) := ⟨rfl, .inr rfl⟩
theorem bit (f : LongF) : Statement (.bit f) := ⟨rfl, .inr rfl⟩
theorem bfld (f : LongF) : Statement (.bfld f) := ⟨rfl, .inr rfl⟩
theorem mov (f : LongF) : Statement (.mov f) := ⟨rfl, .inr rfl⟩
theorem plog (f : LongF) : Statement (.plog f) := ⟨rfl, .inr rfl⟩
theorem pcvt (f : LongF) : Statement (.pcvt f) := ⟨rfl, .inr rfl⟩
theorem vote (f : LongF) : Statement (.vote f) := ⟨rfl, .inr rfl⟩
theorem sadd (f : LongF) : Statement (.sadd f) := ⟨rfl, .inr rfl⟩
theorem ssub (f : LongF) : Statement (.ssub f) := ⟨rfl, .inr rfl⟩
theorem smul (f : LongF) : Statement (.smul f) := ⟨rfl, .inr rfl⟩
theorem smin (f : LongF) : Statement (.smin f) := ⟨rfl, .inr rfl⟩
theorem smax (f : LongF) : Statement (.smax f) := ⟨rfl, .inr rfl⟩
theorem slog (f : LongF) : Statement (.slog f) := ⟨rfl, .inr rfl⟩
theorem sshl (f : LongF) : Statement (.sshl f) := ⟨rfl, .inr rfl⟩
theorem sshr (f : LongF) : Statement (.sshr f) := ⟨rfl, .inr rfl⟩
theorem scmp (f : LongF) : Statement (.scmp f) := ⟨rfl, .inr rfl⟩
theorem ssel (f : LongF) : Statement (.ssel f) := ⟨rfl, .inr rfl⟩
theorem smov (f : LongF) : Statement (.smov f) := ⟨rfl, .inr rfl⟩
theorem cbase (f : LongF) : Statement (.cbase f) := ⟨rfl, .inr rfl⟩
theorem sbit (f : LongF) : Statement (.sbit f) := ⟨rfl, .inr rfl⟩
theorem fadd (f : LongF) : Statement (.fadd f) := ⟨rfl, .inr rfl⟩
theorem fsub (f : LongF) : Statement (.fsub f) := ⟨rfl, .inr rfl⟩
theorem fmul (f : LongF) : Statement (.fmul f) := ⟨rfl, .inr rfl⟩
theorem ffma (f : LongF) : Statement (.ffma f) := ⟨rfl, .inr rfl⟩
theorem fmin (f : LongF) : Statement (.fmin f) := ⟨rfl, .inr rfl⟩
theorem fmax (f : LongF) : Statement (.fmax f) := ⟨rfl, .inr rfl⟩
theorem fcmp (f : LongF) : Statement (.fcmp f) := ⟨rfl, .inr rfl⟩
theorem fsel (f : LongF) : Statement (.fsel f) := ⟨rfl, .inr rfl⟩
theorem fclass (f : LongF) : Statement (.fclass f) := ⟨rfl, .inr rfl⟩
theorem frnd (f : LongF) : Statement (.frnd f) := ⟨rfl, .inr rfl⟩
theorem fldexp (f : LongF) : Statement (.fldexp f) := ⟨rfl, .inr rfl⟩
theorem ffrexp (f : LongF) : Statement (.ffrexp f) := ⟨rfl, .inr rfl⟩
theorem fdiv (f : LongF) : Statement (.fdiv f) := ⟨rfl, .inr rfl⟩
theorem fsqrt (f : LongF) : Statement (.fsqrt f) := ⟨rfl, .inr rfl⟩
theorem fexp2 (f : LongF) : Statement (.fexp2 f) := ⟨rfl, .inr rfl⟩
theorem flog2 (f : LongF) : Statement (.flog2 f) := ⟨rfl, .inr rfl⟩
theorem fsin (f : LongF) : Statement (.fsin f) := ⟨rfl, .inr rfl⟩
theorem fcos (f : LongF) : Statement (.fcos f) := ⟨rfl, .inr rfl⟩
theorem ftanh (f : LongF) : Statement (.ftanh f) := ⟨rfl, .inr rfl⟩
theorem flogi (f : LongF) : Statement (.flogi f) := ⟨rfl, .inr rfl⟩
theorem frcp (f : LongF) : Statement (.frcp f) := ⟨rfl, .inr rfl⟩
theorem frsqrt (f : LongF) : Statement (.frsqrt f) := ⟨rfl, .inr rfl⟩
theorem cvt (f : LongF) : Statement (.cvt f) := ⟨rfl, .inr rfl⟩
theorem bquant (f : LongF) : Statement (.bquant f) := ⟨rfl, .inr rfl⟩
theorem bdequant (f : LongF) : Statement (.bdequant f) := ⟨rfl, .inr rfl⟩
theorem pack (f : LongF) : Statement (.pack f) := ⟨rfl, .inr rfl⟩
theorem unpack (f : LongF) : Statement (.unpack f) := ⟨rfl, .inr rfl⟩
theorem srseed (f : LongF) : Statement (.srseed f) := ⟨rfl, .inr rfl⟩
theorem ld (f : LongF) : Statement (.ld f) := ⟨rfl, .inr rfl⟩
theorem st (f : LongF) : Statement (.st f) := ⟨rfl, .inr rfl⟩
theorem lda (f : LongF) : Statement (.lda f) := ⟨rfl, .inr rfl⟩
theorem stl (f : LongF) : Statement (.stl f) := ⟨rfl, .inr rfl⟩
theorem atom (f : LongF) : Statement (.atom f) := ⟨rfl, .inr rfl⟩
theorem cas (f : LongF) : Statement (.cas f) := ⟨rfl, .inr rfl⟩
theorem fence (f : LongF) : Statement (.fence f) := ⟨rfl, .inr rfl⟩
theorem marm (f : LongF) : Statement (.marm f) := ⟨rfl, .inr rfl⟩
theorem mwait (f : LongF) : Statement (.mwait f) := ⟨rfl, .inr rfl⟩
theorem bar (f : LongF) : Statement (.bar f) := ⟨rfl, .inr rfl⟩
theorem push (f : LongF) : Statement (.push f) := ⟨rfl, .inr rfl⟩
theorem pop (f : LongF) : Statement (.pop f) := ⟨rfl, .inr rfl⟩
theorem oload (f : LongF) : Statement (.oload f) := ⟨rfl, .inr rfl⟩
theorem mma (f : LongF) : Statement (.mma f) := ⟨rfl, .inr rfl⟩
theorem cmma (f : LongF) : Statement (.cmma f) := ⟨rfl, .inr rfl⟩
theorem mzpc (f : LongF) : Statement (.mzpc f) := ⟨rfl, .inr rfl⟩
theorem aload (f : LongF) : Statement (.aload f) := ⟨rfl, .inr rfl⟩
theorem aread (f : LongF) : Statement (.aread f) := ⟨rfl, .inr rfl⟩
theorem awrite (f : LongF) : Statement (.awrite f) := ⟨rfl, .inr rfl⟩
theorem adrain (f : LongF) : Statement (.adrain f) := ⟨rfl, .inr rfl⟩
theorem semsig (f : LongF) : Statement (.semsig f) := ⟨rfl, .inr rfl⟩
theorem semwait (f : LongF) : Statement (.semwait f) := ⟨rfl, .inr rfl⟩
theorem semrd (f : LongF) : Statement (.semrd f) := ⟨rfl, .inr rfl⟩
theorem post (f : LongF) : Statement (.post f) := ⟨rfl, .inr rfl⟩
theorem collect (f : LongF) : Statement (.collect f) := ⟨rfl, .inr rfl⟩
theorem amsend (f : LongF) : Statement (.amsend f) := ⟨rfl, .inr rfl⟩
theorem coll (f : LongF) : Statement (.coll f) := ⟨rfl, .inr rfl⟩
theorem bra (f : JumpF) : Statement (.bra f) := ⟨rfl, .inr rfl⟩
theorem call (f : JumpF) : Statement (.call f) := ⟨rfl, .inr rfl⟩
theorem brx (f : LongF) : Statement (.brx f) := ⟨rfl, .inr rfl⟩
theorem callx (f : LongF) : Statement (.callx f) := ⟨rfl, .inr rfl⟩
theorem ret (f : LongF) : Statement (.ret f) := ⟨rfl, .inr rfl⟩
theorem join (f : LongF) : Statement (.join f) := ⟨rfl, .inr rfl⟩
theorem exit (f : LongF) : Statement (.exit f) := ⟨rfl, .inr rfl⟩
theorem trap (f : LongF) : Statement (.trap f) := ⟨rfl, .inr rfl⟩
theorem yield (f : LongF) : Statement (.yield f) := ⟨rfl, .inr rfl⟩
theorem nop (f : LongF) : Statement (.nop f) := ⟨rfl, .inr rfl⟩
theorem gset (f : LongF) : Statement (.gset f) := ⟨rfl, .inr rfl⟩
theorem gclr (f : LongF) : Statement (.gclr f) := ⟨rfl, .inr rfl⟩
theorem csrRd (f : LongF) : Statement (.csrRd f) := ⟨rfl, .inr rfl⟩
theorem csrWr (f : LongF) : Statement (.csrWr f) := ⟨rfl, .inr rfl⟩
theorem tret (f : LongF) : Statement (.tret f) := ⟨rfl, .inr rfl⟩
theorem iaddI32Short (f : ShortF) : Statement (.iaddI32Short f) := ⟨rfl, .inl rfl⟩
theorem isubI32Short (f : ShortF) : Statement (.isubI32Short f) := ⟨rfl, .inl rfl⟩
theorem iaddI64Short (f : ShortF) : Statement (.iaddI64Short f) := ⟨rfl, .inl rfl⟩
theorem iminI32Short (f : ShortF) : Statement (.iminI32Short f) := ⟨rfl, .inl rfl⟩
theorem imaxI32Short (f : ShortF) : Statement (.imaxI32Short f) := ⟨rfl, .inl rfl⟩
theorem iminUi32Short (f : ShortF) : Statement (.iminUi32Short f) := ⟨rfl, .inl rfl⟩
theorem imaxUi32Short (f : ShortF) : Statement (.imaxUi32Short f) := ⟨rfl, .inl rfl⟩
theorem imulI24Short (f : ShortF) : Statement (.imulI24Short f) := ⟨rfl, .inl rfl⟩
theorem imulI32Short (f : ShortF) : Statement (.imulI32Short f) := ⟨rfl, .inl rfl⟩
theorem iaddrX4Ui32Short (f : ShortF) : Statement (.iaddrX4Ui32Short f) := ⟨rfl, .inl rfl⟩
theorem icmpEqI32Short (f : ShortF) : Statement (.icmpEqI32Short f) := ⟨rfl, .inl rfl⟩
theorem icmpNeI32Short (f : ShortF) : Statement (.icmpNeI32Short f) := ⟨rfl, .inl rfl⟩
theorem icmpLtI32Short (f : ShortF) : Statement (.icmpLtI32Short f) := ⟨rfl, .inl rfl⟩
theorem icmpLtUi32Short (f : ShortF) : Statement (.icmpLtUi32Short f) := ⟨rfl, .inl rfl⟩
theorem icmpGeI32Short (f : ShortF) : Statement (.icmpGeI32Short f) := ⟨rfl, .inl rfl⟩
theorem andB32Short (f : ShortF) : Statement (.andB32Short f) := ⟨rfl, .inl rfl⟩
theorem orB32Short (f : ShortF) : Statement (.orB32Short f) := ⟨rfl, .inl rfl⟩
theorem xorB32Short (f : ShortF) : Statement (.xorB32Short f) := ⟨rfl, .inl rfl⟩
theorem andnB32Short (f : ShortF) : Statement (.andnB32Short f) := ⟨rfl, .inl rfl⟩
theorem notB32Short (f : ShortF) : Statement (.notB32Short f) := ⟨rfl, .inl rfl⟩
theorem shlB32Short (f : ShortF) : Statement (.shlB32Short f) := ⟨rfl, .inl rfl⟩
theorem shrUi32Short (f : ShortF) : Statement (.shrUi32Short f) := ⟨rfl, .inl rfl⟩
theorem shrI32Short (f : ShortF) : Statement (.shrI32Short f) := ⟨rfl, .inl rfl⟩
theorem rotLB32Short (f : ShortF) : Statement (.rotLB32Short f) := ⟨rfl, .inl rfl⟩
theorem bitPopcB32Short (f : ShortF) : Statement (.bitPopcB32Short f) := ⟨rfl, .inl rfl⟩
theorem bitClzB32Short (f : ShortF) : Statement (.bitClzB32Short f) := ⟨rfl, .inl rfl⟩
theorem movB32Short (f : ShortF) : Statement (.movB32Short f) := ⟨rfl, .inl rfl⟩
theorem movB64Short (f : ShortF) : Statement (.movB64Short f) := ⟨rfl, .inl rfl⟩
theorem shlB64Short (f : ShortF) : Statement (.shlB64Short f) := ⟨rfl, .inl rfl⟩
theorem shrUi64Short (f : ShortF) : Statement (.shrUi64Short f) := ⟨rfl, .inl rfl⟩
theorem bfldByteB32Short (f : ShortF) : Statement (.bfldByteB32Short f) := ⟨rfl, .inl rfl⟩
theorem smovB64Short (f : ShortF) : Statement (.smovB64Short f) := ⟨rfl, .inl rfl⟩
theorem cbaseShort (f : ShortF) : Statement (.cbaseShort f) := ⟨rfl, .inl rfl⟩
theorem faddF32Short (f : ShortF) : Statement (.faddF32Short f) := ⟨rfl, .inl rfl⟩
theorem fsubF32Short (f : ShortF) : Statement (.fsubF32Short f) := ⟨rfl, .inl rfl⟩
theorem fmulF32Short (f : ShortF) : Statement (.fmulF32Short f) := ⟨rfl, .inl rfl⟩
theorem fminF32Short (f : ShortF) : Statement (.fminF32Short f) := ⟨rfl, .inl rfl⟩
theorem fmaxF32Short (f : ShortF) : Statement (.fmaxF32Short f) := ⟨rfl, .inl rfl⟩
theorem fminNanF32Short (f : ShortF) : Statement (.fminNanF32Short f) := ⟨rfl, .inl rfl⟩
theorem fmaxNanF32Short (f : ShortF) : Statement (.fmaxNanF32Short f) := ⟨rfl, .inl rfl⟩
theorem faddF16x2Short (f : ShortF) : Statement (.faddF16x2Short f) := ⟨rfl, .inl rfl⟩
theorem fmulF16x2Short (f : ShortF) : Statement (.fmulF16x2Short f) := ⟨rfl, .inl rfl⟩
theorem faddBf16x2Short (f : ShortF) : Statement (.faddBf16x2Short f) := ⟨rfl, .inl rfl⟩
theorem fmulBf16x2Short (f : ShortF) : Statement (.fmulBf16x2Short f) := ⟨rfl, .inl rfl⟩
theorem fcmpLtF32Short (f : ShortF) : Statement (.fcmpLtF32Short f) := ⟨rfl, .inl rfl⟩
theorem fcmpLeF32Short (f : ShortF) : Statement (.fcmpLeF32Short f) := ⟨rfl, .inl rfl⟩
theorem fcmpEqF32Short (f : ShortF) : Statement (.fcmpEqF32Short f) := ⟨rfl, .inl rfl⟩
theorem fldexpF32Short (f : ShortF) : Statement (.fldexpF32Short f) := ⟨rfl, .inl rfl⟩
theorem frndRneF32Short (f : ShortF) : Statement (.frndRneF32Short f) := ⟨rfl, .inl rfl⟩
theorem fexp2F32Short (f : ShortF) : Statement (.fexp2F32Short f) := ⟨rfl, .inl rfl⟩
theorem flog2F32Short (f : ShortF) : Statement (.flog2F32Short f) := ⟨rfl, .inl rfl⟩
theorem fsinF32Short (f : ShortF) : Statement (.fsinF32Short f) := ⟨rfl, .inl rfl⟩
theorem fcosF32Short (f : ShortF) : Statement (.fcosF32Short f) := ⟨rfl, .inl rfl⟩
theorem ftanhF32Short (f : ShortF) : Statement (.ftanhF32Short f) := ⟨rfl, .inl rfl⟩
theorem flogiF32Short (f : ShortF) : Statement (.flogiF32Short f) := ⟨rfl, .inl rfl⟩
theorem frcpF32Short (f : ShortF) : Statement (.frcpF32Short f) := ⟨rfl, .inl rfl⟩
theorem frsqrtF32Short (f : ShortF) : Statement (.frsqrtF32Short f) := ⟨rfl, .inl rfl⟩
theorem cvtF32I32Short (f : ShortF) : Statement (.cvtF32I32Short f) := ⟨rfl, .inl rfl⟩
theorem cvtI32F32Short (f : ShortF) : Statement (.cvtI32F32Short f) := ⟨rfl, .inl rfl⟩
theorem cvtF16F32Short (f : ShortF) : Statement (.cvtF16F32Short f) := ⟨rfl, .inl rfl⟩
theorem cvtF32F16Short (f : ShortF) : Statement (.cvtF32F16Short f) := ⟨rfl, .inl rfl⟩
theorem cvtBf16F32Short (f : ShortF) : Statement (.cvtBf16F32Short f) := ⟨rfl, .inl rfl⟩
theorem cvtF32Bf16Short (f : ShortF) : Statement (.cvtF32Bf16Short f) := ⟨rfl, .inl rfl⟩
theorem ldStackB32Short (f : ShortF) : Statement (.ldStackB32Short f) := ⟨rfl, .inl rfl⟩
theorem ldTeamB32Short (f : ShortF) : Statement (.ldTeamB32Short f) := ⟨rfl, .inl rfl⟩
theorem ldScrB32Short (f : ShortF) : Statement (.ldScrB32Short f) := ⟨rfl, .inl rfl⟩
theorem ldTeamB64Short (f : ShortF) : Statement (.ldTeamB64Short f) := ⟨rfl, .inl rfl⟩
theorem ldScrB64Short (f : ShortF) : Statement (.ldScrB64Short f) := ⟨rfl, .inl rfl⟩
theorem ldTeamB128Short (f : ShortF) : Statement (.ldTeamB128Short f) := ⟨rfl, .inl rfl⟩
theorem ldScrB128Short (f : ShortF) : Statement (.ldScrB128Short f) := ⟨rfl, .inl rfl⟩
theorem ldPeerB32Short (f : ShortF) : Statement (.ldPeerB32Short f) := ⟨rfl, .inl rfl⟩
theorem fenceTeamShort (f : ShortF) : Statement (.fenceTeamShort f) := ⟨rfl, .inl rfl⟩
theorem fenceDieShort (f : ShortF) : Statement (.fenceDieShort f) := ⟨rfl, .inl rfl⟩
theorem fenceModShort (f : ShortF) : Statement (.fenceModShort f) := ⟨rfl, .inl rfl⟩
theorem fenceSysShort (f : ShortF) : Statement (.fenceSysShort f) := ⟨rfl, .inl rfl⟩
theorem barShort (f : ShortF) : Statement (.barShort f) := ⟨rfl, .inl rfl⟩
theorem mwaitShort (f : ShortF) : Statement (.mwaitShort f) := ⟨rfl, .inl rfl⟩
theorem popB32Short (f : ShortF) : Statement (.popB32Short f) := ⟨rfl, .inl rfl⟩
theorem oclaim (f : ShortF) : Statement (.oclaim f) := ⟨rfl, .inl rfl⟩
theorem orelease (f : ShortF) : Statement (.orelease f) := ⟨rfl, .inl rfl⟩
theorem aclaim (f : ShortF) : Statement (.aclaim f) := ⟨rfl, .inl rfl⟩
theorem arelease (f : ShortF) : Statement (.arelease f) := ⟨rfl, .inl rfl⟩
theorem aclear (f : ShortF) : Statement (.aclear f) := ⟨rfl, .inl rfl⟩
theorem mwaitq (f : ShortF) : Statement (.mwaitq f) := ⟨rfl, .inl rfl⟩
theorem mstat (f : ShortF) : Statement (.mstat f) := ⟨rfl, .inl rfl⟩
theorem braShort (off : BitVec 23) : Statement (.braShort off) := ⟨rfl, .inl rfl⟩
theorem callShort (off : BitVec 23) : Statement (.callShort off) := ⟨rfl, .inl rfl⟩
theorem retShort (f : ShortF) : Statement (.retShort f) := ⟨rfl, .inl rfl⟩
theorem land (f : ShortF) : Statement (.land f) := ⟨rfl, .inl rfl⟩
theorem exitShort (f : ShortF) : Statement (.exitShort f) := ⟨rfl, .inl rfl⟩
theorem nopShort (f : ShortF) : Statement (.nopShort f) := ⟨rfl, .inl rfl⟩
theorem yieldShort (f : ShortF) : Statement (.yieldShort f) := ⟨rfl, .inl rfl⟩
theorem trapShort (f : ShortF) : Statement (.trapShort f) := ⟨rfl, .inl rfl⟩
theorem trapBrkShort (f : ShortF) : Statement (.trapBrkShort f) := ⟨rfl, .inl rfl⟩
theorem joinShort (f : ShortF) : Statement (.joinShort f) := ⟨rfl, .inl rfl⟩
theorem iaddI32Limm (f : LimmF) : Statement (.iaddI32Limm f) := ⟨rfl, .inr rfl⟩
theorem iaddI64Limm (f : LimmF) : Statement (.iaddI64Limm f) := ⟨rfl, .inr rfl⟩
theorem imulI24Limm (f : LimmF) : Statement (.imulI24Limm f) := ⟨rfl, .inr rfl⟩
theorem icmpEqI32Limm (f : LimmF) : Statement (.icmpEqI32Limm f) := ⟨rfl, .inr rfl⟩
theorem icmpLtI32Limm (f : LimmF) : Statement (.icmpLtI32Limm f) := ⟨rfl, .inr rfl⟩
theorem icmpLtUi32Limm (f : LimmF) : Statement (.icmpLtUi32Limm f) := ⟨rfl, .inr rfl⟩
theorem iaddrUi32Limm (f : LimmF) : Statement (.iaddrUi32Limm f) := ⟨rfl, .inr rfl⟩
theorem andB32Limm (f : LimmF) : Statement (.andB32Limm f) := ⟨rfl, .inr rfl⟩
theorem orB32Limm (f : LimmF) : Statement (.orB32Limm f) := ⟨rfl, .inr rfl⟩
theorem xorB32Limm (f : LimmF) : Statement (.xorB32Limm f) := ⟨rfl, .inr rfl⟩
theorem movB32Limm (f : LimmF) : Statement (.movB32Limm f) := ⟨rfl, .inr rfl⟩
theorem movB64Limm (f : LimmF) : Statement (.movB64Limm f) := ⟨rfl, .inr rfl⟩
theorem smovB64Limm (f : LimmF) : Statement (.smovB64Limm f) := ⟨rfl, .inr rfl⟩
theorem cbaseLimm (f : LimmF) : Statement (.cbaseLimm f) := ⟨rfl, .inr rfl⟩
theorem faddF32Limm (f : LimmF) : Statement (.faddF32Limm f) := ⟨rfl, .inr rfl⟩
theorem fmulF32Limm (f : LimmF) : Statement (.fmulF32Limm f) := ⟨rfl, .inr rfl⟩
theorem fmaxF32Limm (f : LimmF) : Statement (.fmaxF32Limm f) := ⟨rfl, .inr rfl⟩
theorem fminF32Limm (f : LimmF) : Statement (.fminF32Limm f) := ⟨rfl, .inr rfl⟩
theorem ldStackB32Limm (f : LimmF) : Statement (.ldStackB32Limm f) := ⟨rfl, .inr rfl⟩
theorem ldTeamB32Limm (f : LimmF) : Statement (.ldTeamB32Limm f) := ⟨rfl, .inr rfl⟩
theorem ldScrB32Limm (f : LimmF) : Statement (.ldScrB32Limm f) := ⟨rfl, .inr rfl⟩
theorem ldScrB64Limm (f : LimmF) : Statement (.ldScrB64Limm f) := ⟨rfl, .inr rfl⟩
theorem ldScrB128Limm (f : LimmF) : Statement (.ldScrB128Limm f) := ⟨rfl, .inr rfl⟩
theorem ldPeerB32Limm (f : LimmF) : Statement (.ldPeerB32Limm f) := ⟨rfl, .inr rfl⟩
theorem braFar (f : LimmF) : Statement (.braFar f) := ⟨rfl, .inr rfl⟩
theorem callFar (f : LimmF) : Statement (.callFar f) := ⟨rfl, .inr rfl⟩
theorem joinLimm (f : LimmF) : Statement (.joinLimm f) := ⟨rfl, .inr rfl⟩
theorem repRepetition : Statement .repRepetition := rfl
theorem invIteration (gid : Nat) (tid : Nat) : Statement (.invIteration gid tid) := rfl
theorem joinRelease (gid : Nat) (adr : BitVec 32) : Statement (.joinRelease gid adr) := rfl
theorem spinForce (gid : Nat) (tid : Nat) : Statement (.spinForce gid tid) := rfl
theorem yieldExpiry (gid : Nat) (tid : Nat) : Statement (.yieldExpiry gid tid) := rfl
theorem contextFree (gid : Nat) (tid : Nat) : Statement (.contextFree gid tid) := rfl
theorem groupRetire (gid : Nat) : Statement (.groupRetire gid) := rfl
theorem launchComplete (lid : Nat) : Statement (.launchComplete lid) := rfl
theorem teamAdmit (lid : Nat) (team : Nat) : Statement (.teamAdmit lid team) := rfl
theorem messageWhole (m : Msg) : Statement (.messageWhole m) := rfl
theorem handlerStart (die : Nat) : Statement (.handlerStart die) := rfl
theorem storeAck (gid : Nat) (tid : Nat) (seq : Nat) : Statement (.storeAck gid tid seq) := rfl
theorem accessPerform (gid : Nat) (tid : Nat) (seq : Nat) : Statement (.accessPerform gid tid seq) := rfl
theorem faultService (core : Nat) (asid : Nat) (page : Nat) : Statement (.faultService core asid page) := rfl
theorem tableChange (asid : Nat) (c : SpaceChange) : Statement (.tableChange asid c) := rfl
theorem passGrant (quad : Nat) : Statement (.passGrant quad) := rfl
theorem passComplete (quad : Nat) : Statement (.passComplete quad) := rfl
theorem priorityRise (quad : Nat) (cid : Nat) : Statement (.priorityRise quad cid) := rfl
theorem oloadComplete (quad : Nat) (cid : Nat) : Statement (.oloadComplete quad cid) := rfl
theorem aloadComplete (quad : Nat) (cid : Nat) : Statement (.aloadComplete quad cid) := rfl
theorem areadComplete (quad : Nat) (cid : Nat) : Statement (.areadComplete quad cid) := rfl
theorem drainComplete (quad : Nat) (cid : Nat) : Statement (.drainComplete quad cid) := rfl
theorem copyAccept (gid : Nat) (tid : Nat) (seq : Nat) : Statement (.copyAccept gid tid seq) := rfl
theorem copyBegin (die : Nat) (chan : Nat) : Statement (.copyBegin die chan) := rfl
theorem checksumRecord (die : Nat) (chan : Nat) (cid : Nat) : Statement (.checksumRecord die chan cid) := rfl
theorem postmark (die : Nat) (chan : Nat) (cid : Nat) : Statement (.postmark die chan cid) := rfl
theorem copyIncrement (die : Nat) (chan : Nat) (cid : Nat) : Statement (.copyIncrement die chan cid) := rfl
theorem drainLimit (tuid : Nat) : Statement (.drainLimit tuid) := rfl
theorem dealerStart (gid : Nat) (tid : Nat) (seq : Nat) : Statement (.dealerStart gid tid seq) := rfl
theorem mopHalt (core : Nat) : Statement (.mopHalt core) := rfl
theorem mopGet (core : Nat) : Statement (.mopGet core) := rfl
theorem mopGets (core : Nat) : Statement (.mopGets core) := rfl
theorem mopPutm (core : Nat) : Statement (.mopPutm core) := rfl
theorem mopPut (core : Nat) : Statement (.mopPut core) := rfl
theorem mopExpand (core : Nat) : Statement (.mopExpand core) := rfl
theorem mopCvtn (core : Nat) : Statement (.mopCvtn core) := rfl
theorem mopCvtw (core : Nat) : Statement (.mopCvtw core) := rfl
theorem mopTr8 (core : Nat) : Statement (.mopTr8 core) := rfl
theorem mopCopy (core : Nat) : Statement (.mopCopy core) := rfl
theorem mopMovi (core : Nat) : Statement (.mopMovi core) := rfl
theorem mopAddi (core : Nat) : Statement (.mopAddi core) := rfl
theorem mopLdk (core : Nat) : Statement (.mopLdk core) := rfl
theorem mopLoop (core : Nat) : Statement (.mopLoop core) := rfl
theorem mopJmp (core : Nat) : Statement (.mopJmp core) := rfl
theorem mopSemw (core : Nat) : Statement (.mopSemw core) := rfl
theorem mopSig (core : Nat) : Statement (.mopSig core) := rfl
theorem mopFence (core : Nat) : Statement (.mopFence core) := rfl
theorem collectiveComplete (uid : Nat) (peers : List PeerSource) (rejected : Bool) : Statement (.collectiveComplete uid peers rejected) := rfl
theorem linkTraining (port : Nat) (partner : Nat) (partnerPort : PortShare) : Statement (.linkTraining port partner partnerPort) := rfl
theorem flitReceive (port : Nat) (header rest : List (BitVec 8)) : Statement (.flitReceive port header rest) := rfl
theorem replayRequest (port : Nat) (seq : Nat) : Statement (.replayRequest port seq) := rfl
theorem linkReplayTimeout (port : Nat) : Statement (.linkReplayTimeout port) := rfl
theorem keyExhausted (port : Nat) : Statement (.keyExhausted port) := rfl
theorem detourInstall (peer : Nat) (onward : BitVec 16) : Statement (.detourInstall peer onward) := rfl
theorem requestResend (die : Nat) (peer : Nat) (seq : BitVec 32) : Statement (.requestResend die peer seq) := rfl
theorem requestArrive (r : PeerRequest) : Statement (.requestArrive r) := rfl
theorem responseArrive (die : Nat) (peer : Nat) (seq : BitVec 32) (resp : PeerResponse) : Statement (.responseArrive die peer seq resp) := rfl
theorem windowChange (index : Nat) (entry : BitVec 128) : Statement (.windowChange index entry) := rfl
theorem tailPointerWrite (gid : Nat) (tid : Nat) (seq : Nat) : Statement (.tailPointerWrite gid tid seq) := rfl
theorem msixIncrement (port : Nat) (adr : BitVec 64) (data : BitVec 32) : Statement (.msixIncrement port adr data) := rfl
theorem atsTranslationRequest (rid : Nat) (pasid : Option Nat) (va : BitVec 64) (ask : AtsAsk) : Statement (.atsTranslationRequest rid pasid va ask) := rfl
theorem pageRequest (rid : Nat) (pasid : Option Nat) (va : BitVec 64) (read : Bool) (write : Bool) (grp : Nat) : Statement (.pageRequest rid pasid va read write grp) := rfl
theorem pageRequestService : Statement .pageRequestService := rfl
theorem pageResponse : Statement .pageResponse := rfl
theorem stopMarker (rid : Nat) (pasid : Nat) : Statement (.stopMarker rid pasid) := rfl
theorem endpointRequest (r : EndpointRequest) : Statement (.endpointRequest r) := rfl
theorem bridgeRequest (port : Nat) (adr : BitVec 64) (write : Bool) (bytes : List (BitVec 8)) (len : Nat) : Statement (.bridgeRequest port adr write bytes len) := rfl
theorem functionFailure (rid : Nat) (code : Nat) : Statement (.functionFailure rid code) := rfl
theorem invalidateTimeout (rid : Nat) : Statement (.invalidateTimeout rid) := rfl
theorem hotAdd (port rid cls : Nat) (offers : DeviceOffers) (units : Nat) (dflt : Option Nat) : Statement (.hotAdd port rid cls offers units dflt) := rfl
theorem frameReceive (port : Nat) (fcsOk : Bool) (bytes : List (BitVec 8)) : Statement (.frameReceive port fcsOk bytes) := rfl
theorem producerWrite (port : Nat) (cls : Nat) : Statement (.producerWrite port cls) := rfl
theorem ingestIncrement (port : Nat) (cls : Nat) : Statement (.ingestIncrement port cls) := rfl
theorem pausePoll (port : Nat) (cls : Nat) : Statement (.pausePoll port cls) := rfl
theorem pauseRepeat (port : Nat) (cls : Nat) : Statement (.pauseRepeat port cls) := rfl
theorem wakeFilterMatch (port : Nat) (bytes : List (BitVec 8)) : Statement (.wakeFilterMatch port bytes) := rfl
theorem heldFrameReplay : Statement .heldFrameReplay := rfl
theorem loadObject (c : Intake) : Statement (.loadObject c) := rfl
theorem unloadObject (c : Intake) : Statement (.unloadObject c) := rfl
theorem unloadEffect (handle : Nat) : Statement (.unloadEffect handle) := rfl
theorem runGraph (c : Intake) : Statement (.runGraph c) := rfl
theorem openQueue (c : Intake) : Statement (.openQueue c) := rfl
theorem openRing (c : Intake) : Statement (.openRing c) := rfl
theorem closeRing (c : Intake) : Statement (.closeRing c) := rfl
theorem unknownCommand (c : Intake) : Statement (.unknownCommand c) := rfl
theorem runBegin (queue : Nat) : Statement (.runBegin queue) := rfl
theorem quantumBoundary : Statement .quantumBoundary := rfl
theorem queueLevelRise (queue : Nat) : Statement (.queueLevelRise queue) := rfl
theorem admissionWaitLimit (lid : Nat) (team : Nat) : Statement (.admissionWaitLimit lid team) := rfl
theorem preempt (tuid : Nat) : Statement (.preempt tuid) := rfl
theorem teamResume (tuid : Nat) : Statement (.teamResume tuid) := rfl
theorem haltRequest (gid : Nat) : Statement (.haltRequest gid) := rfl
theorem stepAll (gid : Nat) : Statement (.stepAll gid) := rfl
theorem stepOne (gid : Nat) : Statement (.stepOne gid) := rfl
theorem debugResume (gid : Nat) : Statement (.debugResume gid) := rfl
theorem debugStateRead (gid : Nat) (item : DebugItem) : Statement (.debugStateRead gid item) := rfl
theorem debugStateWrite (gid : Nat) (item : DebugItem) (value : BitVec 64) : Statement (.debugStateWrite gid item value) := rfl
theorem letterSend (src : Nat) (dst : Nat) (kind : Nat) (body : List (BitVec 8)) : Statement (.letterSend src dst kind body) := rfl
theorem letterArrival (src : Nat) (dst : Nat) : Statement (.letterArrival src dst) := rfl
theorem letterboxRefusedClear (core : Nat) (mask : BitVec 8) : Statement (.letterboxRefusedClear core mask) := rfl
theorem powerOn (hbm : BitVec 24) (found : PortsFound) : Statement (.powerOn hbm found) := rfl
theorem bootFailBlink : Statement .bootFailBlink := rfl
theorem attestationRequest (nonce : List (BitVec 8)) : Statement (.attestationRequest nonce) := rfl
theorem planSelect (plan : Nat) : Statement (.planSelect plan) := rfl
theorem clockRelock (die : Nat) : Statement (.clockRelock die) := rfl
theorem powerSample (watts : Nat) : Statement (.powerSample watts) := rfl
theorem wearSample (die : Nat) (index : Nat) : Statement (.wearSample die index) := rfl
theorem healthReport : Statement .healthReport := rfl
theorem systemCoreGate (filter : List (BitVec 272)) : Statement (.systemCoreGate filter) := rfl
theorem illegalInstruction (cause : BitVec 16) (word : BitVec 32) : Statement (.illegalInstruction cause word) := rfl
theorem itemWritten (lid : Nat) (hole : Nat) : Statement (.itemWritten lid hole) := rfl
theorem powerLoss : Statement .powerLoss := rfl

end Sys2Proof.Laws.Words
end

