-- ==== Sys2Proof/Laws/State.lean ====
section
/-!
SUPPORT. One lemma per field and update of the state: a field that an update does not name is as it was, true by `rfl`, so that a proof
never unfolds a record update; and what reading gives after the table and list updates.
-/

namespace Sys2Proof.Machine

/-! ### Tables -/

@[simp] theorem tget_tset_self {α : Type} (t : Tab α) (k : Nat) (v d : α) : tget (tset t k v) k d = v := by
  induction t with
  | nil => simp [tset, tget]
  | cons e r ih =>
    obtain ⟨j, w⟩ := e
    simp only [tset]
    split
    · simp [tget]
    · split
      · simp [tget]
      · rename_i h; simp [tget, h, ih]
theorem tget_tset_other {α : Type} (t : Tab α) {k j : Nat} (v d : α) (h : j ≠ k) : tget (tset t k v) j d = tget t j d := by
  induction t with
  | nil => simp [tset, tget, Ne.symm h]
  | cons e r ih =>
    obtain ⟨i, w⟩ := e
    simp only [tset]
    split
    · simp [tget, Ne.symm h]
    · split
      · rename_i e; subst e; simp [tget, Ne.symm h]
      · simp [tget, ih]

@[simp] theorem State.setCore_core (s : State) (c : Nat) (x : Core) : (s.setCore c x).core c = x := tget_tset_self _ _ _ _
theorem State.setCore_core_other (s : State) {c d : Nat} (x : Core) (h : d ≠ c) : (s.setCore c x).core d = s.core d :=
  tget_tset_other _ _ _ h
@[simp] theorem State.setDie_die (s : State) (d : Nat) (x : Die) : (s.setDie d x).die d = x := tget_tset_self _ _ _ _
theorem State.setDie_die_other (s : State) {d e : Nat} (x : Die) (h : e ≠ d) : (s.setDie d x).die e = s.die e := tget_tset_other _ _ _ h
@[simp] theorem State.setQuad_quad (s : State) (q : Nat) (x : Quad) : (s.setQuad q x).quad q = x := tget_tset_self _ _ _ _
theorem State.setQuad_quad_other (s : State) {q r : Nat} (x : Quad) (h : r ≠ q) : (s.setQuad q x).quad r = s.quad r :=
  tget_tset_other _ _ _ h
@[simp] theorem State.setPort_port (s : State) (p : Nat) (x : Port) : (s.setPort p x).port p = x := tget_tset_self _ _ _ _
theorem State.setPort_port_other (s : State) {p q : Nat} (x : Port) (h : q ≠ p) : (s.setPort p x).port q = s.port q :=
  tget_tset_other _ _ _ h
@[simp] theorem State.setSwq_swq (s : State) (q : Nat) (x : SwQueue) : (s.setSwq q x).swq q = x := tget_tset_self _ _ _ _
theorem State.setSwq_swq_other (s : State) {q r : Nat} (x : SwQueue) (h : r ≠ q) : (s.setSwq q x).swq r = s.swq r :=
  tget_tset_other _ _ _ h
@[simp] theorem State.setRing_ring (s : State) (n : Nat) (x : Ring) : (s.setRing n x).ring n = x := tget_tset_self _ _ _ _

/-! ### Groups and threads -/

theorem find_map_key {α : Type} (l : List α) (key : α → Nat) (k : Nat) (f : α → α) (hf : ∀ a, key (f a) = key a) :
    (l.map fun a => if key a = k then f a else a).find? (fun a => key a == k) = (l.find? fun a => key a == k).map f := by
  induction l with
  | nil => rfl
  | cons a r ih =>
    by_cases h : key a = k
    · simp [h, hf]
    · simp [h, ih]
theorem State.modGroup_group (s : State) (gid : Nat) (f : Group → Group) (hf : ∀ g, (f g).gid = g.gid) :
    (s.modGroup gid f).group? gid = (s.group? gid).map f := find_map_key _ Group.gid gid f hf
theorem State.modTeam_team (s : State) (tuid : Nat) (f : Team → Team) (hf : ∀ t, (f t).tuid = t.tuid) :
    (s.modTeam tuid f).team? tuid = (s.team? tuid).map f := find_map_key _ Team.tuid tuid f hf
theorem State.modLaunch_launch (s : State) (lid : Nat) (f : Launch → Launch) (hf : ∀ l, (f l).lid = l.lid) :
    (s.modLaunch lid f).launch? lid = (s.launch? lid).map f := find_map_key _ Launch.lid lid f hf
theorem State.modThread_group (s : State) (gid tid : Nat) (f : Thread → Thread) :
    (s.modThread gid tid f).group? gid = (s.group? gid).map fun g => g.modThread tid f := s.modGroup_group gid _ fun _ => rfl
theorem State.modThread_thread (s : State) (gid tid : Nat) (f : Thread → Thread) :
    (s.modThread gid tid f).thread? gid tid = (s.thread? gid tid).map f := by
  unfold State.thread?
  rw [s.modThread_group]
  cases s.group? gid <;> simp [Group.modThread]


/-! ### `setCore` -/

@[simp] theorem State.setCore_mem (s : State) (c : Nat) (x : Core) : (s.setCore c x).mem = s.mem := rfl
@[simp] theorem State.setCore_sram (s : State) (c : Nat) (x : Core) : (s.setCore c x).sram = s.sram := rfl
@[simp] theorem State.setCore_badWords (s : State) (c : Nat) (x : Core) : (s.setCore c x).badWords = s.badWords := rfl
@[simp] theorem State.setCore_softWords (s : State) (c : Nat) (x : Core) : (s.setCore c x).softWords = s.softWords := rfl
@[simp] theorem State.setCore_teamBad (s : State) (c : Nat) (x : Core) : (s.setCore c x).teamBad = s.teamBad := rfl
@[simp] theorem State.setCore_teamSoft (s : State) (c : Nat) (x : Core) : (s.setCore c x).teamSoft = s.teamSoft := rfl
@[simp] theorem State.setCore_groups (s : State) (c : Nat) (x : Core) : (s.setCore c x).groups = s.groups := rfl
@[simp] theorem State.setCore_teams (s : State) (c : Nat) (x : Core) : (s.setCore c x).teams = s.teams := rfl
@[simp] theorem State.setCore_launches (s : State) (c : Nat) (x : Core) : (s.setCore c x).launches = s.launches := rfl
@[simp] theorem State.setCore_quads (s : State) (c : Nat) (x : Core) : (s.setCore c x).quads = s.quads := rfl
@[simp] theorem State.setCore_dies (s : State) (c : Nat) (x : Core) : (s.setCore c x).dies = s.dies := rfl
@[simp] theorem State.setCore_sems (s : State) (c : Nat) (x : Core) : (s.setCore c x).sems = s.sems := rfl
@[simp] theorem State.setCore_spaces (s : State) (c : Nat) (x : Core) : (s.setCore c x).spaces = s.spaces := rfl
@[simp] theorem State.setCore_frames (s : State) (c : Nat) (x : Core) : (s.setCore c x).frames = s.frames := rfl
@[simp] theorem State.setCore_pinned (s : State) (c : Nat) (x : Core) : (s.setCore c x).pinned = s.pinned := rfl
@[simp] theorem State.setCore_pins (s : State) (c : Nat) (x : Core) : (s.setCore c x).pins = s.pins := rfl
@[simp] theorem State.setCore_shootdowns (s : State) (c : Nat) (x : Core) : (s.setCore c x).shootdowns = s.shootdowns := rfl
@[simp] theorem State.setCore_nextTable (s : State) (c : Nat) (x : Core) : (s.setCore c x).nextTable = s.nextTable := rfl
@[simp] theorem State.setCore_windows (s : State) (c : Nat) (x : Core) : (s.setCore c x).windows = s.windows := rfl
@[simp] theorem State.setCore_tokenClock (s : State) (c : Nat) (x : Core) : (s.setCore c x).tokenClock = s.tokenClock := rfl
@[simp] theorem State.setCore_ports (s : State) (c : Nat) (x : Core) : (s.setCore c x).ports = s.ports := rfl
@[simp] theorem State.setCore_flitsOut (s : State) (c : Nat) (x : Core) : (s.setCore c x).flitsOut = s.flitsOut := rfl
@[simp] theorem State.setCore_fabricWait (s : State) (c : Nat) (x : Core) : (s.setCore c x).fabricWait = s.fabricWait := rfl
@[simp] theorem State.setCore_relayDrops (s : State) (c : Nat) (x : Core) : (s.setCore c x).relayDrops = s.relayDrops := rfl
@[simp] theorem State.setCore_arrived (s : State) (c : Nat) (x : Core) : (s.setCore c x).arrived = s.arrived := rfl
@[simp] theorem State.setCore_answered (s : State) (c : Nat) (x : Core) : (s.setCore c x).answered = s.answered := rfl
@[simp] theorem State.setCore_resendAfter (s : State) (c : Nat) (x : Core) : (s.setCore c x).resendAfter = s.resendAfter := rfl
@[simp] theorem State.setCore_pairs (s : State) (c : Nat) (x : Core) : (s.setCore c x).pairs = s.pairs := rfl
@[simp] theorem State.setCore_targets (s : State) (c : Nat) (x : Core) : (s.setCore c x).targets = s.targets := rfl
@[simp] theorem State.setCore_credits (s : State) (c : Nat) (x : Core) : (s.setCore c x).credits = s.credits := rfl
@[simp] theorem State.setCore_detours (s : State) (c : Nat) (x : Core) : (s.setCore c x).detours = s.detours := rfl
@[simp] theorem State.setCore_monitors (s : State) (c : Nat) (x : Core) : (s.setCore c x).monitors = s.monitors := rfl
@[simp] theorem State.setCore_messagesOut (s : State) (c : Nat) (x : Core) : (s.setCore c x).messagesOut = s.messagesOut := rfl
@[simp] theorem State.setCore_funcs (s : State) (c : Nat) (x : Core) : (s.setCore c x).funcs = s.funcs := rfl
@[simp] theorem State.setCore_queuePairs (s : State) (c : Nat) (x : Core) : (s.setCore c x).queuePairs = s.queuePairs := rfl
@[simp] theorem State.setCore_expansion (s : State) (c : Nat) (x : Core) : (s.setCore c x).expansion = s.expansion := rfl
@[simp] theorem State.setCore_bridges (s : State) (c : Nat) (x : Core) : (s.setCore c x).bridges = s.bridges := rfl
@[simp] theorem State.setCore_bridgeErrors (s : State) (c : Nat) (x : Core) : (s.setCore c x).bridgeErrors = s.bridgeErrors := rfl
@[simp] theorem State.setCore_posted (s : State) (c : Nat) (x : Core) : (s.setCore c x).posted = s.posted := rfl
@[simp] theorem State.setCore_answers (s : State) (c : Nat) (x : Core) : (s.setCore c x).answers = s.answers := rfl
@[simp] theorem State.setCore_rings (s : State) (c : Nat) (x : Core) : (s.setCore c x).rings = s.rings := rfl
@[simp] theorem State.setCore_portDrops (s : State) (c : Nat) (x : Core) : (s.setCore c x).portDrops = s.portDrops := rfl
@[simp] theorem State.setCore_pauseFrames (s : State) (c : Nat) (x : Core) : (s.setCore c x).pauseFrames = s.pauseFrames := rfl
@[simp] theorem State.setCore_filter (s : State) (c : Nat) (x : Core) : (s.setCore c x).filter = s.filter := rfl
@[simp] theorem State.setCore_armed (s : State) (c : Nat) (x : Core) : (s.setCore c x).armed = s.armed := rfl
@[simp] theorem State.setCore_heldFrame (s : State) (c : Nat) (x : Core) : (s.setCore c x).heldFrame = s.heldFrame := rfl
@[simp] theorem State.setCore_running (s : State) (c : Nat) (x : Core) : (s.setCore c x).running = s.running := rfl
@[simp] theorem State.setCore_letters (s : State) (c : Nat) (x : Core) : (s.setCore c x).letters = s.letters := rfl
@[simp] theorem State.setCore_letterSeq (s : State) (c : Nat) (x : Core) : (s.setCore c x).letterSeq = s.letterSeq := rfl
@[simp] theorem State.setCore_refused (s : State) (c : Nat) (x : Core) : (s.setCore c x).refused = s.refused := rfl
@[simp] theorem State.setCore_irqs (s : State) (c : Nat) (x : Core) : (s.setCore c x).irqs = s.irqs := rfl
@[simp] theorem State.setCore_queues (s : State) (c : Nat) (x : Core) : (s.setCore c x).queues = s.queues := rfl
@[simp] theorem State.setCore_slotsOf (s : State) (c : Nat) (x : Core) : (s.setCore c x).slotsOf = s.slotsOf := rfl
@[simp] theorem State.setCore_objects (s : State) (c : Nat) (x : Core) : (s.setCore c x).objects = s.objects := rfl
@[simp] theorem State.setCore_loads (s : State) (c : Nat) (x : Core) : (s.setCore c x).loads = s.loads := rfl
@[simp] theorem State.setCore_runs (s : State) (c : Nat) (x : Core) : (s.setCore c x).runs = s.runs := rfl
@[simp] theorem State.setCore_collectives (s : State) (c : Nat) (x : Core) : (s.setCore c x).collectives = s.collectives := rfl
@[simp] theorem State.setCore_completions (s : State) (c : Nat) (x : Core) : (s.setCore c x).completions = s.completions := rfl
@[simp] theorem State.setCore_reports (s : State) (c : Nat) (x : Core) : (s.setCore c x).reports = s.reports := rfl
@[simp] theorem State.setCore_boot (s : State) (c : Nat) (x : Core) : (s.setCore c x).boot = s.boot := rfl
@[simp] theorem State.setCore_now (s : State) (c : Nat) (x : Core) : (s.setCore c x).now = s.now := rfl
@[simp] theorem State.setCore_issue (s : State) (c : Nat) (x : Core) : (s.setCore c x).issue = s.issue := rfl
@[simp] theorem State.setCore_reps (s : State) (c : Nat) (x : Core) : (s.setCore c x).reps = s.reps := rfl
@[simp] theorem State.setCore_inputs (s : State) (c : Nat) (x : Core) : (s.setCore c x).inputs = s.inputs := rfl
@[simp] theorem State.setCore_choices (s : State) (c : Nat) (x : Core) : (s.setCore c x).choices = s.choices := rfl
@[simp] theorem State.setCore_frees (s : State) (c : Nat) (x : Core) : (s.setCore c x).frees = s.frees := rfl
@[simp] theorem State.setCore_fresh (s : State) (c : Nat) (x : Core) : (s.setCore c x).fresh = s.fresh := rfl

/-! ### `setDie` -/

@[simp] theorem State.setDie_mem (s : State) (d : Nat) (x : Die) : (s.setDie d x).mem = s.mem := rfl
@[simp] theorem State.setDie_sram (s : State) (d : Nat) (x : Die) : (s.setDie d x).sram = s.sram := rfl
@[simp] theorem State.setDie_badWords (s : State) (d : Nat) (x : Die) : (s.setDie d x).badWords = s.badWords := rfl
@[simp] theorem State.setDie_softWords (s : State) (d : Nat) (x : Die) : (s.setDie d x).softWords = s.softWords := rfl
@[simp] theorem State.setDie_teamBad (s : State) (d : Nat) (x : Die) : (s.setDie d x).teamBad = s.teamBad := rfl
@[simp] theorem State.setDie_teamSoft (s : State) (d : Nat) (x : Die) : (s.setDie d x).teamSoft = s.teamSoft := rfl
@[simp] theorem State.setDie_groups (s : State) (d : Nat) (x : Die) : (s.setDie d x).groups = s.groups := rfl
@[simp] theorem State.setDie_teams (s : State) (d : Nat) (x : Die) : (s.setDie d x).teams = s.teams := rfl
@[simp] theorem State.setDie_launches (s : State) (d : Nat) (x : Die) : (s.setDie d x).launches = s.launches := rfl
@[simp] theorem State.setDie_cores (s : State) (d : Nat) (x : Die) : (s.setDie d x).cores = s.cores := rfl
@[simp] theorem State.setDie_quads (s : State) (d : Nat) (x : Die) : (s.setDie d x).quads = s.quads := rfl
@[simp] theorem State.setDie_sems (s : State) (d : Nat) (x : Die) : (s.setDie d x).sems = s.sems := rfl
@[simp] theorem State.setDie_spaces (s : State) (d : Nat) (x : Die) : (s.setDie d x).spaces = s.spaces := rfl
@[simp] theorem State.setDie_frames (s : State) (d : Nat) (x : Die) : (s.setDie d x).frames = s.frames := rfl
@[simp] theorem State.setDie_pinned (s : State) (d : Nat) (x : Die) : (s.setDie d x).pinned = s.pinned := rfl
@[simp] theorem State.setDie_pins (s : State) (d : Nat) (x : Die) : (s.setDie d x).pins = s.pins := rfl
@[simp] theorem State.setDie_shootdowns (s : State) (d : Nat) (x : Die) : (s.setDie d x).shootdowns = s.shootdowns := rfl
@[simp] theorem State.setDie_nextTable (s : State) (d : Nat) (x : Die) : (s.setDie d x).nextTable = s.nextTable := rfl
@[simp] theorem State.setDie_windows (s : State) (d : Nat) (x : Die) : (s.setDie d x).windows = s.windows := rfl
@[simp] theorem State.setDie_tokenClock (s : State) (d : Nat) (x : Die) : (s.setDie d x).tokenClock = s.tokenClock := rfl
@[simp] theorem State.setDie_ports (s : State) (d : Nat) (x : Die) : (s.setDie d x).ports = s.ports := rfl
@[simp] theorem State.setDie_flitsOut (s : State) (d : Nat) (x : Die) : (s.setDie d x).flitsOut = s.flitsOut := rfl
@[simp] theorem State.setDie_fabricWait (s : State) (d : Nat) (x : Die) : (s.setDie d x).fabricWait = s.fabricWait := rfl
@[simp] theorem State.setDie_relayDrops (s : State) (d : Nat) (x : Die) : (s.setDie d x).relayDrops = s.relayDrops := rfl
@[simp] theorem State.setDie_arrived (s : State) (d : Nat) (x : Die) : (s.setDie d x).arrived = s.arrived := rfl
@[simp] theorem State.setDie_answered (s : State) (d : Nat) (x : Die) : (s.setDie d x).answered = s.answered := rfl
@[simp] theorem State.setDie_resendAfter (s : State) (d : Nat) (x : Die) : (s.setDie d x).resendAfter = s.resendAfter := rfl
@[simp] theorem State.setDie_pairs (s : State) (d : Nat) (x : Die) : (s.setDie d x).pairs = s.pairs := rfl
@[simp] theorem State.setDie_targets (s : State) (d : Nat) (x : Die) : (s.setDie d x).targets = s.targets := rfl
@[simp] theorem State.setDie_credits (s : State) (d : Nat) (x : Die) : (s.setDie d x).credits = s.credits := rfl
@[simp] theorem State.setDie_detours (s : State) (d : Nat) (x : Die) : (s.setDie d x).detours = s.detours := rfl
@[simp] theorem State.setDie_monitors (s : State) (d : Nat) (x : Die) : (s.setDie d x).monitors = s.monitors := rfl
@[simp] theorem State.setDie_messagesOut (s : State) (d : Nat) (x : Die) : (s.setDie d x).messagesOut = s.messagesOut := rfl
@[simp] theorem State.setDie_funcs (s : State) (d : Nat) (x : Die) : (s.setDie d x).funcs = s.funcs := rfl
@[simp] theorem State.setDie_queuePairs (s : State) (d : Nat) (x : Die) : (s.setDie d x).queuePairs = s.queuePairs := rfl
@[simp] theorem State.setDie_expansion (s : State) (d : Nat) (x : Die) : (s.setDie d x).expansion = s.expansion := rfl
@[simp] theorem State.setDie_bridges (s : State) (d : Nat) (x : Die) : (s.setDie d x).bridges = s.bridges := rfl
@[simp] theorem State.setDie_bridgeErrors (s : State) (d : Nat) (x : Die) : (s.setDie d x).bridgeErrors = s.bridgeErrors := rfl
@[simp] theorem State.setDie_posted (s : State) (d : Nat) (x : Die) : (s.setDie d x).posted = s.posted := rfl
@[simp] theorem State.setDie_answers (s : State) (d : Nat) (x : Die) : (s.setDie d x).answers = s.answers := rfl
@[simp] theorem State.setDie_rings (s : State) (d : Nat) (x : Die) : (s.setDie d x).rings = s.rings := rfl
@[simp] theorem State.setDie_portDrops (s : State) (d : Nat) (x : Die) : (s.setDie d x).portDrops = s.portDrops := rfl
@[simp] theorem State.setDie_pauseFrames (s : State) (d : Nat) (x : Die) : (s.setDie d x).pauseFrames = s.pauseFrames := rfl
@[simp] theorem State.setDie_filter (s : State) (d : Nat) (x : Die) : (s.setDie d x).filter = s.filter := rfl
@[simp] theorem State.setDie_armed (s : State) (d : Nat) (x : Die) : (s.setDie d x).armed = s.armed := rfl
@[simp] theorem State.setDie_heldFrame (s : State) (d : Nat) (x : Die) : (s.setDie d x).heldFrame = s.heldFrame := rfl
@[simp] theorem State.setDie_running (s : State) (d : Nat) (x : Die) : (s.setDie d x).running = s.running := rfl
@[simp] theorem State.setDie_letters (s : State) (d : Nat) (x : Die) : (s.setDie d x).letters = s.letters := rfl
@[simp] theorem State.setDie_letterSeq (s : State) (d : Nat) (x : Die) : (s.setDie d x).letterSeq = s.letterSeq := rfl
@[simp] theorem State.setDie_refused (s : State) (d : Nat) (x : Die) : (s.setDie d x).refused = s.refused := rfl
@[simp] theorem State.setDie_irqs (s : State) (d : Nat) (x : Die) : (s.setDie d x).irqs = s.irqs := rfl
@[simp] theorem State.setDie_queues (s : State) (d : Nat) (x : Die) : (s.setDie d x).queues = s.queues := rfl
@[simp] theorem State.setDie_slotsOf (s : State) (d : Nat) (x : Die) : (s.setDie d x).slotsOf = s.slotsOf := rfl
@[simp] theorem State.setDie_objects (s : State) (d : Nat) (x : Die) : (s.setDie d x).objects = s.objects := rfl
@[simp] theorem State.setDie_loads (s : State) (d : Nat) (x : Die) : (s.setDie d x).loads = s.loads := rfl
@[simp] theorem State.setDie_runs (s : State) (d : Nat) (x : Die) : (s.setDie d x).runs = s.runs := rfl
@[simp] theorem State.setDie_collectives (s : State) (d : Nat) (x : Die) : (s.setDie d x).collectives = s.collectives := rfl
@[simp] theorem State.setDie_completions (s : State) (d : Nat) (x : Die) : (s.setDie d x).completions = s.completions := rfl
@[simp] theorem State.setDie_reports (s : State) (d : Nat) (x : Die) : (s.setDie d x).reports = s.reports := rfl
@[simp] theorem State.setDie_boot (s : State) (d : Nat) (x : Die) : (s.setDie d x).boot = s.boot := rfl
@[simp] theorem State.setDie_now (s : State) (d : Nat) (x : Die) : (s.setDie d x).now = s.now := rfl
@[simp] theorem State.setDie_issue (s : State) (d : Nat) (x : Die) : (s.setDie d x).issue = s.issue := rfl
@[simp] theorem State.setDie_reps (s : State) (d : Nat) (x : Die) : (s.setDie d x).reps = s.reps := rfl
@[simp] theorem State.setDie_inputs (s : State) (d : Nat) (x : Die) : (s.setDie d x).inputs = s.inputs := rfl
@[simp] theorem State.setDie_choices (s : State) (d : Nat) (x : Die) : (s.setDie d x).choices = s.choices := rfl
@[simp] theorem State.setDie_frees (s : State) (d : Nat) (x : Die) : (s.setDie d x).frees = s.frees := rfl
@[simp] theorem State.setDie_fresh (s : State) (d : Nat) (x : Die) : (s.setDie d x).fresh = s.fresh := rfl

/-! ### `setQuad` -/

@[simp] theorem State.setQuad_mem (s : State) (q : Nat) (x : Quad) : (s.setQuad q x).mem = s.mem := rfl
@[simp] theorem State.setQuad_sram (s : State) (q : Nat) (x : Quad) : (s.setQuad q x).sram = s.sram := rfl
@[simp] theorem State.setQuad_badWords (s : State) (q : Nat) (x : Quad) : (s.setQuad q x).badWords = s.badWords := rfl
@[simp] theorem State.setQuad_softWords (s : State) (q : Nat) (x : Quad) : (s.setQuad q x).softWords = s.softWords := rfl
@[simp] theorem State.setQuad_teamBad (s : State) (q : Nat) (x : Quad) : (s.setQuad q x).teamBad = s.teamBad := rfl
@[simp] theorem State.setQuad_teamSoft (s : State) (q : Nat) (x : Quad) : (s.setQuad q x).teamSoft = s.teamSoft := rfl
@[simp] theorem State.setQuad_groups (s : State) (q : Nat) (x : Quad) : (s.setQuad q x).groups = s.groups := rfl
@[simp] theorem State.setQuad_teams (s : State) (q : Nat) (x : Quad) : (s.setQuad q x).teams = s.teams := rfl
@[simp] theorem State.setQuad_launches (s : State) (q : Nat) (x : Quad) : (s.setQuad q x).launches = s.launches := rfl
@[simp] theorem State.setQuad_cores (s : State) (q : Nat) (x : Quad) : (s.setQuad q x).cores = s.cores := rfl
@[simp] theorem State.setQuad_dies (s : State) (q : Nat) (x : Quad) : (s.setQuad q x).dies = s.dies := rfl
@[simp] theorem State.setQuad_sems (s : State) (q : Nat) (x : Quad) : (s.setQuad q x).sems = s.sems := rfl
@[simp] theorem State.setQuad_spaces (s : State) (q : Nat) (x : Quad) : (s.setQuad q x).spaces = s.spaces := rfl
@[simp] theorem State.setQuad_frames (s : State) (q : Nat) (x : Quad) : (s.setQuad q x).frames = s.frames := rfl
@[simp] theorem State.setQuad_pinned (s : State) (q : Nat) (x : Quad) : (s.setQuad q x).pinned = s.pinned := rfl
@[simp] theorem State.setQuad_pins (s : State) (q : Nat) (x : Quad) : (s.setQuad q x).pins = s.pins := rfl
@[simp] theorem State.setQuad_shootdowns (s : State) (q : Nat) (x : Quad) : (s.setQuad q x).shootdowns = s.shootdowns := rfl
@[simp] theorem State.setQuad_nextTable (s : State) (q : Nat) (x : Quad) : (s.setQuad q x).nextTable = s.nextTable := rfl
@[simp] theorem State.setQuad_windows (s : State) (q : Nat) (x : Quad) : (s.setQuad q x).windows = s.windows := rfl
@[simp] theorem State.setQuad_tokenClock (s : State) (q : Nat) (x : Quad) : (s.setQuad q x).tokenClock = s.tokenClock := rfl
@[simp] theorem State.setQuad_ports (s : State) (q : Nat) (x : Quad) : (s.setQuad q x).ports = s.ports := rfl
@[simp] theorem State.setQuad_flitsOut (s : State) (q : Nat) (x : Quad) : (s.setQuad q x).flitsOut = s.flitsOut := rfl
@[simp] theorem State.setQuad_fabricWait (s : State) (q : Nat) (x : Quad) : (s.setQuad q x).fabricWait = s.fabricWait := rfl
@[simp] theorem State.setQuad_relayDrops (s : State) (q : Nat) (x : Quad) : (s.setQuad q x).relayDrops = s.relayDrops := rfl
@[simp] theorem State.setQuad_arrived (s : State) (q : Nat) (x : Quad) : (s.setQuad q x).arrived = s.arrived := rfl
@[simp] theorem State.setQuad_answered (s : State) (q : Nat) (x : Quad) : (s.setQuad q x).answered = s.answered := rfl
@[simp] theorem State.setQuad_resendAfter (s : State) (q : Nat) (x : Quad) : (s.setQuad q x).resendAfter = s.resendAfter := rfl
@[simp] theorem State.setQuad_pairs (s : State) (q : Nat) (x : Quad) : (s.setQuad q x).pairs = s.pairs := rfl
@[simp] theorem State.setQuad_targets (s : State) (q : Nat) (x : Quad) : (s.setQuad q x).targets = s.targets := rfl
@[simp] theorem State.setQuad_credits (s : State) (q : Nat) (x : Quad) : (s.setQuad q x).credits = s.credits := rfl
@[simp] theorem State.setQuad_detours (s : State) (q : Nat) (x : Quad) : (s.setQuad q x).detours = s.detours := rfl
@[simp] theorem State.setQuad_monitors (s : State) (q : Nat) (x : Quad) : (s.setQuad q x).monitors = s.monitors := rfl
@[simp] theorem State.setQuad_messagesOut (s : State) (q : Nat) (x : Quad) : (s.setQuad q x).messagesOut = s.messagesOut := rfl
@[simp] theorem State.setQuad_funcs (s : State) (q : Nat) (x : Quad) : (s.setQuad q x).funcs = s.funcs := rfl
@[simp] theorem State.setQuad_queuePairs (s : State) (q : Nat) (x : Quad) : (s.setQuad q x).queuePairs = s.queuePairs := rfl
@[simp] theorem State.setQuad_expansion (s : State) (q : Nat) (x : Quad) : (s.setQuad q x).expansion = s.expansion := rfl
@[simp] theorem State.setQuad_bridges (s : State) (q : Nat) (x : Quad) : (s.setQuad q x).bridges = s.bridges := rfl
@[simp] theorem State.setQuad_bridgeErrors (s : State) (q : Nat) (x : Quad) : (s.setQuad q x).bridgeErrors = s.bridgeErrors := rfl
@[simp] theorem State.setQuad_posted (s : State) (q : Nat) (x : Quad) : (s.setQuad q x).posted = s.posted := rfl
@[simp] theorem State.setQuad_answers (s : State) (q : Nat) (x : Quad) : (s.setQuad q x).answers = s.answers := rfl
@[simp] theorem State.setQuad_rings (s : State) (q : Nat) (x : Quad) : (s.setQuad q x).rings = s.rings := rfl
@[simp] theorem State.setQuad_portDrops (s : State) (q : Nat) (x : Quad) : (s.setQuad q x).portDrops = s.portDrops := rfl
@[simp] theorem State.setQuad_pauseFrames (s : State) (q : Nat) (x : Quad) : (s.setQuad q x).pauseFrames = s.pauseFrames := rfl
@[simp] theorem State.setQuad_filter (s : State) (q : Nat) (x : Quad) : (s.setQuad q x).filter = s.filter := rfl
@[simp] theorem State.setQuad_armed (s : State) (q : Nat) (x : Quad) : (s.setQuad q x).armed = s.armed := rfl
@[simp] theorem State.setQuad_heldFrame (s : State) (q : Nat) (x : Quad) : (s.setQuad q x).heldFrame = s.heldFrame := rfl
@[simp] theorem State.setQuad_running (s : State) (q : Nat) (x : Quad) : (s.setQuad q x).running = s.running := rfl
@[simp] theorem State.setQuad_letters (s : State) (q : Nat) (x : Quad) : (s.setQuad q x).letters = s.letters := rfl
@[simp] theorem State.setQuad_letterSeq (s : State) (q : Nat) (x : Quad) : (s.setQuad q x).letterSeq = s.letterSeq := rfl
@[simp] theorem State.setQuad_refused (s : State) (q : Nat) (x : Quad) : (s.setQuad q x).refused = s.refused := rfl
@[simp] theorem State.setQuad_irqs (s : State) (q : Nat) (x : Quad) : (s.setQuad q x).irqs = s.irqs := rfl
@[simp] theorem State.setQuad_queues (s : State) (q : Nat) (x : Quad) : (s.setQuad q x).queues = s.queues := rfl
@[simp] theorem State.setQuad_slotsOf (s : State) (q : Nat) (x : Quad) : (s.setQuad q x).slotsOf = s.slotsOf := rfl
@[simp] theorem State.setQuad_objects (s : State) (q : Nat) (x : Quad) : (s.setQuad q x).objects = s.objects := rfl
@[simp] theorem State.setQuad_loads (s : State) (q : Nat) (x : Quad) : (s.setQuad q x).loads = s.loads := rfl
@[simp] theorem State.setQuad_runs (s : State) (q : Nat) (x : Quad) : (s.setQuad q x).runs = s.runs := rfl
@[simp] theorem State.setQuad_collectives (s : State) (q : Nat) (x : Quad) : (s.setQuad q x).collectives = s.collectives := rfl
@[simp] theorem State.setQuad_completions (s : State) (q : Nat) (x : Quad) : (s.setQuad q x).completions = s.completions := rfl
@[simp] theorem State.setQuad_reports (s : State) (q : Nat) (x : Quad) : (s.setQuad q x).reports = s.reports := rfl
@[simp] theorem State.setQuad_boot (s : State) (q : Nat) (x : Quad) : (s.setQuad q x).boot = s.boot := rfl
@[simp] theorem State.setQuad_now (s : State) (q : Nat) (x : Quad) : (s.setQuad q x).now = s.now := rfl
@[simp] theorem State.setQuad_issue (s : State) (q : Nat) (x : Quad) : (s.setQuad q x).issue = s.issue := rfl
@[simp] theorem State.setQuad_reps (s : State) (q : Nat) (x : Quad) : (s.setQuad q x).reps = s.reps := rfl
@[simp] theorem State.setQuad_inputs (s : State) (q : Nat) (x : Quad) : (s.setQuad q x).inputs = s.inputs := rfl
@[simp] theorem State.setQuad_choices (s : State) (q : Nat) (x : Quad) : (s.setQuad q x).choices = s.choices := rfl
@[simp] theorem State.setQuad_frees (s : State) (q : Nat) (x : Quad) : (s.setQuad q x).frees = s.frees := rfl
@[simp] theorem State.setQuad_fresh (s : State) (q : Nat) (x : Quad) : (s.setQuad q x).fresh = s.fresh := rfl

/-! ### `setPort` -/

@[simp] theorem State.setPort_mem (s : State) (p : Nat) (x : Port) : (s.setPort p x).mem = s.mem := rfl
@[simp] theorem State.setPort_sram (s : State) (p : Nat) (x : Port) : (s.setPort p x).sram = s.sram := rfl
@[simp] theorem State.setPort_badWords (s : State) (p : Nat) (x : Port) : (s.setPort p x).badWords = s.badWords := rfl
@[simp] theorem State.setPort_softWords (s : State) (p : Nat) (x : Port) : (s.setPort p x).softWords = s.softWords := rfl
@[simp] theorem State.setPort_teamBad (s : State) (p : Nat) (x : Port) : (s.setPort p x).teamBad = s.teamBad := rfl
@[simp] theorem State.setPort_teamSoft (s : State) (p : Nat) (x : Port) : (s.setPort p x).teamSoft = s.teamSoft := rfl
@[simp] theorem State.setPort_groups (s : State) (p : Nat) (x : Port) : (s.setPort p x).groups = s.groups := rfl
@[simp] theorem State.setPort_teams (s : State) (p : Nat) (x : Port) : (s.setPort p x).teams = s.teams := rfl
@[simp] theorem State.setPort_launches (s : State) (p : Nat) (x : Port) : (s.setPort p x).launches = s.launches := rfl
@[simp] theorem State.setPort_cores (s : State) (p : Nat) (x : Port) : (s.setPort p x).cores = s.cores := rfl
@[simp] theorem State.setPort_quads (s : State) (p : Nat) (x : Port) : (s.setPort p x).quads = s.quads := rfl
@[simp] theorem State.setPort_dies (s : State) (p : Nat) (x : Port) : (s.setPort p x).dies = s.dies := rfl
@[simp] theorem State.setPort_sems (s : State) (p : Nat) (x : Port) : (s.setPort p x).sems = s.sems := rfl
@[simp] theorem State.setPort_spaces (s : State) (p : Nat) (x : Port) : (s.setPort p x).spaces = s.spaces := rfl
@[simp] theorem State.setPort_frames (s : State) (p : Nat) (x : Port) : (s.setPort p x).frames = s.frames := rfl
@[simp] theorem State.setPort_pinned (s : State) (p : Nat) (x : Port) : (s.setPort p x).pinned = s.pinned := rfl
@[simp] theorem State.setPort_pins (s : State) (p : Nat) (x : Port) : (s.setPort p x).pins = s.pins := rfl
@[simp] theorem State.setPort_shootdowns (s : State) (p : Nat) (x : Port) : (s.setPort p x).shootdowns = s.shootdowns := rfl
@[simp] theorem State.setPort_nextTable (s : State) (p : Nat) (x : Port) : (s.setPort p x).nextTable = s.nextTable := rfl
@[simp] theorem State.setPort_windows (s : State) (p : Nat) (x : Port) : (s.setPort p x).windows = s.windows := rfl
@[simp] theorem State.setPort_tokenClock (s : State) (p : Nat) (x : Port) : (s.setPort p x).tokenClock = s.tokenClock := rfl
@[simp] theorem State.setPort_flitsOut (s : State) (p : Nat) (x : Port) : (s.setPort p x).flitsOut = s.flitsOut := rfl
@[simp] theorem State.setPort_fabricWait (s : State) (p : Nat) (x : Port) : (s.setPort p x).fabricWait = s.fabricWait := rfl
@[simp] theorem State.setPort_relayDrops (s : State) (p : Nat) (x : Port) : (s.setPort p x).relayDrops = s.relayDrops := rfl
@[simp] theorem State.setPort_arrived (s : State) (p : Nat) (x : Port) : (s.setPort p x).arrived = s.arrived := rfl
@[simp] theorem State.setPort_answered (s : State) (p : Nat) (x : Port) : (s.setPort p x).answered = s.answered := rfl
@[simp] theorem State.setPort_resendAfter (s : State) (p : Nat) (x : Port) : (s.setPort p x).resendAfter = s.resendAfter := rfl
@[simp] theorem State.setPort_pairs (s : State) (p : Nat) (x : Port) : (s.setPort p x).pairs = s.pairs := rfl
@[simp] theorem State.setPort_targets (s : State) (p : Nat) (x : Port) : (s.setPort p x).targets = s.targets := rfl
@[simp] theorem State.setPort_credits (s : State) (p : Nat) (x : Port) : (s.setPort p x).credits = s.credits := rfl
@[simp] theorem State.setPort_detours (s : State) (p : Nat) (x : Port) : (s.setPort p x).detours = s.detours := rfl
@[simp] theorem State.setPort_monitors (s : State) (p : Nat) (x : Port) : (s.setPort p x).monitors = s.monitors := rfl
@[simp] theorem State.setPort_messagesOut (s : State) (p : Nat) (x : Port) : (s.setPort p x).messagesOut = s.messagesOut := rfl
@[simp] theorem State.setPort_funcs (s : State) (p : Nat) (x : Port) : (s.setPort p x).funcs = s.funcs := rfl
@[simp] theorem State.setPort_queuePairs (s : State) (p : Nat) (x : Port) : (s.setPort p x).queuePairs = s.queuePairs := rfl
@[simp] theorem State.setPort_expansion (s : State) (p : Nat) (x : Port) : (s.setPort p x).expansion = s.expansion := rfl
@[simp] theorem State.setPort_bridges (s : State) (p : Nat) (x : Port) : (s.setPort p x).bridges = s.bridges := rfl
@[simp] theorem State.setPort_bridgeErrors (s : State) (p : Nat) (x : Port) : (s.setPort p x).bridgeErrors = s.bridgeErrors := rfl
@[simp] theorem State.setPort_posted (s : State) (p : Nat) (x : Port) : (s.setPort p x).posted = s.posted := rfl
@[simp] theorem State.setPort_answers (s : State) (p : Nat) (x : Port) : (s.setPort p x).answers = s.answers := rfl
@[simp] theorem State.setPort_rings (s : State) (p : Nat) (x : Port) : (s.setPort p x).rings = s.rings := rfl
@[simp] theorem State.setPort_portDrops (s : State) (p : Nat) (x : Port) : (s.setPort p x).portDrops = s.portDrops := rfl
@[simp] theorem State.setPort_pauseFrames (s : State) (p : Nat) (x : Port) : (s.setPort p x).pauseFrames = s.pauseFrames := rfl
@[simp] theorem State.setPort_filter (s : State) (p : Nat) (x : Port) : (s.setPort p x).filter = s.filter := rfl
@[simp] theorem State.setPort_armed (s : State) (p : Nat) (x : Port) : (s.setPort p x).armed = s.armed := rfl
@[simp] theorem State.setPort_heldFrame (s : State) (p : Nat) (x : Port) : (s.setPort p x).heldFrame = s.heldFrame := rfl
@[simp] theorem State.setPort_running (s : State) (p : Nat) (x : Port) : (s.setPort p x).running = s.running := rfl
@[simp] theorem State.setPort_letters (s : State) (p : Nat) (x : Port) : (s.setPort p x).letters = s.letters := rfl
@[simp] theorem State.setPort_letterSeq (s : State) (p : Nat) (x : Port) : (s.setPort p x).letterSeq = s.letterSeq := rfl
@[simp] theorem State.setPort_refused (s : State) (p : Nat) (x : Port) : (s.setPort p x).refused = s.refused := rfl
@[simp] theorem State.setPort_irqs (s : State) (p : Nat) (x : Port) : (s.setPort p x).irqs = s.irqs := rfl
@[simp] theorem State.setPort_queues (s : State) (p : Nat) (x : Port) : (s.setPort p x).queues = s.queues := rfl
@[simp] theorem State.setPort_slotsOf (s : State) (p : Nat) (x : Port) : (s.setPort p x).slotsOf = s.slotsOf := rfl
@[simp] theorem State.setPort_objects (s : State) (p : Nat) (x : Port) : (s.setPort p x).objects = s.objects := rfl
@[simp] theorem State.setPort_loads (s : State) (p : Nat) (x : Port) : (s.setPort p x).loads = s.loads := rfl
@[simp] theorem State.setPort_runs (s : State) (p : Nat) (x : Port) : (s.setPort p x).runs = s.runs := rfl
@[simp] theorem State.setPort_collectives (s : State) (p : Nat) (x : Port) : (s.setPort p x).collectives = s.collectives := rfl
@[simp] theorem State.setPort_completions (s : State) (p : Nat) (x : Port) : (s.setPort p x).completions = s.completions := rfl
@[simp] theorem State.setPort_reports (s : State) (p : Nat) (x : Port) : (s.setPort p x).reports = s.reports := rfl
@[simp] theorem State.setPort_boot (s : State) (p : Nat) (x : Port) : (s.setPort p x).boot = s.boot := rfl
@[simp] theorem State.setPort_now (s : State) (p : Nat) (x : Port) : (s.setPort p x).now = s.now := rfl
@[simp] theorem State.setPort_issue (s : State) (p : Nat) (x : Port) : (s.setPort p x).issue = s.issue := rfl
@[simp] theorem State.setPort_reps (s : State) (p : Nat) (x : Port) : (s.setPort p x).reps = s.reps := rfl
@[simp] theorem State.setPort_inputs (s : State) (p : Nat) (x : Port) : (s.setPort p x).inputs = s.inputs := rfl
@[simp] theorem State.setPort_choices (s : State) (p : Nat) (x : Port) : (s.setPort p x).choices = s.choices := rfl
@[simp] theorem State.setPort_frees (s : State) (p : Nat) (x : Port) : (s.setPort p x).frees = s.frees := rfl
@[simp] theorem State.setPort_fresh (s : State) (p : Nat) (x : Port) : (s.setPort p x).fresh = s.fresh := rfl

/-! ### `setPair` -/

@[simp] theorem State.setPair_mem (s : State) (d p : Nat) (x : Pair) : (s.setPair d p x).mem = s.mem := rfl
@[simp] theorem State.setPair_sram (s : State) (d p : Nat) (x : Pair) : (s.setPair d p x).sram = s.sram := rfl
@[simp] theorem State.setPair_badWords (s : State) (d p : Nat) (x : Pair) : (s.setPair d p x).badWords = s.badWords := rfl
@[simp] theorem State.setPair_softWords (s : State) (d p : Nat) (x : Pair) : (s.setPair d p x).softWords = s.softWords := rfl
@[simp] theorem State.setPair_teamBad (s : State) (d p : Nat) (x : Pair) : (s.setPair d p x).teamBad = s.teamBad := rfl
@[simp] theorem State.setPair_teamSoft (s : State) (d p : Nat) (x : Pair) : (s.setPair d p x).teamSoft = s.teamSoft := rfl
@[simp] theorem State.setPair_groups (s : State) (d p : Nat) (x : Pair) : (s.setPair d p x).groups = s.groups := rfl
@[simp] theorem State.setPair_teams (s : State) (d p : Nat) (x : Pair) : (s.setPair d p x).teams = s.teams := rfl
@[simp] theorem State.setPair_launches (s : State) (d p : Nat) (x : Pair) : (s.setPair d p x).launches = s.launches := rfl
@[simp] theorem State.setPair_cores (s : State) (d p : Nat) (x : Pair) : (s.setPair d p x).cores = s.cores := rfl
@[simp] theorem State.setPair_quads (s : State) (d p : Nat) (x : Pair) : (s.setPair d p x).quads = s.quads := rfl
@[simp] theorem State.setPair_dies (s : State) (d p : Nat) (x : Pair) : (s.setPair d p x).dies = s.dies := rfl
@[simp] theorem State.setPair_sems (s : State) (d p : Nat) (x : Pair) : (s.setPair d p x).sems = s.sems := rfl
@[simp] theorem State.setPair_spaces (s : State) (d p : Nat) (x : Pair) : (s.setPair d p x).spaces = s.spaces := rfl
@[simp] theorem State.setPair_frames (s : State) (d p : Nat) (x : Pair) : (s.setPair d p x).frames = s.frames := rfl
@[simp] theorem State.setPair_pinned (s : State) (d p : Nat) (x : Pair) : (s.setPair d p x).pinned = s.pinned := rfl
@[simp] theorem State.setPair_pins (s : State) (d p : Nat) (x : Pair) : (s.setPair d p x).pins = s.pins := rfl
@[simp] theorem State.setPair_shootdowns (s : State) (d p : Nat) (x : Pair) : (s.setPair d p x).shootdowns = s.shootdowns := rfl
@[simp] theorem State.setPair_nextTable (s : State) (d p : Nat) (x : Pair) : (s.setPair d p x).nextTable = s.nextTable := rfl
@[simp] theorem State.setPair_windows (s : State) (d p : Nat) (x : Pair) : (s.setPair d p x).windows = s.windows := rfl
@[simp] theorem State.setPair_tokenClock (s : State) (d p : Nat) (x : Pair) : (s.setPair d p x).tokenClock = s.tokenClock := rfl
@[simp] theorem State.setPair_ports (s : State) (d p : Nat) (x : Pair) : (s.setPair d p x).ports = s.ports := rfl
@[simp] theorem State.setPair_flitsOut (s : State) (d p : Nat) (x : Pair) : (s.setPair d p x).flitsOut = s.flitsOut := rfl
@[simp] theorem State.setPair_fabricWait (s : State) (d p : Nat) (x : Pair) : (s.setPair d p x).fabricWait = s.fabricWait := rfl
@[simp] theorem State.setPair_relayDrops (s : State) (d p : Nat) (x : Pair) : (s.setPair d p x).relayDrops = s.relayDrops := rfl
@[simp] theorem State.setPair_arrived (s : State) (d p : Nat) (x : Pair) : (s.setPair d p x).arrived = s.arrived := rfl
@[simp] theorem State.setPair_answered (s : State) (d p : Nat) (x : Pair) : (s.setPair d p x).answered = s.answered := rfl
@[simp] theorem State.setPair_resendAfter (s : State) (d p : Nat) (x : Pair) : (s.setPair d p x).resendAfter = s.resendAfter := rfl
@[simp] theorem State.setPair_targets (s : State) (d p : Nat) (x : Pair) : (s.setPair d p x).targets = s.targets := rfl
@[simp] theorem State.setPair_credits (s : State) (d p : Nat) (x : Pair) : (s.setPair d p x).credits = s.credits := rfl
@[simp] theorem State.setPair_detours (s : State) (d p : Nat) (x : Pair) : (s.setPair d p x).detours = s.detours := rfl
@[simp] theorem State.setPair_monitors (s : State) (d p : Nat) (x : Pair) : (s.setPair d p x).monitors = s.monitors := rfl
@[simp] theorem State.setPair_messagesOut (s : State) (d p : Nat) (x : Pair) : (s.setPair d p x).messagesOut = s.messagesOut := rfl
@[simp] theorem State.setPair_funcs (s : State) (d p : Nat) (x : Pair) : (s.setPair d p x).funcs = s.funcs := rfl
@[simp] theorem State.setPair_queuePairs (s : State) (d p : Nat) (x : Pair) : (s.setPair d p x).queuePairs = s.queuePairs := rfl
@[simp] theorem State.setPair_expansion (s : State) (d p : Nat) (x : Pair) : (s.setPair d p x).expansion = s.expansion := rfl
@[simp] theorem State.setPair_bridges (s : State) (d p : Nat) (x : Pair) : (s.setPair d p x).bridges = s.bridges := rfl
@[simp] theorem State.setPair_bridgeErrors (s : State) (d p : Nat) (x : Pair) : (s.setPair d p x).bridgeErrors = s.bridgeErrors := rfl
@[simp] theorem State.setPair_posted (s : State) (d p : Nat) (x : Pair) : (s.setPair d p x).posted = s.posted := rfl
@[simp] theorem State.setPair_answers (s : State) (d p : Nat) (x : Pair) : (s.setPair d p x).answers = s.answers := rfl
@[simp] theorem State.setPair_rings (s : State) (d p : Nat) (x : Pair) : (s.setPair d p x).rings = s.rings := rfl
@[simp] theorem State.setPair_portDrops (s : State) (d p : Nat) (x : Pair) : (s.setPair d p x).portDrops = s.portDrops := rfl
@[simp] theorem State.setPair_pauseFrames (s : State) (d p : Nat) (x : Pair) : (s.setPair d p x).pauseFrames = s.pauseFrames := rfl
@[simp] theorem State.setPair_filter (s : State) (d p : Nat) (x : Pair) : (s.setPair d p x).filter = s.filter := rfl
@[simp] theorem State.setPair_armed (s : State) (d p : Nat) (x : Pair) : (s.setPair d p x).armed = s.armed := rfl
@[simp] theorem State.setPair_heldFrame (s : State) (d p : Nat) (x : Pair) : (s.setPair d p x).heldFrame = s.heldFrame := rfl
@[simp] theorem State.setPair_running (s : State) (d p : Nat) (x : Pair) : (s.setPair d p x).running = s.running := rfl
@[simp] theorem State.setPair_letters (s : State) (d p : Nat) (x : Pair) : (s.setPair d p x).letters = s.letters := rfl
@[simp] theorem State.setPair_letterSeq (s : State) (d p : Nat) (x : Pair) : (s.setPair d p x).letterSeq = s.letterSeq := rfl
@[simp] theorem State.setPair_refused (s : State) (d p : Nat) (x : Pair) : (s.setPair d p x).refused = s.refused := rfl
@[simp] theorem State.setPair_irqs (s : State) (d p : Nat) (x : Pair) : (s.setPair d p x).irqs = s.irqs := rfl
@[simp] theorem State.setPair_queues (s : State) (d p : Nat) (x : Pair) : (s.setPair d p x).queues = s.queues := rfl
@[simp] theorem State.setPair_slotsOf (s : State) (d p : Nat) (x : Pair) : (s.setPair d p x).slotsOf = s.slotsOf := rfl
@[simp] theorem State.setPair_objects (s : State) (d p : Nat) (x : Pair) : (s.setPair d p x).objects = s.objects := rfl
@[simp] theorem State.setPair_loads (s : State) (d p : Nat) (x : Pair) : (s.setPair d p x).loads = s.loads := rfl
@[simp] theorem State.setPair_runs (s : State) (d p : Nat) (x : Pair) : (s.setPair d p x).runs = s.runs := rfl
@[simp] theorem State.setPair_collectives (s : State) (d p : Nat) (x : Pair) : (s.setPair d p x).collectives = s.collectives := rfl
@[simp] theorem State.setPair_completions (s : State) (d p : Nat) (x : Pair) : (s.setPair d p x).completions = s.completions := rfl
@[simp] theorem State.setPair_reports (s : State) (d p : Nat) (x : Pair) : (s.setPair d p x).reports = s.reports := rfl
@[simp] theorem State.setPair_boot (s : State) (d p : Nat) (x : Pair) : (s.setPair d p x).boot = s.boot := rfl
@[simp] theorem State.setPair_now (s : State) (d p : Nat) (x : Pair) : (s.setPair d p x).now = s.now := rfl
@[simp] theorem State.setPair_issue (s : State) (d p : Nat) (x : Pair) : (s.setPair d p x).issue = s.issue := rfl
@[simp] theorem State.setPair_reps (s : State) (d p : Nat) (x : Pair) : (s.setPair d p x).reps = s.reps := rfl
@[simp] theorem State.setPair_inputs (s : State) (d p : Nat) (x : Pair) : (s.setPair d p x).inputs = s.inputs := rfl
@[simp] theorem State.setPair_choices (s : State) (d p : Nat) (x : Pair) : (s.setPair d p x).choices = s.choices := rfl
@[simp] theorem State.setPair_frees (s : State) (d p : Nat) (x : Pair) : (s.setPair d p x).frees = s.frees := rfl
@[simp] theorem State.setPair_fresh (s : State) (d p : Nat) (x : Pair) : (s.setPair d p x).fresh = s.fresh := rfl

/-! ### `setTarget` -/

@[simp] theorem State.setTarget_mem (s : State) (m d : Nat) (x : TargetPair) : (s.setTarget m d x).mem = s.mem := rfl
@[simp] theorem State.setTarget_sram (s : State) (m d : Nat) (x : TargetPair) : (s.setTarget m d x).sram = s.sram := rfl
@[simp] theorem State.setTarget_badWords (s : State) (m d : Nat) (x : TargetPair) : (s.setTarget m d x).badWords = s.badWords := rfl
@[simp] theorem State.setTarget_softWords (s : State) (m d : Nat) (x : TargetPair) : (s.setTarget m d x).softWords = s.softWords := rfl
@[simp] theorem State.setTarget_teamBad (s : State) (m d : Nat) (x : TargetPair) : (s.setTarget m d x).teamBad = s.teamBad := rfl
@[simp] theorem State.setTarget_teamSoft (s : State) (m d : Nat) (x : TargetPair) : (s.setTarget m d x).teamSoft = s.teamSoft := rfl
@[simp] theorem State.setTarget_groups (s : State) (m d : Nat) (x : TargetPair) : (s.setTarget m d x).groups = s.groups := rfl
@[simp] theorem State.setTarget_teams (s : State) (m d : Nat) (x : TargetPair) : (s.setTarget m d x).teams = s.teams := rfl
@[simp] theorem State.setTarget_launches (s : State) (m d : Nat) (x : TargetPair) : (s.setTarget m d x).launches = s.launches := rfl
@[simp] theorem State.setTarget_cores (s : State) (m d : Nat) (x : TargetPair) : (s.setTarget m d x).cores = s.cores := rfl
@[simp] theorem State.setTarget_quads (s : State) (m d : Nat) (x : TargetPair) : (s.setTarget m d x).quads = s.quads := rfl
@[simp] theorem State.setTarget_dies (s : State) (m d : Nat) (x : TargetPair) : (s.setTarget m d x).dies = s.dies := rfl
@[simp] theorem State.setTarget_sems (s : State) (m d : Nat) (x : TargetPair) : (s.setTarget m d x).sems = s.sems := rfl
@[simp] theorem State.setTarget_spaces (s : State) (m d : Nat) (x : TargetPair) : (s.setTarget m d x).spaces = s.spaces := rfl
@[simp] theorem State.setTarget_frames (s : State) (m d : Nat) (x : TargetPair) : (s.setTarget m d x).frames = s.frames := rfl
@[simp] theorem State.setTarget_pinned (s : State) (m d : Nat) (x : TargetPair) : (s.setTarget m d x).pinned = s.pinned := rfl
@[simp] theorem State.setTarget_pins (s : State) (m d : Nat) (x : TargetPair) : (s.setTarget m d x).pins = s.pins := rfl
@[simp] theorem State.setTarget_shootdowns (s : State) (m d : Nat) (x : TargetPair) : (s.setTarget m d x).shootdowns = s.shootdowns := rfl
@[simp] theorem State.setTarget_nextTable (s : State) (m d : Nat) (x : TargetPair) : (s.setTarget m d x).nextTable = s.nextTable := rfl
@[simp] theorem State.setTarget_windows (s : State) (m d : Nat) (x : TargetPair) : (s.setTarget m d x).windows = s.windows := rfl
@[simp] theorem State.setTarget_tokenClock (s : State) (m d : Nat) (x : TargetPair) : (s.setTarget m d x).tokenClock = s.tokenClock := rfl
@[simp] theorem State.setTarget_ports (s : State) (m d : Nat) (x : TargetPair) : (s.setTarget m d x).ports = s.ports := rfl
@[simp] theorem State.setTarget_flitsOut (s : State) (m d : Nat) (x : TargetPair) : (s.setTarget m d x).flitsOut = s.flitsOut := rfl
@[simp] theorem State.setTarget_fabricWait (s : State) (m d : Nat) (x : TargetPair) : (s.setTarget m d x).fabricWait = s.fabricWait := rfl
@[simp] theorem State.setTarget_relayDrops (s : State) (m d : Nat) (x : TargetPair) : (s.setTarget m d x).relayDrops = s.relayDrops := rfl
@[simp] theorem State.setTarget_arrived (s : State) (m d : Nat) (x : TargetPair) : (s.setTarget m d x).arrived = s.arrived := rfl
@[simp] theorem State.setTarget_answered (s : State) (m d : Nat) (x : TargetPair) : (s.setTarget m d x).answered = s.answered := rfl
@[simp] theorem State.setTarget_resendAfter (s : State) (m d : Nat) (x : TargetPair) : (s.setTarget m d x).resendAfter = s.resendAfter := rfl
@[simp] theorem State.setTarget_pairs (s : State) (m d : Nat) (x : TargetPair) : (s.setTarget m d x).pairs = s.pairs := rfl
@[simp] theorem State.setTarget_credits (s : State) (m d : Nat) (x : TargetPair) : (s.setTarget m d x).credits = s.credits := rfl
@[simp] theorem State.setTarget_detours (s : State) (m d : Nat) (x : TargetPair) : (s.setTarget m d x).detours = s.detours := rfl
@[simp] theorem State.setTarget_monitors (s : State) (m d : Nat) (x : TargetPair) : (s.setTarget m d x).monitors = s.monitors := rfl
@[simp] theorem State.setTarget_messagesOut (s : State) (m d : Nat) (x : TargetPair) : (s.setTarget m d x).messagesOut = s.messagesOut := rfl
@[simp] theorem State.setTarget_funcs (s : State) (m d : Nat) (x : TargetPair) : (s.setTarget m d x).funcs = s.funcs := rfl
@[simp] theorem State.setTarget_queuePairs (s : State) (m d : Nat) (x : TargetPair) : (s.setTarget m d x).queuePairs = s.queuePairs := rfl
@[simp] theorem State.setTarget_expansion (s : State) (m d : Nat) (x : TargetPair) : (s.setTarget m d x).expansion = s.expansion := rfl
@[simp] theorem State.setTarget_bridges (s : State) (m d : Nat) (x : TargetPair) : (s.setTarget m d x).bridges = s.bridges := rfl
@[simp] theorem State.setTarget_bridgeErrors (s : State) (m d : Nat) (x : TargetPair) : (s.setTarget m d x).bridgeErrors = s.bridgeErrors := rfl
@[simp] theorem State.setTarget_posted (s : State) (m d : Nat) (x : TargetPair) : (s.setTarget m d x).posted = s.posted := rfl
@[simp] theorem State.setTarget_answers (s : State) (m d : Nat) (x : TargetPair) : (s.setTarget m d x).answers = s.answers := rfl
@[simp] theorem State.setTarget_rings (s : State) (m d : Nat) (x : TargetPair) : (s.setTarget m d x).rings = s.rings := rfl
@[simp] theorem State.setTarget_portDrops (s : State) (m d : Nat) (x : TargetPair) : (s.setTarget m d x).portDrops = s.portDrops := rfl
@[simp] theorem State.setTarget_pauseFrames (s : State) (m d : Nat) (x : TargetPair) : (s.setTarget m d x).pauseFrames = s.pauseFrames := rfl
@[simp] theorem State.setTarget_filter (s : State) (m d : Nat) (x : TargetPair) : (s.setTarget m d x).filter = s.filter := rfl
@[simp] theorem State.setTarget_armed (s : State) (m d : Nat) (x : TargetPair) : (s.setTarget m d x).armed = s.armed := rfl
@[simp] theorem State.setTarget_heldFrame (s : State) (m d : Nat) (x : TargetPair) : (s.setTarget m d x).heldFrame = s.heldFrame := rfl
@[simp] theorem State.setTarget_running (s : State) (m d : Nat) (x : TargetPair) : (s.setTarget m d x).running = s.running := rfl
@[simp] theorem State.setTarget_letters (s : State) (m d : Nat) (x : TargetPair) : (s.setTarget m d x).letters = s.letters := rfl
@[simp] theorem State.setTarget_letterSeq (s : State) (m d : Nat) (x : TargetPair) : (s.setTarget m d x).letterSeq = s.letterSeq := rfl
@[simp] theorem State.setTarget_refused (s : State) (m d : Nat) (x : TargetPair) : (s.setTarget m d x).refused = s.refused := rfl
@[simp] theorem State.setTarget_irqs (s : State) (m d : Nat) (x : TargetPair) : (s.setTarget m d x).irqs = s.irqs := rfl
@[simp] theorem State.setTarget_queues (s : State) (m d : Nat) (x : TargetPair) : (s.setTarget m d x).queues = s.queues := rfl
@[simp] theorem State.setTarget_slotsOf (s : State) (m d : Nat) (x : TargetPair) : (s.setTarget m d x).slotsOf = s.slotsOf := rfl
@[simp] theorem State.setTarget_objects (s : State) (m d : Nat) (x : TargetPair) : (s.setTarget m d x).objects = s.objects := rfl
@[simp] theorem State.setTarget_loads (s : State) (m d : Nat) (x : TargetPair) : (s.setTarget m d x).loads = s.loads := rfl
@[simp] theorem State.setTarget_runs (s : State) (m d : Nat) (x : TargetPair) : (s.setTarget m d x).runs = s.runs := rfl
@[simp] theorem State.setTarget_collectives (s : State) (m d : Nat) (x : TargetPair) : (s.setTarget m d x).collectives = s.collectives := rfl
@[simp] theorem State.setTarget_completions (s : State) (m d : Nat) (x : TargetPair) : (s.setTarget m d x).completions = s.completions := rfl
@[simp] theorem State.setTarget_reports (s : State) (m d : Nat) (x : TargetPair) : (s.setTarget m d x).reports = s.reports := rfl
@[simp] theorem State.setTarget_boot (s : State) (m d : Nat) (x : TargetPair) : (s.setTarget m d x).boot = s.boot := rfl
@[simp] theorem State.setTarget_now (s : State) (m d : Nat) (x : TargetPair) : (s.setTarget m d x).now = s.now := rfl
@[simp] theorem State.setTarget_issue (s : State) (m d : Nat) (x : TargetPair) : (s.setTarget m d x).issue = s.issue := rfl
@[simp] theorem State.setTarget_reps (s : State) (m d : Nat) (x : TargetPair) : (s.setTarget m d x).reps = s.reps := rfl
@[simp] theorem State.setTarget_inputs (s : State) (m d : Nat) (x : TargetPair) : (s.setTarget m d x).inputs = s.inputs := rfl
@[simp] theorem State.setTarget_choices (s : State) (m d : Nat) (x : TargetPair) : (s.setTarget m d x).choices = s.choices := rfl
@[simp] theorem State.setTarget_frees (s : State) (m d : Nat) (x : TargetPair) : (s.setTarget m d x).frees = s.frees := rfl
@[simp] theorem State.setTarget_fresh (s : State) (m d : Nat) (x : TargetPair) : (s.setTarget m d x).fresh = s.fresh := rfl

/-! ### `setSwq` -/

@[simp] theorem State.setSwq_mem (s : State) (q : Nat) (x : SwQueue) : (s.setSwq q x).mem = s.mem := rfl
@[simp] theorem State.setSwq_sram (s : State) (q : Nat) (x : SwQueue) : (s.setSwq q x).sram = s.sram := rfl
@[simp] theorem State.setSwq_badWords (s : State) (q : Nat) (x : SwQueue) : (s.setSwq q x).badWords = s.badWords := rfl
@[simp] theorem State.setSwq_softWords (s : State) (q : Nat) (x : SwQueue) : (s.setSwq q x).softWords = s.softWords := rfl
@[simp] theorem State.setSwq_teamBad (s : State) (q : Nat) (x : SwQueue) : (s.setSwq q x).teamBad = s.teamBad := rfl
@[simp] theorem State.setSwq_teamSoft (s : State) (q : Nat) (x : SwQueue) : (s.setSwq q x).teamSoft = s.teamSoft := rfl
@[simp] theorem State.setSwq_groups (s : State) (q : Nat) (x : SwQueue) : (s.setSwq q x).groups = s.groups := rfl
@[simp] theorem State.setSwq_teams (s : State) (q : Nat) (x : SwQueue) : (s.setSwq q x).teams = s.teams := rfl
@[simp] theorem State.setSwq_launches (s : State) (q : Nat) (x : SwQueue) : (s.setSwq q x).launches = s.launches := rfl
@[simp] theorem State.setSwq_cores (s : State) (q : Nat) (x : SwQueue) : (s.setSwq q x).cores = s.cores := rfl
@[simp] theorem State.setSwq_quads (s : State) (q : Nat) (x : SwQueue) : (s.setSwq q x).quads = s.quads := rfl
@[simp] theorem State.setSwq_dies (s : State) (q : Nat) (x : SwQueue) : (s.setSwq q x).dies = s.dies := rfl
@[simp] theorem State.setSwq_sems (s : State) (q : Nat) (x : SwQueue) : (s.setSwq q x).sems = s.sems := rfl
@[simp] theorem State.setSwq_spaces (s : State) (q : Nat) (x : SwQueue) : (s.setSwq q x).spaces = s.spaces := rfl
@[simp] theorem State.setSwq_frames (s : State) (q : Nat) (x : SwQueue) : (s.setSwq q x).frames = s.frames := rfl
@[simp] theorem State.setSwq_pinned (s : State) (q : Nat) (x : SwQueue) : (s.setSwq q x).pinned = s.pinned := rfl
@[simp] theorem State.setSwq_pins (s : State) (q : Nat) (x : SwQueue) : (s.setSwq q x).pins = s.pins := rfl
@[simp] theorem State.setSwq_shootdowns (s : State) (q : Nat) (x : SwQueue) : (s.setSwq q x).shootdowns = s.shootdowns := rfl
@[simp] theorem State.setSwq_nextTable (s : State) (q : Nat) (x : SwQueue) : (s.setSwq q x).nextTable = s.nextTable := rfl
@[simp] theorem State.setSwq_windows (s : State) (q : Nat) (x : SwQueue) : (s.setSwq q x).windows = s.windows := rfl
@[simp] theorem State.setSwq_tokenClock (s : State) (q : Nat) (x : SwQueue) : (s.setSwq q x).tokenClock = s.tokenClock := rfl
@[simp] theorem State.setSwq_ports (s : State) (q : Nat) (x : SwQueue) : (s.setSwq q x).ports = s.ports := rfl
@[simp] theorem State.setSwq_flitsOut (s : State) (q : Nat) (x : SwQueue) : (s.setSwq q x).flitsOut = s.flitsOut := rfl
@[simp] theorem State.setSwq_fabricWait (s : State) (q : Nat) (x : SwQueue) : (s.setSwq q x).fabricWait = s.fabricWait := rfl
@[simp] theorem State.setSwq_relayDrops (s : State) (q : Nat) (x : SwQueue) : (s.setSwq q x).relayDrops = s.relayDrops := rfl
@[simp] theorem State.setSwq_arrived (s : State) (q : Nat) (x : SwQueue) : (s.setSwq q x).arrived = s.arrived := rfl
@[simp] theorem State.setSwq_answered (s : State) (q : Nat) (x : SwQueue) : (s.setSwq q x).answered = s.answered := rfl
@[simp] theorem State.setSwq_resendAfter (s : State) (q : Nat) (x : SwQueue) : (s.setSwq q x).resendAfter = s.resendAfter := rfl
@[simp] theorem State.setSwq_pairs (s : State) (q : Nat) (x : SwQueue) : (s.setSwq q x).pairs = s.pairs := rfl
@[simp] theorem State.setSwq_targets (s : State) (q : Nat) (x : SwQueue) : (s.setSwq q x).targets = s.targets := rfl
@[simp] theorem State.setSwq_credits (s : State) (q : Nat) (x : SwQueue) : (s.setSwq q x).credits = s.credits := rfl
@[simp] theorem State.setSwq_detours (s : State) (q : Nat) (x : SwQueue) : (s.setSwq q x).detours = s.detours := rfl
@[simp] theorem State.setSwq_monitors (s : State) (q : Nat) (x : SwQueue) : (s.setSwq q x).monitors = s.monitors := rfl
@[simp] theorem State.setSwq_messagesOut (s : State) (q : Nat) (x : SwQueue) : (s.setSwq q x).messagesOut = s.messagesOut := rfl
@[simp] theorem State.setSwq_funcs (s : State) (q : Nat) (x : SwQueue) : (s.setSwq q x).funcs = s.funcs := rfl
@[simp] theorem State.setSwq_queuePairs (s : State) (q : Nat) (x : SwQueue) : (s.setSwq q x).queuePairs = s.queuePairs := rfl
@[simp] theorem State.setSwq_expansion (s : State) (q : Nat) (x : SwQueue) : (s.setSwq q x).expansion = s.expansion := rfl
@[simp] theorem State.setSwq_bridges (s : State) (q : Nat) (x : SwQueue) : (s.setSwq q x).bridges = s.bridges := rfl
@[simp] theorem State.setSwq_bridgeErrors (s : State) (q : Nat) (x : SwQueue) : (s.setSwq q x).bridgeErrors = s.bridgeErrors := rfl
@[simp] theorem State.setSwq_posted (s : State) (q : Nat) (x : SwQueue) : (s.setSwq q x).posted = s.posted := rfl
@[simp] theorem State.setSwq_answers (s : State) (q : Nat) (x : SwQueue) : (s.setSwq q x).answers = s.answers := rfl
@[simp] theorem State.setSwq_rings (s : State) (q : Nat) (x : SwQueue) : (s.setSwq q x).rings = s.rings := rfl
@[simp] theorem State.setSwq_portDrops (s : State) (q : Nat) (x : SwQueue) : (s.setSwq q x).portDrops = s.portDrops := rfl
@[simp] theorem State.setSwq_pauseFrames (s : State) (q : Nat) (x : SwQueue) : (s.setSwq q x).pauseFrames = s.pauseFrames := rfl
@[simp] theorem State.setSwq_filter (s : State) (q : Nat) (x : SwQueue) : (s.setSwq q x).filter = s.filter := rfl
@[simp] theorem State.setSwq_armed (s : State) (q : Nat) (x : SwQueue) : (s.setSwq q x).armed = s.armed := rfl
@[simp] theorem State.setSwq_heldFrame (s : State) (q : Nat) (x : SwQueue) : (s.setSwq q x).heldFrame = s.heldFrame := rfl
@[simp] theorem State.setSwq_running (s : State) (q : Nat) (x : SwQueue) : (s.setSwq q x).running = s.running := rfl
@[simp] theorem State.setSwq_letters (s : State) (q : Nat) (x : SwQueue) : (s.setSwq q x).letters = s.letters := rfl
@[simp] theorem State.setSwq_letterSeq (s : State) (q : Nat) (x : SwQueue) : (s.setSwq q x).letterSeq = s.letterSeq := rfl
@[simp] theorem State.setSwq_refused (s : State) (q : Nat) (x : SwQueue) : (s.setSwq q x).refused = s.refused := rfl
@[simp] theorem State.setSwq_irqs (s : State) (q : Nat) (x : SwQueue) : (s.setSwq q x).irqs = s.irqs := rfl
@[simp] theorem State.setSwq_slotsOf (s : State) (q : Nat) (x : SwQueue) : (s.setSwq q x).slotsOf = s.slotsOf := rfl
@[simp] theorem State.setSwq_objects (s : State) (q : Nat) (x : SwQueue) : (s.setSwq q x).objects = s.objects := rfl
@[simp] theorem State.setSwq_loads (s : State) (q : Nat) (x : SwQueue) : (s.setSwq q x).loads = s.loads := rfl
@[simp] theorem State.setSwq_runs (s : State) (q : Nat) (x : SwQueue) : (s.setSwq q x).runs = s.runs := rfl
@[simp] theorem State.setSwq_collectives (s : State) (q : Nat) (x : SwQueue) : (s.setSwq q x).collectives = s.collectives := rfl
@[simp] theorem State.setSwq_completions (s : State) (q : Nat) (x : SwQueue) : (s.setSwq q x).completions = s.completions := rfl
@[simp] theorem State.setSwq_reports (s : State) (q : Nat) (x : SwQueue) : (s.setSwq q x).reports = s.reports := rfl
@[simp] theorem State.setSwq_boot (s : State) (q : Nat) (x : SwQueue) : (s.setSwq q x).boot = s.boot := rfl
@[simp] theorem State.setSwq_now (s : State) (q : Nat) (x : SwQueue) : (s.setSwq q x).now = s.now := rfl
@[simp] theorem State.setSwq_issue (s : State) (q : Nat) (x : SwQueue) : (s.setSwq q x).issue = s.issue := rfl
@[simp] theorem State.setSwq_reps (s : State) (q : Nat) (x : SwQueue) : (s.setSwq q x).reps = s.reps := rfl
@[simp] theorem State.setSwq_inputs (s : State) (q : Nat) (x : SwQueue) : (s.setSwq q x).inputs = s.inputs := rfl
@[simp] theorem State.setSwq_choices (s : State) (q : Nat) (x : SwQueue) : (s.setSwq q x).choices = s.choices := rfl
@[simp] theorem State.setSwq_frees (s : State) (q : Nat) (x : SwQueue) : (s.setSwq q x).frees = s.frees := rfl
@[simp] theorem State.setSwq_fresh (s : State) (q : Nat) (x : SwQueue) : (s.setSwq q x).fresh = s.fresh := rfl

/-! ### `setRing` -/

@[simp] theorem State.setRing_mem (s : State) (n : Nat) (x : Ring) : (s.setRing n x).mem = s.mem := rfl
@[simp] theorem State.setRing_sram (s : State) (n : Nat) (x : Ring) : (s.setRing n x).sram = s.sram := rfl
@[simp] theorem State.setRing_badWords (s : State) (n : Nat) (x : Ring) : (s.setRing n x).badWords = s.badWords := rfl
@[simp] theorem State.setRing_softWords (s : State) (n : Nat) (x : Ring) : (s.setRing n x).softWords = s.softWords := rfl
@[simp] theorem State.setRing_teamBad (s : State) (n : Nat) (x : Ring) : (s.setRing n x).teamBad = s.teamBad := rfl
@[simp] theorem State.setRing_teamSoft (s : State) (n : Nat) (x : Ring) : (s.setRing n x).teamSoft = s.teamSoft := rfl
@[simp] theorem State.setRing_groups (s : State) (n : Nat) (x : Ring) : (s.setRing n x).groups = s.groups := rfl
@[simp] theorem State.setRing_teams (s : State) (n : Nat) (x : Ring) : (s.setRing n x).teams = s.teams := rfl
@[simp] theorem State.setRing_launches (s : State) (n : Nat) (x : Ring) : (s.setRing n x).launches = s.launches := rfl
@[simp] theorem State.setRing_cores (s : State) (n : Nat) (x : Ring) : (s.setRing n x).cores = s.cores := rfl
@[simp] theorem State.setRing_quads (s : State) (n : Nat) (x : Ring) : (s.setRing n x).quads = s.quads := rfl
@[simp] theorem State.setRing_dies (s : State) (n : Nat) (x : Ring) : (s.setRing n x).dies = s.dies := rfl
@[simp] theorem State.setRing_sems (s : State) (n : Nat) (x : Ring) : (s.setRing n x).sems = s.sems := rfl
@[simp] theorem State.setRing_spaces (s : State) (n : Nat) (x : Ring) : (s.setRing n x).spaces = s.spaces := rfl
@[simp] theorem State.setRing_frames (s : State) (n : Nat) (x : Ring) : (s.setRing n x).frames = s.frames := rfl
@[simp] theorem State.setRing_pinned (s : State) (n : Nat) (x : Ring) : (s.setRing n x).pinned = s.pinned := rfl
@[simp] theorem State.setRing_pins (s : State) (n : Nat) (x : Ring) : (s.setRing n x).pins = s.pins := rfl
@[simp] theorem State.setRing_shootdowns (s : State) (n : Nat) (x : Ring) : (s.setRing n x).shootdowns = s.shootdowns := rfl
@[simp] theorem State.setRing_nextTable (s : State) (n : Nat) (x : Ring) : (s.setRing n x).nextTable = s.nextTable := rfl
@[simp] theorem State.setRing_windows (s : State) (n : Nat) (x : Ring) : (s.setRing n x).windows = s.windows := rfl
@[simp] theorem State.setRing_tokenClock (s : State) (n : Nat) (x : Ring) : (s.setRing n x).tokenClock = s.tokenClock := rfl
@[simp] theorem State.setRing_ports (s : State) (n : Nat) (x : Ring) : (s.setRing n x).ports = s.ports := rfl
@[simp] theorem State.setRing_flitsOut (s : State) (n : Nat) (x : Ring) : (s.setRing n x).flitsOut = s.flitsOut := rfl
@[simp] theorem State.setRing_fabricWait (s : State) (n : Nat) (x : Ring) : (s.setRing n x).fabricWait = s.fabricWait := rfl
@[simp] theorem State.setRing_relayDrops (s : State) (n : Nat) (x : Ring) : (s.setRing n x).relayDrops = s.relayDrops := rfl
@[simp] theorem State.setRing_arrived (s : State) (n : Nat) (x : Ring) : (s.setRing n x).arrived = s.arrived := rfl
@[simp] theorem State.setRing_answered (s : State) (n : Nat) (x : Ring) : (s.setRing n x).answered = s.answered := rfl
@[simp] theorem State.setRing_resendAfter (s : State) (n : Nat) (x : Ring) : (s.setRing n x).resendAfter = s.resendAfter := rfl
@[simp] theorem State.setRing_pairs (s : State) (n : Nat) (x : Ring) : (s.setRing n x).pairs = s.pairs := rfl
@[simp] theorem State.setRing_targets (s : State) (n : Nat) (x : Ring) : (s.setRing n x).targets = s.targets := rfl
@[simp] theorem State.setRing_credits (s : State) (n : Nat) (x : Ring) : (s.setRing n x).credits = s.credits := rfl
@[simp] theorem State.setRing_detours (s : State) (n : Nat) (x : Ring) : (s.setRing n x).detours = s.detours := rfl
@[simp] theorem State.setRing_monitors (s : State) (n : Nat) (x : Ring) : (s.setRing n x).monitors = s.monitors := rfl
@[simp] theorem State.setRing_messagesOut (s : State) (n : Nat) (x : Ring) : (s.setRing n x).messagesOut = s.messagesOut := rfl
@[simp] theorem State.setRing_funcs (s : State) (n : Nat) (x : Ring) : (s.setRing n x).funcs = s.funcs := rfl
@[simp] theorem State.setRing_queuePairs (s : State) (n : Nat) (x : Ring) : (s.setRing n x).queuePairs = s.queuePairs := rfl
@[simp] theorem State.setRing_expansion (s : State) (n : Nat) (x : Ring) : (s.setRing n x).expansion = s.expansion := rfl
@[simp] theorem State.setRing_bridges (s : State) (n : Nat) (x : Ring) : (s.setRing n x).bridges = s.bridges := rfl
@[simp] theorem State.setRing_bridgeErrors (s : State) (n : Nat) (x : Ring) : (s.setRing n x).bridgeErrors = s.bridgeErrors := rfl
@[simp] theorem State.setRing_posted (s : State) (n : Nat) (x : Ring) : (s.setRing n x).posted = s.posted := rfl
@[simp] theorem State.setRing_answers (s : State) (n : Nat) (x : Ring) : (s.setRing n x).answers = s.answers := rfl
@[simp] theorem State.setRing_portDrops (s : State) (n : Nat) (x : Ring) : (s.setRing n x).portDrops = s.portDrops := rfl
@[simp] theorem State.setRing_pauseFrames (s : State) (n : Nat) (x : Ring) : (s.setRing n x).pauseFrames = s.pauseFrames := rfl
@[simp] theorem State.setRing_filter (s : State) (n : Nat) (x : Ring) : (s.setRing n x).filter = s.filter := rfl
@[simp] theorem State.setRing_armed (s : State) (n : Nat) (x : Ring) : (s.setRing n x).armed = s.armed := rfl
@[simp] theorem State.setRing_heldFrame (s : State) (n : Nat) (x : Ring) : (s.setRing n x).heldFrame = s.heldFrame := rfl
@[simp] theorem State.setRing_running (s : State) (n : Nat) (x : Ring) : (s.setRing n x).running = s.running := rfl
@[simp] theorem State.setRing_letters (s : State) (n : Nat) (x : Ring) : (s.setRing n x).letters = s.letters := rfl
@[simp] theorem State.setRing_letterSeq (s : State) (n : Nat) (x : Ring) : (s.setRing n x).letterSeq = s.letterSeq := rfl
@[simp] theorem State.setRing_refused (s : State) (n : Nat) (x : Ring) : (s.setRing n x).refused = s.refused := rfl
@[simp] theorem State.setRing_irqs (s : State) (n : Nat) (x : Ring) : (s.setRing n x).irqs = s.irqs := rfl
@[simp] theorem State.setRing_queues (s : State) (n : Nat) (x : Ring) : (s.setRing n x).queues = s.queues := rfl
@[simp] theorem State.setRing_slotsOf (s : State) (n : Nat) (x : Ring) : (s.setRing n x).slotsOf = s.slotsOf := rfl
@[simp] theorem State.setRing_objects (s : State) (n : Nat) (x : Ring) : (s.setRing n x).objects = s.objects := rfl
@[simp] theorem State.setRing_loads (s : State) (n : Nat) (x : Ring) : (s.setRing n x).loads = s.loads := rfl
@[simp] theorem State.setRing_runs (s : State) (n : Nat) (x : Ring) : (s.setRing n x).runs = s.runs := rfl
@[simp] theorem State.setRing_collectives (s : State) (n : Nat) (x : Ring) : (s.setRing n x).collectives = s.collectives := rfl
@[simp] theorem State.setRing_completions (s : State) (n : Nat) (x : Ring) : (s.setRing n x).completions = s.completions := rfl
@[simp] theorem State.setRing_reports (s : State) (n : Nat) (x : Ring) : (s.setRing n x).reports = s.reports := rfl
@[simp] theorem State.setRing_boot (s : State) (n : Nat) (x : Ring) : (s.setRing n x).boot = s.boot := rfl
@[simp] theorem State.setRing_now (s : State) (n : Nat) (x : Ring) : (s.setRing n x).now = s.now := rfl
@[simp] theorem State.setRing_issue (s : State) (n : Nat) (x : Ring) : (s.setRing n x).issue = s.issue := rfl
@[simp] theorem State.setRing_reps (s : State) (n : Nat) (x : Ring) : (s.setRing n x).reps = s.reps := rfl
@[simp] theorem State.setRing_inputs (s : State) (n : Nat) (x : Ring) : (s.setRing n x).inputs = s.inputs := rfl
@[simp] theorem State.setRing_choices (s : State) (n : Nat) (x : Ring) : (s.setRing n x).choices = s.choices := rfl
@[simp] theorem State.setRing_frees (s : State) (n : Nat) (x : Ring) : (s.setRing n x).frees = s.frees := rfl
@[simp] theorem State.setRing_fresh (s : State) (n : Nat) (x : Ring) : (s.setRing n x).fresh = s.fresh := rfl

/-! ### `modGroup` -/

@[simp] theorem State.modGroup_mem (s : State) (gid : Nat) (f : Group → Group) : (s.modGroup gid f).mem = s.mem := rfl
@[simp] theorem State.modGroup_sram (s : State) (gid : Nat) (f : Group → Group) : (s.modGroup gid f).sram = s.sram := rfl
@[simp] theorem State.modGroup_badWords (s : State) (gid : Nat) (f : Group → Group) : (s.modGroup gid f).badWords = s.badWords := rfl
@[simp] theorem State.modGroup_softWords (s : State) (gid : Nat) (f : Group → Group) : (s.modGroup gid f).softWords = s.softWords := rfl
@[simp] theorem State.modGroup_teamBad (s : State) (gid : Nat) (f : Group → Group) : (s.modGroup gid f).teamBad = s.teamBad := rfl
@[simp] theorem State.modGroup_teamSoft (s : State) (gid : Nat) (f : Group → Group) : (s.modGroup gid f).teamSoft = s.teamSoft := rfl
@[simp] theorem State.modGroup_teams (s : State) (gid : Nat) (f : Group → Group) : (s.modGroup gid f).teams = s.teams := rfl
@[simp] theorem State.modGroup_launches (s : State) (gid : Nat) (f : Group → Group) : (s.modGroup gid f).launches = s.launches := rfl
@[simp] theorem State.modGroup_cores (s : State) (gid : Nat) (f : Group → Group) : (s.modGroup gid f).cores = s.cores := rfl
@[simp] theorem State.modGroup_quads (s : State) (gid : Nat) (f : Group → Group) : (s.modGroup gid f).quads = s.quads := rfl
@[simp] theorem State.modGroup_dies (s : State) (gid : Nat) (f : Group → Group) : (s.modGroup gid f).dies = s.dies := rfl
@[simp] theorem State.modGroup_sems (s : State) (gid : Nat) (f : Group → Group) : (s.modGroup gid f).sems = s.sems := rfl
@[simp] theorem State.modGroup_spaces (s : State) (gid : Nat) (f : Group → Group) : (s.modGroup gid f).spaces = s.spaces := rfl
@[simp] theorem State.modGroup_frames (s : State) (gid : Nat) (f : Group → Group) : (s.modGroup gid f).frames = s.frames := rfl
@[simp] theorem State.modGroup_pinned (s : State) (gid : Nat) (f : Group → Group) : (s.modGroup gid f).pinned = s.pinned := rfl
@[simp] theorem State.modGroup_pins (s : State) (gid : Nat) (f : Group → Group) : (s.modGroup gid f).pins = s.pins := rfl
@[simp] theorem State.modGroup_shootdowns (s : State) (gid : Nat) (f : Group → Group) : (s.modGroup gid f).shootdowns = s.shootdowns := rfl
@[simp] theorem State.modGroup_nextTable (s : State) (gid : Nat) (f : Group → Group) : (s.modGroup gid f).nextTable = s.nextTable := rfl
@[simp] theorem State.modGroup_windows (s : State) (gid : Nat) (f : Group → Group) : (s.modGroup gid f).windows = s.windows := rfl
@[simp] theorem State.modGroup_tokenClock (s : State) (gid : Nat) (f : Group → Group) : (s.modGroup gid f).tokenClock = s.tokenClock := rfl
@[simp] theorem State.modGroup_ports (s : State) (gid : Nat) (f : Group → Group) : (s.modGroup gid f).ports = s.ports := rfl
@[simp] theorem State.modGroup_flitsOut (s : State) (gid : Nat) (f : Group → Group) : (s.modGroup gid f).flitsOut = s.flitsOut := rfl
@[simp] theorem State.modGroup_fabricWait (s : State) (gid : Nat) (f : Group → Group) : (s.modGroup gid f).fabricWait = s.fabricWait := rfl
@[simp] theorem State.modGroup_relayDrops (s : State) (gid : Nat) (f : Group → Group) : (s.modGroup gid f).relayDrops = s.relayDrops := rfl
@[simp] theorem State.modGroup_arrived (s : State) (gid : Nat) (f : Group → Group) : (s.modGroup gid f).arrived = s.arrived := rfl
@[simp] theorem State.modGroup_answered (s : State) (gid : Nat) (f : Group → Group) : (s.modGroup gid f).answered = s.answered := rfl
@[simp] theorem State.modGroup_resendAfter (s : State) (gid : Nat) (f : Group → Group) : (s.modGroup gid f).resendAfter = s.resendAfter := rfl
@[simp] theorem State.modGroup_pairs (s : State) (gid : Nat) (f : Group → Group) : (s.modGroup gid f).pairs = s.pairs := rfl
@[simp] theorem State.modGroup_targets (s : State) (gid : Nat) (f : Group → Group) : (s.modGroup gid f).targets = s.targets := rfl
@[simp] theorem State.modGroup_credits (s : State) (gid : Nat) (f : Group → Group) : (s.modGroup gid f).credits = s.credits := rfl
@[simp] theorem State.modGroup_detours (s : State) (gid : Nat) (f : Group → Group) : (s.modGroup gid f).detours = s.detours := rfl
@[simp] theorem State.modGroup_monitors (s : State) (gid : Nat) (f : Group → Group) : (s.modGroup gid f).monitors = s.monitors := rfl
@[simp] theorem State.modGroup_messagesOut (s : State) (gid : Nat) (f : Group → Group) : (s.modGroup gid f).messagesOut = s.messagesOut := rfl
@[simp] theorem State.modGroup_funcs (s : State) (gid : Nat) (f : Group → Group) : (s.modGroup gid f).funcs = s.funcs := rfl
@[simp] theorem State.modGroup_queuePairs (s : State) (gid : Nat) (f : Group → Group) : (s.modGroup gid f).queuePairs = s.queuePairs := rfl
@[simp] theorem State.modGroup_expansion (s : State) (gid : Nat) (f : Group → Group) : (s.modGroup gid f).expansion = s.expansion := rfl
@[simp] theorem State.modGroup_bridges (s : State) (gid : Nat) (f : Group → Group) : (s.modGroup gid f).bridges = s.bridges := rfl
@[simp] theorem State.modGroup_bridgeErrors (s : State) (gid : Nat) (f : Group → Group) : (s.modGroup gid f).bridgeErrors = s.bridgeErrors := rfl
@[simp] theorem State.modGroup_posted (s : State) (gid : Nat) (f : Group → Group) : (s.modGroup gid f).posted = s.posted := rfl
@[simp] theorem State.modGroup_answers (s : State) (gid : Nat) (f : Group → Group) : (s.modGroup gid f).answers = s.answers := rfl
@[simp] theorem State.modGroup_rings (s : State) (gid : Nat) (f : Group → Group) : (s.modGroup gid f).rings = s.rings := rfl
@[simp] theorem State.modGroup_portDrops (s : State) (gid : Nat) (f : Group → Group) : (s.modGroup gid f).portDrops = s.portDrops := rfl
@[simp] theorem State.modGroup_pauseFrames (s : State) (gid : Nat) (f : Group → Group) : (s.modGroup gid f).pauseFrames = s.pauseFrames := rfl
@[simp] theorem State.modGroup_filter (s : State) (gid : Nat) (f : Group → Group) : (s.modGroup gid f).filter = s.filter := rfl
@[simp] theorem State.modGroup_armed (s : State) (gid : Nat) (f : Group → Group) : (s.modGroup gid f).armed = s.armed := rfl
@[simp] theorem State.modGroup_heldFrame (s : State) (gid : Nat) (f : Group → Group) : (s.modGroup gid f).heldFrame = s.heldFrame := rfl
@[simp] theorem State.modGroup_running (s : State) (gid : Nat) (f : Group → Group) : (s.modGroup gid f).running = s.running := rfl
@[simp] theorem State.modGroup_letters (s : State) (gid : Nat) (f : Group → Group) : (s.modGroup gid f).letters = s.letters := rfl
@[simp] theorem State.modGroup_letterSeq (s : State) (gid : Nat) (f : Group → Group) : (s.modGroup gid f).letterSeq = s.letterSeq := rfl
@[simp] theorem State.modGroup_refused (s : State) (gid : Nat) (f : Group → Group) : (s.modGroup gid f).refused = s.refused := rfl
@[simp] theorem State.modGroup_irqs (s : State) (gid : Nat) (f : Group → Group) : (s.modGroup gid f).irqs = s.irqs := rfl
@[simp] theorem State.modGroup_queues (s : State) (gid : Nat) (f : Group → Group) : (s.modGroup gid f).queues = s.queues := rfl
@[simp] theorem State.modGroup_slotsOf (s : State) (gid : Nat) (f : Group → Group) : (s.modGroup gid f).slotsOf = s.slotsOf := rfl
@[simp] theorem State.modGroup_objects (s : State) (gid : Nat) (f : Group → Group) : (s.modGroup gid f).objects = s.objects := rfl
@[simp] theorem State.modGroup_loads (s : State) (gid : Nat) (f : Group → Group) : (s.modGroup gid f).loads = s.loads := rfl
@[simp] theorem State.modGroup_runs (s : State) (gid : Nat) (f : Group → Group) : (s.modGroup gid f).runs = s.runs := rfl
@[simp] theorem State.modGroup_collectives (s : State) (gid : Nat) (f : Group → Group) : (s.modGroup gid f).collectives = s.collectives := rfl
@[simp] theorem State.modGroup_completions (s : State) (gid : Nat) (f : Group → Group) : (s.modGroup gid f).completions = s.completions := rfl
@[simp] theorem State.modGroup_reports (s : State) (gid : Nat) (f : Group → Group) : (s.modGroup gid f).reports = s.reports := rfl
@[simp] theorem State.modGroup_boot (s : State) (gid : Nat) (f : Group → Group) : (s.modGroup gid f).boot = s.boot := rfl
@[simp] theorem State.modGroup_now (s : State) (gid : Nat) (f : Group → Group) : (s.modGroup gid f).now = s.now := rfl
@[simp] theorem State.modGroup_issue (s : State) (gid : Nat) (f : Group → Group) : (s.modGroup gid f).issue = s.issue := rfl
@[simp] theorem State.modGroup_reps (s : State) (gid : Nat) (f : Group → Group) : (s.modGroup gid f).reps = s.reps := rfl
@[simp] theorem State.modGroup_inputs (s : State) (gid : Nat) (f : Group → Group) : (s.modGroup gid f).inputs = s.inputs := rfl
@[simp] theorem State.modGroup_choices (s : State) (gid : Nat) (f : Group → Group) : (s.modGroup gid f).choices = s.choices := rfl
@[simp] theorem State.modGroup_frees (s : State) (gid : Nat) (f : Group → Group) : (s.modGroup gid f).frees = s.frees := rfl
@[simp] theorem State.modGroup_fresh (s : State) (gid : Nat) (f : Group → Group) : (s.modGroup gid f).fresh = s.fresh := rfl

/-! ### `modThread` -/

@[simp] theorem State.modThread_mem (s : State) (gid tid : Nat) (f : Thread → Thread) : (s.modThread gid tid f).mem = s.mem := rfl
@[simp] theorem State.modThread_sram (s : State) (gid tid : Nat) (f : Thread → Thread) : (s.modThread gid tid f).sram = s.sram := rfl
@[simp] theorem State.modThread_badWords (s : State) (gid tid : Nat) (f : Thread → Thread) : (s.modThread gid tid f).badWords = s.badWords := rfl
@[simp] theorem State.modThread_softWords (s : State) (gid tid : Nat) (f : Thread → Thread) : (s.modThread gid tid f).softWords = s.softWords := rfl
@[simp] theorem State.modThread_teamBad (s : State) (gid tid : Nat) (f : Thread → Thread) : (s.modThread gid tid f).teamBad = s.teamBad := rfl
@[simp] theorem State.modThread_teamSoft (s : State) (gid tid : Nat) (f : Thread → Thread) : (s.modThread gid tid f).teamSoft = s.teamSoft := rfl
@[simp] theorem State.modThread_teams (s : State) (gid tid : Nat) (f : Thread → Thread) : (s.modThread gid tid f).teams = s.teams := rfl
@[simp] theorem State.modThread_launches (s : State) (gid tid : Nat) (f : Thread → Thread) : (s.modThread gid tid f).launches = s.launches := rfl
@[simp] theorem State.modThread_cores (s : State) (gid tid : Nat) (f : Thread → Thread) : (s.modThread gid tid f).cores = s.cores := rfl
@[simp] theorem State.modThread_quads (s : State) (gid tid : Nat) (f : Thread → Thread) : (s.modThread gid tid f).quads = s.quads := rfl
@[simp] theorem State.modThread_dies (s : State) (gid tid : Nat) (f : Thread → Thread) : (s.modThread gid tid f).dies = s.dies := rfl
@[simp] theorem State.modThread_sems (s : State) (gid tid : Nat) (f : Thread → Thread) : (s.modThread gid tid f).sems = s.sems := rfl
@[simp] theorem State.modThread_spaces (s : State) (gid tid : Nat) (f : Thread → Thread) : (s.modThread gid tid f).spaces = s.spaces := rfl
@[simp] theorem State.modThread_frames (s : State) (gid tid : Nat) (f : Thread → Thread) : (s.modThread gid tid f).frames = s.frames := rfl
@[simp] theorem State.modThread_pinned (s : State) (gid tid : Nat) (f : Thread → Thread) : (s.modThread gid tid f).pinned = s.pinned := rfl
@[simp] theorem State.modThread_pins (s : State) (gid tid : Nat) (f : Thread → Thread) : (s.modThread gid tid f).pins = s.pins := rfl
@[simp] theorem State.modThread_shootdowns (s : State) (gid tid : Nat) (f : Thread → Thread) : (s.modThread gid tid f).shootdowns = s.shootdowns := rfl
@[simp] theorem State.modThread_nextTable (s : State) (gid tid : Nat) (f : Thread → Thread) : (s.modThread gid tid f).nextTable = s.nextTable := rfl
@[simp] theorem State.modThread_windows (s : State) (gid tid : Nat) (f : Thread → Thread) : (s.modThread gid tid f).windows = s.windows := rfl
@[simp] theorem State.modThread_tokenClock (s : State) (gid tid : Nat) (f : Thread → Thread) : (s.modThread gid tid f).tokenClock = s.tokenClock := rfl
@[simp] theorem State.modThread_ports (s : State) (gid tid : Nat) (f : Thread → Thread) : (s.modThread gid tid f).ports = s.ports := rfl
@[simp] theorem State.modThread_flitsOut (s : State) (gid tid : Nat) (f : Thread → Thread) : (s.modThread gid tid f).flitsOut = s.flitsOut := rfl
@[simp] theorem State.modThread_fabricWait (s : State) (gid tid : Nat) (f : Thread → Thread) : (s.modThread gid tid f).fabricWait = s.fabricWait := rfl
@[simp] theorem State.modThread_relayDrops (s : State) (gid tid : Nat) (f : Thread → Thread) : (s.modThread gid tid f).relayDrops = s.relayDrops := rfl
@[simp] theorem State.modThread_arrived (s : State) (gid tid : Nat) (f : Thread → Thread) : (s.modThread gid tid f).arrived = s.arrived := rfl
@[simp] theorem State.modThread_answered (s : State) (gid tid : Nat) (f : Thread → Thread) : (s.modThread gid tid f).answered = s.answered := rfl
@[simp] theorem State.modThread_resendAfter (s : State) (gid tid : Nat) (f : Thread → Thread) : (s.modThread gid tid f).resendAfter = s.resendAfter := rfl
@[simp] theorem State.modThread_pairs (s : State) (gid tid : Nat) (f : Thread → Thread) : (s.modThread gid tid f).pairs = s.pairs := rfl
@[simp] theorem State.modThread_targets (s : State) (gid tid : Nat) (f : Thread → Thread) : (s.modThread gid tid f).targets = s.targets := rfl
@[simp] theorem State.modThread_credits (s : State) (gid tid : Nat) (f : Thread → Thread) : (s.modThread gid tid f).credits = s.credits := rfl
@[simp] theorem State.modThread_detours (s : State) (gid tid : Nat) (f : Thread → Thread) : (s.modThread gid tid f).detours = s.detours := rfl
@[simp] theorem State.modThread_monitors (s : State) (gid tid : Nat) (f : Thread → Thread) : (s.modThread gid tid f).monitors = s.monitors := rfl
@[simp] theorem State.modThread_messagesOut (s : State) (gid tid : Nat) (f : Thread → Thread) : (s.modThread gid tid f).messagesOut = s.messagesOut := rfl
@[simp] theorem State.modThread_funcs (s : State) (gid tid : Nat) (f : Thread → Thread) : (s.modThread gid tid f).funcs = s.funcs := rfl
@[simp] theorem State.modThread_queuePairs (s : State) (gid tid : Nat) (f : Thread → Thread) : (s.modThread gid tid f).queuePairs = s.queuePairs := rfl
@[simp] theorem State.modThread_expansion (s : State) (gid tid : Nat) (f : Thread → Thread) : (s.modThread gid tid f).expansion = s.expansion := rfl
@[simp] theorem State.modThread_bridges (s : State) (gid tid : Nat) (f : Thread → Thread) : (s.modThread gid tid f).bridges = s.bridges := rfl
@[simp] theorem State.modThread_bridgeErrors (s : State) (gid tid : Nat) (f : Thread → Thread) : (s.modThread gid tid f).bridgeErrors = s.bridgeErrors := rfl
@[simp] theorem State.modThread_posted (s : State) (gid tid : Nat) (f : Thread → Thread) : (s.modThread gid tid f).posted = s.posted := rfl
@[simp] theorem State.modThread_answers (s : State) (gid tid : Nat) (f : Thread → Thread) : (s.modThread gid tid f).answers = s.answers := rfl
@[simp] theorem State.modThread_rings (s : State) (gid tid : Nat) (f : Thread → Thread) : (s.modThread gid tid f).rings = s.rings := rfl
@[simp] theorem State.modThread_portDrops (s : State) (gid tid : Nat) (f : Thread → Thread) : (s.modThread gid tid f).portDrops = s.portDrops := rfl
@[simp] theorem State.modThread_pauseFrames (s : State) (gid tid : Nat) (f : Thread → Thread) : (s.modThread gid tid f).pauseFrames = s.pauseFrames := rfl
@[simp] theorem State.modThread_filter (s : State) (gid tid : Nat) (f : Thread → Thread) : (s.modThread gid tid f).filter = s.filter := rfl
@[simp] theorem State.modThread_armed (s : State) (gid tid : Nat) (f : Thread → Thread) : (s.modThread gid tid f).armed = s.armed := rfl
@[simp] theorem State.modThread_heldFrame (s : State) (gid tid : Nat) (f : Thread → Thread) : (s.modThread gid tid f).heldFrame = s.heldFrame := rfl
@[simp] theorem State.modThread_running (s : State) (gid tid : Nat) (f : Thread → Thread) : (s.modThread gid tid f).running = s.running := rfl
@[simp] theorem State.modThread_letters (s : State) (gid tid : Nat) (f : Thread → Thread) : (s.modThread gid tid f).letters = s.letters := rfl
@[simp] theorem State.modThread_letterSeq (s : State) (gid tid : Nat) (f : Thread → Thread) : (s.modThread gid tid f).letterSeq = s.letterSeq := rfl
@[simp] theorem State.modThread_refused (s : State) (gid tid : Nat) (f : Thread → Thread) : (s.modThread gid tid f).refused = s.refused := rfl
@[simp] theorem State.modThread_irqs (s : State) (gid tid : Nat) (f : Thread → Thread) : (s.modThread gid tid f).irqs = s.irqs := rfl
@[simp] theorem State.modThread_queues (s : State) (gid tid : Nat) (f : Thread → Thread) : (s.modThread gid tid f).queues = s.queues := rfl
@[simp] theorem State.modThread_slotsOf (s : State) (gid tid : Nat) (f : Thread → Thread) : (s.modThread gid tid f).slotsOf = s.slotsOf := rfl
@[simp] theorem State.modThread_objects (s : State) (gid tid : Nat) (f : Thread → Thread) : (s.modThread gid tid f).objects = s.objects := rfl
@[simp] theorem State.modThread_loads (s : State) (gid tid : Nat) (f : Thread → Thread) : (s.modThread gid tid f).loads = s.loads := rfl
@[simp] theorem State.modThread_runs (s : State) (gid tid : Nat) (f : Thread → Thread) : (s.modThread gid tid f).runs = s.runs := rfl
@[simp] theorem State.modThread_collectives (s : State) (gid tid : Nat) (f : Thread → Thread) : (s.modThread gid tid f).collectives = s.collectives := rfl
@[simp] theorem State.modThread_completions (s : State) (gid tid : Nat) (f : Thread → Thread) : (s.modThread gid tid f).completions = s.completions := rfl
@[simp] theorem State.modThread_reports (s : State) (gid tid : Nat) (f : Thread → Thread) : (s.modThread gid tid f).reports = s.reports := rfl
@[simp] theorem State.modThread_boot (s : State) (gid tid : Nat) (f : Thread → Thread) : (s.modThread gid tid f).boot = s.boot := rfl
@[simp] theorem State.modThread_now (s : State) (gid tid : Nat) (f : Thread → Thread) : (s.modThread gid tid f).now = s.now := rfl
@[simp] theorem State.modThread_issue (s : State) (gid tid : Nat) (f : Thread → Thread) : (s.modThread gid tid f).issue = s.issue := rfl
@[simp] theorem State.modThread_reps (s : State) (gid tid : Nat) (f : Thread → Thread) : (s.modThread gid tid f).reps = s.reps := rfl
@[simp] theorem State.modThread_inputs (s : State) (gid tid : Nat) (f : Thread → Thread) : (s.modThread gid tid f).inputs = s.inputs := rfl
@[simp] theorem State.modThread_choices (s : State) (gid tid : Nat) (f : Thread → Thread) : (s.modThread gid tid f).choices = s.choices := rfl
@[simp] theorem State.modThread_frees (s : State) (gid tid : Nat) (f : Thread → Thread) : (s.modThread gid tid f).frees = s.frees := rfl
@[simp] theorem State.modThread_fresh (s : State) (gid tid : Nat) (f : Thread → Thread) : (s.modThread gid tid f).fresh = s.fresh := rfl

/-! ### `modTeam` -/

@[simp] theorem State.modTeam_mem (s : State) (tuid : Nat) (f : Team → Team) : (s.modTeam tuid f).mem = s.mem := rfl
@[simp] theorem State.modTeam_sram (s : State) (tuid : Nat) (f : Team → Team) : (s.modTeam tuid f).sram = s.sram := rfl
@[simp] theorem State.modTeam_badWords (s : State) (tuid : Nat) (f : Team → Team) : (s.modTeam tuid f).badWords = s.badWords := rfl
@[simp] theorem State.modTeam_softWords (s : State) (tuid : Nat) (f : Team → Team) : (s.modTeam tuid f).softWords = s.softWords := rfl
@[simp] theorem State.modTeam_teamBad (s : State) (tuid : Nat) (f : Team → Team) : (s.modTeam tuid f).teamBad = s.teamBad := rfl
@[simp] theorem State.modTeam_teamSoft (s : State) (tuid : Nat) (f : Team → Team) : (s.modTeam tuid f).teamSoft = s.teamSoft := rfl
@[simp] theorem State.modTeam_groups (s : State) (tuid : Nat) (f : Team → Team) : (s.modTeam tuid f).groups = s.groups := rfl
@[simp] theorem State.modTeam_launches (s : State) (tuid : Nat) (f : Team → Team) : (s.modTeam tuid f).launches = s.launches := rfl
@[simp] theorem State.modTeam_cores (s : State) (tuid : Nat) (f : Team → Team) : (s.modTeam tuid f).cores = s.cores := rfl
@[simp] theorem State.modTeam_quads (s : State) (tuid : Nat) (f : Team → Team) : (s.modTeam tuid f).quads = s.quads := rfl
@[simp] theorem State.modTeam_dies (s : State) (tuid : Nat) (f : Team → Team) : (s.modTeam tuid f).dies = s.dies := rfl
@[simp] theorem State.modTeam_sems (s : State) (tuid : Nat) (f : Team → Team) : (s.modTeam tuid f).sems = s.sems := rfl
@[simp] theorem State.modTeam_spaces (s : State) (tuid : Nat) (f : Team → Team) : (s.modTeam tuid f).spaces = s.spaces := rfl
@[simp] theorem State.modTeam_frames (s : State) (tuid : Nat) (f : Team → Team) : (s.modTeam tuid f).frames = s.frames := rfl
@[simp] theorem State.modTeam_pinned (s : State) (tuid : Nat) (f : Team → Team) : (s.modTeam tuid f).pinned = s.pinned := rfl
@[simp] theorem State.modTeam_pins (s : State) (tuid : Nat) (f : Team → Team) : (s.modTeam tuid f).pins = s.pins := rfl
@[simp] theorem State.modTeam_shootdowns (s : State) (tuid : Nat) (f : Team → Team) : (s.modTeam tuid f).shootdowns = s.shootdowns := rfl
@[simp] theorem State.modTeam_nextTable (s : State) (tuid : Nat) (f : Team → Team) : (s.modTeam tuid f).nextTable = s.nextTable := rfl
@[simp] theorem State.modTeam_windows (s : State) (tuid : Nat) (f : Team → Team) : (s.modTeam tuid f).windows = s.windows := rfl
@[simp] theorem State.modTeam_tokenClock (s : State) (tuid : Nat) (f : Team → Team) : (s.modTeam tuid f).tokenClock = s.tokenClock := rfl
@[simp] theorem State.modTeam_ports (s : State) (tuid : Nat) (f : Team → Team) : (s.modTeam tuid f).ports = s.ports := rfl
@[simp] theorem State.modTeam_flitsOut (s : State) (tuid : Nat) (f : Team → Team) : (s.modTeam tuid f).flitsOut = s.flitsOut := rfl
@[simp] theorem State.modTeam_fabricWait (s : State) (tuid : Nat) (f : Team → Team) : (s.modTeam tuid f).fabricWait = s.fabricWait := rfl
@[simp] theorem State.modTeam_relayDrops (s : State) (tuid : Nat) (f : Team → Team) : (s.modTeam tuid f).relayDrops = s.relayDrops := rfl
@[simp] theorem State.modTeam_arrived (s : State) (tuid : Nat) (f : Team → Team) : (s.modTeam tuid f).arrived = s.arrived := rfl
@[simp] theorem State.modTeam_answered (s : State) (tuid : Nat) (f : Team → Team) : (s.modTeam tuid f).answered = s.answered := rfl
@[simp] theorem State.modTeam_resendAfter (s : State) (tuid : Nat) (f : Team → Team) : (s.modTeam tuid f).resendAfter = s.resendAfter := rfl
@[simp] theorem State.modTeam_pairs (s : State) (tuid : Nat) (f : Team → Team) : (s.modTeam tuid f).pairs = s.pairs := rfl
@[simp] theorem State.modTeam_targets (s : State) (tuid : Nat) (f : Team → Team) : (s.modTeam tuid f).targets = s.targets := rfl
@[simp] theorem State.modTeam_credits (s : State) (tuid : Nat) (f : Team → Team) : (s.modTeam tuid f).credits = s.credits := rfl
@[simp] theorem State.modTeam_detours (s : State) (tuid : Nat) (f : Team → Team) : (s.modTeam tuid f).detours = s.detours := rfl
@[simp] theorem State.modTeam_monitors (s : State) (tuid : Nat) (f : Team → Team) : (s.modTeam tuid f).monitors = s.monitors := rfl
@[simp] theorem State.modTeam_messagesOut (s : State) (tuid : Nat) (f : Team → Team) : (s.modTeam tuid f).messagesOut = s.messagesOut := rfl
@[simp] theorem State.modTeam_funcs (s : State) (tuid : Nat) (f : Team → Team) : (s.modTeam tuid f).funcs = s.funcs := rfl
@[simp] theorem State.modTeam_queuePairs (s : State) (tuid : Nat) (f : Team → Team) : (s.modTeam tuid f).queuePairs = s.queuePairs := rfl
@[simp] theorem State.modTeam_expansion (s : State) (tuid : Nat) (f : Team → Team) : (s.modTeam tuid f).expansion = s.expansion := rfl
@[simp] theorem State.modTeam_bridges (s : State) (tuid : Nat) (f : Team → Team) : (s.modTeam tuid f).bridges = s.bridges := rfl
@[simp] theorem State.modTeam_bridgeErrors (s : State) (tuid : Nat) (f : Team → Team) : (s.modTeam tuid f).bridgeErrors = s.bridgeErrors := rfl
@[simp] theorem State.modTeam_posted (s : State) (tuid : Nat) (f : Team → Team) : (s.modTeam tuid f).posted = s.posted := rfl
@[simp] theorem State.modTeam_answers (s : State) (tuid : Nat) (f : Team → Team) : (s.modTeam tuid f).answers = s.answers := rfl
@[simp] theorem State.modTeam_rings (s : State) (tuid : Nat) (f : Team → Team) : (s.modTeam tuid f).rings = s.rings := rfl
@[simp] theorem State.modTeam_portDrops (s : State) (tuid : Nat) (f : Team → Team) : (s.modTeam tuid f).portDrops = s.portDrops := rfl
@[simp] theorem State.modTeam_pauseFrames (s : State) (tuid : Nat) (f : Team → Team) : (s.modTeam tuid f).pauseFrames = s.pauseFrames := rfl
@[simp] theorem State.modTeam_filter (s : State) (tuid : Nat) (f : Team → Team) : (s.modTeam tuid f).filter = s.filter := rfl
@[simp] theorem State.modTeam_armed (s : State) (tuid : Nat) (f : Team → Team) : (s.modTeam tuid f).armed = s.armed := rfl
@[simp] theorem State.modTeam_heldFrame (s : State) (tuid : Nat) (f : Team → Team) : (s.modTeam tuid f).heldFrame = s.heldFrame := rfl
@[simp] theorem State.modTeam_running (s : State) (tuid : Nat) (f : Team → Team) : (s.modTeam tuid f).running = s.running := rfl
@[simp] theorem State.modTeam_letters (s : State) (tuid : Nat) (f : Team → Team) : (s.modTeam tuid f).letters = s.letters := rfl
@[simp] theorem State.modTeam_letterSeq (s : State) (tuid : Nat) (f : Team → Team) : (s.modTeam tuid f).letterSeq = s.letterSeq := rfl
@[simp] theorem State.modTeam_refused (s : State) (tuid : Nat) (f : Team → Team) : (s.modTeam tuid f).refused = s.refused := rfl
@[simp] theorem State.modTeam_irqs (s : State) (tuid : Nat) (f : Team → Team) : (s.modTeam tuid f).irqs = s.irqs := rfl
@[simp] theorem State.modTeam_queues (s : State) (tuid : Nat) (f : Team → Team) : (s.modTeam tuid f).queues = s.queues := rfl
@[simp] theorem State.modTeam_slotsOf (s : State) (tuid : Nat) (f : Team → Team) : (s.modTeam tuid f).slotsOf = s.slotsOf := rfl
@[simp] theorem State.modTeam_objects (s : State) (tuid : Nat) (f : Team → Team) : (s.modTeam tuid f).objects = s.objects := rfl
@[simp] theorem State.modTeam_loads (s : State) (tuid : Nat) (f : Team → Team) : (s.modTeam tuid f).loads = s.loads := rfl
@[simp] theorem State.modTeam_runs (s : State) (tuid : Nat) (f : Team → Team) : (s.modTeam tuid f).runs = s.runs := rfl
@[simp] theorem State.modTeam_collectives (s : State) (tuid : Nat) (f : Team → Team) : (s.modTeam tuid f).collectives = s.collectives := rfl
@[simp] theorem State.modTeam_completions (s : State) (tuid : Nat) (f : Team → Team) : (s.modTeam tuid f).completions = s.completions := rfl
@[simp] theorem State.modTeam_reports (s : State) (tuid : Nat) (f : Team → Team) : (s.modTeam tuid f).reports = s.reports := rfl
@[simp] theorem State.modTeam_boot (s : State) (tuid : Nat) (f : Team → Team) : (s.modTeam tuid f).boot = s.boot := rfl
@[simp] theorem State.modTeam_now (s : State) (tuid : Nat) (f : Team → Team) : (s.modTeam tuid f).now = s.now := rfl
@[simp] theorem State.modTeam_issue (s : State) (tuid : Nat) (f : Team → Team) : (s.modTeam tuid f).issue = s.issue := rfl
@[simp] theorem State.modTeam_reps (s : State) (tuid : Nat) (f : Team → Team) : (s.modTeam tuid f).reps = s.reps := rfl
@[simp] theorem State.modTeam_inputs (s : State) (tuid : Nat) (f : Team → Team) : (s.modTeam tuid f).inputs = s.inputs := rfl
@[simp] theorem State.modTeam_choices (s : State) (tuid : Nat) (f : Team → Team) : (s.modTeam tuid f).choices = s.choices := rfl
@[simp] theorem State.modTeam_frees (s : State) (tuid : Nat) (f : Team → Team) : (s.modTeam tuid f).frees = s.frees := rfl
@[simp] theorem State.modTeam_fresh (s : State) (tuid : Nat) (f : Team → Team) : (s.modTeam tuid f).fresh = s.fresh := rfl

/-! ### `modLaunch` -/

@[simp] theorem State.modLaunch_mem (s : State) (lid : Nat) (f : Launch → Launch) : (s.modLaunch lid f).mem = s.mem := rfl
@[simp] theorem State.modLaunch_sram (s : State) (lid : Nat) (f : Launch → Launch) : (s.modLaunch lid f).sram = s.sram := rfl
@[simp] theorem State.modLaunch_badWords (s : State) (lid : Nat) (f : Launch → Launch) : (s.modLaunch lid f).badWords = s.badWords := rfl
@[simp] theorem State.modLaunch_softWords (s : State) (lid : Nat) (f : Launch → Launch) : (s.modLaunch lid f).softWords = s.softWords := rfl
@[simp] theorem State.modLaunch_teamBad (s : State) (lid : Nat) (f : Launch → Launch) : (s.modLaunch lid f).teamBad = s.teamBad := rfl
@[simp] theorem State.modLaunch_teamSoft (s : State) (lid : Nat) (f : Launch → Launch) : (s.modLaunch lid f).teamSoft = s.teamSoft := rfl
@[simp] theorem State.modLaunch_groups (s : State) (lid : Nat) (f : Launch → Launch) : (s.modLaunch lid f).groups = s.groups := rfl
@[simp] theorem State.modLaunch_teams (s : State) (lid : Nat) (f : Launch → Launch) : (s.modLaunch lid f).teams = s.teams := rfl
@[simp] theorem State.modLaunch_cores (s : State) (lid : Nat) (f : Launch → Launch) : (s.modLaunch lid f).cores = s.cores := rfl
@[simp] theorem State.modLaunch_quads (s : State) (lid : Nat) (f : Launch → Launch) : (s.modLaunch lid f).quads = s.quads := rfl
@[simp] theorem State.modLaunch_dies (s : State) (lid : Nat) (f : Launch → Launch) : (s.modLaunch lid f).dies = s.dies := rfl
@[simp] theorem State.modLaunch_sems (s : State) (lid : Nat) (f : Launch → Launch) : (s.modLaunch lid f).sems = s.sems := rfl
@[simp] theorem State.modLaunch_spaces (s : State) (lid : Nat) (f : Launch → Launch) : (s.modLaunch lid f).spaces = s.spaces := rfl
@[simp] theorem State.modLaunch_frames (s : State) (lid : Nat) (f : Launch → Launch) : (s.modLaunch lid f).frames = s.frames := rfl
@[simp] theorem State.modLaunch_pinned (s : State) (lid : Nat) (f : Launch → Launch) : (s.modLaunch lid f).pinned = s.pinned := rfl
@[simp] theorem State.modLaunch_pins (s : State) (lid : Nat) (f : Launch → Launch) : (s.modLaunch lid f).pins = s.pins := rfl
@[simp] theorem State.modLaunch_shootdowns (s : State) (lid : Nat) (f : Launch → Launch) : (s.modLaunch lid f).shootdowns = s.shootdowns := rfl
@[simp] theorem State.modLaunch_nextTable (s : State) (lid : Nat) (f : Launch → Launch) : (s.modLaunch lid f).nextTable = s.nextTable := rfl
@[simp] theorem State.modLaunch_windows (s : State) (lid : Nat) (f : Launch → Launch) : (s.modLaunch lid f).windows = s.windows := rfl
@[simp] theorem State.modLaunch_tokenClock (s : State) (lid : Nat) (f : Launch → Launch) : (s.modLaunch lid f).tokenClock = s.tokenClock := rfl
@[simp] theorem State.modLaunch_ports (s : State) (lid : Nat) (f : Launch → Launch) : (s.modLaunch lid f).ports = s.ports := rfl
@[simp] theorem State.modLaunch_flitsOut (s : State) (lid : Nat) (f : Launch → Launch) : (s.modLaunch lid f).flitsOut = s.flitsOut := rfl
@[simp] theorem State.modLaunch_fabricWait (s : State) (lid : Nat) (f : Launch → Launch) : (s.modLaunch lid f).fabricWait = s.fabricWait := rfl
@[simp] theorem State.modLaunch_relayDrops (s : State) (lid : Nat) (f : Launch → Launch) : (s.modLaunch lid f).relayDrops = s.relayDrops := rfl
@[simp] theorem State.modLaunch_arrived (s : State) (lid : Nat) (f : Launch → Launch) : (s.modLaunch lid f).arrived = s.arrived := rfl
@[simp] theorem State.modLaunch_answered (s : State) (lid : Nat) (f : Launch → Launch) : (s.modLaunch lid f).answered = s.answered := rfl
@[simp] theorem State.modLaunch_resendAfter (s : State) (lid : Nat) (f : Launch → Launch) : (s.modLaunch lid f).resendAfter = s.resendAfter := rfl
@[simp] theorem State.modLaunch_pairs (s : State) (lid : Nat) (f : Launch → Launch) : (s.modLaunch lid f).pairs = s.pairs := rfl
@[simp] theorem State.modLaunch_targets (s : State) (lid : Nat) (f : Launch → Launch) : (s.modLaunch lid f).targets = s.targets := rfl
@[simp] theorem State.modLaunch_credits (s : State) (lid : Nat) (f : Launch → Launch) : (s.modLaunch lid f).credits = s.credits := rfl
@[simp] theorem State.modLaunch_detours (s : State) (lid : Nat) (f : Launch → Launch) : (s.modLaunch lid f).detours = s.detours := rfl
@[simp] theorem State.modLaunch_monitors (s : State) (lid : Nat) (f : Launch → Launch) : (s.modLaunch lid f).monitors = s.monitors := rfl
@[simp] theorem State.modLaunch_messagesOut (s : State) (lid : Nat) (f : Launch → Launch) : (s.modLaunch lid f).messagesOut = s.messagesOut := rfl
@[simp] theorem State.modLaunch_funcs (s : State) (lid : Nat) (f : Launch → Launch) : (s.modLaunch lid f).funcs = s.funcs := rfl
@[simp] theorem State.modLaunch_queuePairs (s : State) (lid : Nat) (f : Launch → Launch) : (s.modLaunch lid f).queuePairs = s.queuePairs := rfl
@[simp] theorem State.modLaunch_expansion (s : State) (lid : Nat) (f : Launch → Launch) : (s.modLaunch lid f).expansion = s.expansion := rfl
@[simp] theorem State.modLaunch_bridges (s : State) (lid : Nat) (f : Launch → Launch) : (s.modLaunch lid f).bridges = s.bridges := rfl
@[simp] theorem State.modLaunch_bridgeErrors (s : State) (lid : Nat) (f : Launch → Launch) : (s.modLaunch lid f).bridgeErrors = s.bridgeErrors := rfl
@[simp] theorem State.modLaunch_posted (s : State) (lid : Nat) (f : Launch → Launch) : (s.modLaunch lid f).posted = s.posted := rfl
@[simp] theorem State.modLaunch_answers (s : State) (lid : Nat) (f : Launch → Launch) : (s.modLaunch lid f).answers = s.answers := rfl
@[simp] theorem State.modLaunch_rings (s : State) (lid : Nat) (f : Launch → Launch) : (s.modLaunch lid f).rings = s.rings := rfl
@[simp] theorem State.modLaunch_portDrops (s : State) (lid : Nat) (f : Launch → Launch) : (s.modLaunch lid f).portDrops = s.portDrops := rfl
@[simp] theorem State.modLaunch_pauseFrames (s : State) (lid : Nat) (f : Launch → Launch) : (s.modLaunch lid f).pauseFrames = s.pauseFrames := rfl
@[simp] theorem State.modLaunch_filter (s : State) (lid : Nat) (f : Launch → Launch) : (s.modLaunch lid f).filter = s.filter := rfl
@[simp] theorem State.modLaunch_armed (s : State) (lid : Nat) (f : Launch → Launch) : (s.modLaunch lid f).armed = s.armed := rfl
@[simp] theorem State.modLaunch_heldFrame (s : State) (lid : Nat) (f : Launch → Launch) : (s.modLaunch lid f).heldFrame = s.heldFrame := rfl
@[simp] theorem State.modLaunch_running (s : State) (lid : Nat) (f : Launch → Launch) : (s.modLaunch lid f).running = s.running := rfl
@[simp] theorem State.modLaunch_letters (s : State) (lid : Nat) (f : Launch → Launch) : (s.modLaunch lid f).letters = s.letters := rfl
@[simp] theorem State.modLaunch_letterSeq (s : State) (lid : Nat) (f : Launch → Launch) : (s.modLaunch lid f).letterSeq = s.letterSeq := rfl
@[simp] theorem State.modLaunch_refused (s : State) (lid : Nat) (f : Launch → Launch) : (s.modLaunch lid f).refused = s.refused := rfl
@[simp] theorem State.modLaunch_irqs (s : State) (lid : Nat) (f : Launch → Launch) : (s.modLaunch lid f).irqs = s.irqs := rfl
@[simp] theorem State.modLaunch_queues (s : State) (lid : Nat) (f : Launch → Launch) : (s.modLaunch lid f).queues = s.queues := rfl
@[simp] theorem State.modLaunch_slotsOf (s : State) (lid : Nat) (f : Launch → Launch) : (s.modLaunch lid f).slotsOf = s.slotsOf := rfl
@[simp] theorem State.modLaunch_objects (s : State) (lid : Nat) (f : Launch → Launch) : (s.modLaunch lid f).objects = s.objects := rfl
@[simp] theorem State.modLaunch_loads (s : State) (lid : Nat) (f : Launch → Launch) : (s.modLaunch lid f).loads = s.loads := rfl
@[simp] theorem State.modLaunch_runs (s : State) (lid : Nat) (f : Launch → Launch) : (s.modLaunch lid f).runs = s.runs := rfl
@[simp] theorem State.modLaunch_collectives (s : State) (lid : Nat) (f : Launch → Launch) : (s.modLaunch lid f).collectives = s.collectives := rfl
@[simp] theorem State.modLaunch_completions (s : State) (lid : Nat) (f : Launch → Launch) : (s.modLaunch lid f).completions = s.completions := rfl
@[simp] theorem State.modLaunch_reports (s : State) (lid : Nat) (f : Launch → Launch) : (s.modLaunch lid f).reports = s.reports := rfl
@[simp] theorem State.modLaunch_boot (s : State) (lid : Nat) (f : Launch → Launch) : (s.modLaunch lid f).boot = s.boot := rfl
@[simp] theorem State.modLaunch_now (s : State) (lid : Nat) (f : Launch → Launch) : (s.modLaunch lid f).now = s.now := rfl
@[simp] theorem State.modLaunch_issue (s : State) (lid : Nat) (f : Launch → Launch) : (s.modLaunch lid f).issue = s.issue := rfl
@[simp] theorem State.modLaunch_reps (s : State) (lid : Nat) (f : Launch → Launch) : (s.modLaunch lid f).reps = s.reps := rfl
@[simp] theorem State.modLaunch_inputs (s : State) (lid : Nat) (f : Launch → Launch) : (s.modLaunch lid f).inputs = s.inputs := rfl
@[simp] theorem State.modLaunch_choices (s : State) (lid : Nat) (f : Launch → Launch) : (s.modLaunch lid f).choices = s.choices := rfl
@[simp] theorem State.modLaunch_frees (s : State) (lid : Nat) (f : Launch → Launch) : (s.modLaunch lid f).frees = s.frees := rfl
@[simp] theorem State.modLaunch_fresh (s : State) (lid : Nat) (f : Launch → Launch) : (s.modLaunch lid f).fresh = s.fresh := rfl

/-! ### `modRun` -/

@[simp] theorem State.modRun_mem (s : State) (inst : Nat) (f : Run → Run) : (s.modRun inst f).mem = s.mem := rfl
@[simp] theorem State.modRun_sram (s : State) (inst : Nat) (f : Run → Run) : (s.modRun inst f).sram = s.sram := rfl
@[simp] theorem State.modRun_badWords (s : State) (inst : Nat) (f : Run → Run) : (s.modRun inst f).badWords = s.badWords := rfl
@[simp] theorem State.modRun_softWords (s : State) (inst : Nat) (f : Run → Run) : (s.modRun inst f).softWords = s.softWords := rfl
@[simp] theorem State.modRun_teamBad (s : State) (inst : Nat) (f : Run → Run) : (s.modRun inst f).teamBad = s.teamBad := rfl
@[simp] theorem State.modRun_teamSoft (s : State) (inst : Nat) (f : Run → Run) : (s.modRun inst f).teamSoft = s.teamSoft := rfl
@[simp] theorem State.modRun_groups (s : State) (inst : Nat) (f : Run → Run) : (s.modRun inst f).groups = s.groups := rfl
@[simp] theorem State.modRun_teams (s : State) (inst : Nat) (f : Run → Run) : (s.modRun inst f).teams = s.teams := rfl
@[simp] theorem State.modRun_launches (s : State) (inst : Nat) (f : Run → Run) : (s.modRun inst f).launches = s.launches := rfl
@[simp] theorem State.modRun_cores (s : State) (inst : Nat) (f : Run → Run) : (s.modRun inst f).cores = s.cores := rfl
@[simp] theorem State.modRun_quads (s : State) (inst : Nat) (f : Run → Run) : (s.modRun inst f).quads = s.quads := rfl
@[simp] theorem State.modRun_dies (s : State) (inst : Nat) (f : Run → Run) : (s.modRun inst f).dies = s.dies := rfl
@[simp] theorem State.modRun_sems (s : State) (inst : Nat) (f : Run → Run) : (s.modRun inst f).sems = s.sems := rfl
@[simp] theorem State.modRun_spaces (s : State) (inst : Nat) (f : Run → Run) : (s.modRun inst f).spaces = s.spaces := rfl
@[simp] theorem State.modRun_frames (s : State) (inst : Nat) (f : Run → Run) : (s.modRun inst f).frames = s.frames := rfl
@[simp] theorem State.modRun_pinned (s : State) (inst : Nat) (f : Run → Run) : (s.modRun inst f).pinned = s.pinned := rfl
@[simp] theorem State.modRun_pins (s : State) (inst : Nat) (f : Run → Run) : (s.modRun inst f).pins = s.pins := rfl
@[simp] theorem State.modRun_shootdowns (s : State) (inst : Nat) (f : Run → Run) : (s.modRun inst f).shootdowns = s.shootdowns := rfl
@[simp] theorem State.modRun_nextTable (s : State) (inst : Nat) (f : Run → Run) : (s.modRun inst f).nextTable = s.nextTable := rfl
@[simp] theorem State.modRun_windows (s : State) (inst : Nat) (f : Run → Run) : (s.modRun inst f).windows = s.windows := rfl
@[simp] theorem State.modRun_tokenClock (s : State) (inst : Nat) (f : Run → Run) : (s.modRun inst f).tokenClock = s.tokenClock := rfl
@[simp] theorem State.modRun_ports (s : State) (inst : Nat) (f : Run → Run) : (s.modRun inst f).ports = s.ports := rfl
@[simp] theorem State.modRun_flitsOut (s : State) (inst : Nat) (f : Run → Run) : (s.modRun inst f).flitsOut = s.flitsOut := rfl
@[simp] theorem State.modRun_fabricWait (s : State) (inst : Nat) (f : Run → Run) : (s.modRun inst f).fabricWait = s.fabricWait := rfl
@[simp] theorem State.modRun_relayDrops (s : State) (inst : Nat) (f : Run → Run) : (s.modRun inst f).relayDrops = s.relayDrops := rfl
@[simp] theorem State.modRun_arrived (s : State) (inst : Nat) (f : Run → Run) : (s.modRun inst f).arrived = s.arrived := rfl
@[simp] theorem State.modRun_answered (s : State) (inst : Nat) (f : Run → Run) : (s.modRun inst f).answered = s.answered := rfl
@[simp] theorem State.modRun_resendAfter (s : State) (inst : Nat) (f : Run → Run) : (s.modRun inst f).resendAfter = s.resendAfter := rfl
@[simp] theorem State.modRun_pairs (s : State) (inst : Nat) (f : Run → Run) : (s.modRun inst f).pairs = s.pairs := rfl
@[simp] theorem State.modRun_targets (s : State) (inst : Nat) (f : Run → Run) : (s.modRun inst f).targets = s.targets := rfl
@[simp] theorem State.modRun_credits (s : State) (inst : Nat) (f : Run → Run) : (s.modRun inst f).credits = s.credits := rfl
@[simp] theorem State.modRun_detours (s : State) (inst : Nat) (f : Run → Run) : (s.modRun inst f).detours = s.detours := rfl
@[simp] theorem State.modRun_monitors (s : State) (inst : Nat) (f : Run → Run) : (s.modRun inst f).monitors = s.monitors := rfl
@[simp] theorem State.modRun_messagesOut (s : State) (inst : Nat) (f : Run → Run) : (s.modRun inst f).messagesOut = s.messagesOut := rfl
@[simp] theorem State.modRun_funcs (s : State) (inst : Nat) (f : Run → Run) : (s.modRun inst f).funcs = s.funcs := rfl
@[simp] theorem State.modRun_queuePairs (s : State) (inst : Nat) (f : Run → Run) : (s.modRun inst f).queuePairs = s.queuePairs := rfl
@[simp] theorem State.modRun_expansion (s : State) (inst : Nat) (f : Run → Run) : (s.modRun inst f).expansion = s.expansion := rfl
@[simp] theorem State.modRun_bridges (s : State) (inst : Nat) (f : Run → Run) : (s.modRun inst f).bridges = s.bridges := rfl
@[simp] theorem State.modRun_bridgeErrors (s : State) (inst : Nat) (f : Run → Run) : (s.modRun inst f).bridgeErrors = s.bridgeErrors := rfl
@[simp] theorem State.modRun_posted (s : State) (inst : Nat) (f : Run → Run) : (s.modRun inst f).posted = s.posted := rfl
@[simp] theorem State.modRun_answers (s : State) (inst : Nat) (f : Run → Run) : (s.modRun inst f).answers = s.answers := rfl
@[simp] theorem State.modRun_rings (s : State) (inst : Nat) (f : Run → Run) : (s.modRun inst f).rings = s.rings := rfl
@[simp] theorem State.modRun_portDrops (s : State) (inst : Nat) (f : Run → Run) : (s.modRun inst f).portDrops = s.portDrops := rfl
@[simp] theorem State.modRun_pauseFrames (s : State) (inst : Nat) (f : Run → Run) : (s.modRun inst f).pauseFrames = s.pauseFrames := rfl
@[simp] theorem State.modRun_filter (s : State) (inst : Nat) (f : Run → Run) : (s.modRun inst f).filter = s.filter := rfl
@[simp] theorem State.modRun_armed (s : State) (inst : Nat) (f : Run → Run) : (s.modRun inst f).armed = s.armed := rfl
@[simp] theorem State.modRun_heldFrame (s : State) (inst : Nat) (f : Run → Run) : (s.modRun inst f).heldFrame = s.heldFrame := rfl
@[simp] theorem State.modRun_running (s : State) (inst : Nat) (f : Run → Run) : (s.modRun inst f).running = s.running := rfl
@[simp] theorem State.modRun_letters (s : State) (inst : Nat) (f : Run → Run) : (s.modRun inst f).letters = s.letters := rfl
@[simp] theorem State.modRun_letterSeq (s : State) (inst : Nat) (f : Run → Run) : (s.modRun inst f).letterSeq = s.letterSeq := rfl
@[simp] theorem State.modRun_refused (s : State) (inst : Nat) (f : Run → Run) : (s.modRun inst f).refused = s.refused := rfl
@[simp] theorem State.modRun_irqs (s : State) (inst : Nat) (f : Run → Run) : (s.modRun inst f).irqs = s.irqs := rfl
@[simp] theorem State.modRun_queues (s : State) (inst : Nat) (f : Run → Run) : (s.modRun inst f).queues = s.queues := rfl
@[simp] theorem State.modRun_slotsOf (s : State) (inst : Nat) (f : Run → Run) : (s.modRun inst f).slotsOf = s.slotsOf := rfl
@[simp] theorem State.modRun_objects (s : State) (inst : Nat) (f : Run → Run) : (s.modRun inst f).objects = s.objects := rfl
@[simp] theorem State.modRun_loads (s : State) (inst : Nat) (f : Run → Run) : (s.modRun inst f).loads = s.loads := rfl
@[simp] theorem State.modRun_collectives (s : State) (inst : Nat) (f : Run → Run) : (s.modRun inst f).collectives = s.collectives := rfl
@[simp] theorem State.modRun_completions (s : State) (inst : Nat) (f : Run → Run) : (s.modRun inst f).completions = s.completions := rfl
@[simp] theorem State.modRun_reports (s : State) (inst : Nat) (f : Run → Run) : (s.modRun inst f).reports = s.reports := rfl
@[simp] theorem State.modRun_boot (s : State) (inst : Nat) (f : Run → Run) : (s.modRun inst f).boot = s.boot := rfl
@[simp] theorem State.modRun_now (s : State) (inst : Nat) (f : Run → Run) : (s.modRun inst f).now = s.now := rfl
@[simp] theorem State.modRun_issue (s : State) (inst : Nat) (f : Run → Run) : (s.modRun inst f).issue = s.issue := rfl
@[simp] theorem State.modRun_reps (s : State) (inst : Nat) (f : Run → Run) : (s.modRun inst f).reps = s.reps := rfl
@[simp] theorem State.modRun_inputs (s : State) (inst : Nat) (f : Run → Run) : (s.modRun inst f).inputs = s.inputs := rfl
@[simp] theorem State.modRun_choices (s : State) (inst : Nat) (f : Run → Run) : (s.modRun inst f).choices = s.choices := rfl
@[simp] theorem State.modRun_frees (s : State) (inst : Nat) (f : Run → Run) : (s.modRun inst f).frees = s.frees := rfl
@[simp] theorem State.modRun_fresh (s : State) (inst : Nat) (f : Run → Run) : (s.modRun inst f).fresh = s.fresh := rfl

/-! ### `modFunc` -/

@[simp] theorem State.modFunc_mem (s : State) (rid : Nat) (f : Func → Func) : (s.modFunc rid f).mem = s.mem := rfl
@[simp] theorem State.modFunc_sram (s : State) (rid : Nat) (f : Func → Func) : (s.modFunc rid f).sram = s.sram := rfl
@[simp] theorem State.modFunc_badWords (s : State) (rid : Nat) (f : Func → Func) : (s.modFunc rid f).badWords = s.badWords := rfl
@[simp] theorem State.modFunc_softWords (s : State) (rid : Nat) (f : Func → Func) : (s.modFunc rid f).softWords = s.softWords := rfl
@[simp] theorem State.modFunc_teamBad (s : State) (rid : Nat) (f : Func → Func) : (s.modFunc rid f).teamBad = s.teamBad := rfl
@[simp] theorem State.modFunc_teamSoft (s : State) (rid : Nat) (f : Func → Func) : (s.modFunc rid f).teamSoft = s.teamSoft := rfl
@[simp] theorem State.modFunc_groups (s : State) (rid : Nat) (f : Func → Func) : (s.modFunc rid f).groups = s.groups := rfl
@[simp] theorem State.modFunc_teams (s : State) (rid : Nat) (f : Func → Func) : (s.modFunc rid f).teams = s.teams := rfl
@[simp] theorem State.modFunc_launches (s : State) (rid : Nat) (f : Func → Func) : (s.modFunc rid f).launches = s.launches := rfl
@[simp] theorem State.modFunc_cores (s : State) (rid : Nat) (f : Func → Func) : (s.modFunc rid f).cores = s.cores := rfl
@[simp] theorem State.modFunc_quads (s : State) (rid : Nat) (f : Func → Func) : (s.modFunc rid f).quads = s.quads := rfl
@[simp] theorem State.modFunc_dies (s : State) (rid : Nat) (f : Func → Func) : (s.modFunc rid f).dies = s.dies := rfl
@[simp] theorem State.modFunc_sems (s : State) (rid : Nat) (f : Func → Func) : (s.modFunc rid f).sems = s.sems := rfl
@[simp] theorem State.modFunc_spaces (s : State) (rid : Nat) (f : Func → Func) : (s.modFunc rid f).spaces = s.spaces := rfl
@[simp] theorem State.modFunc_frames (s : State) (rid : Nat) (f : Func → Func) : (s.modFunc rid f).frames = s.frames := rfl
@[simp] theorem State.modFunc_pinned (s : State) (rid : Nat) (f : Func → Func) : (s.modFunc rid f).pinned = s.pinned := rfl
@[simp] theorem State.modFunc_pins (s : State) (rid : Nat) (f : Func → Func) : (s.modFunc rid f).pins = s.pins := rfl
@[simp] theorem State.modFunc_shootdowns (s : State) (rid : Nat) (f : Func → Func) : (s.modFunc rid f).shootdowns = s.shootdowns := rfl
@[simp] theorem State.modFunc_nextTable (s : State) (rid : Nat) (f : Func → Func) : (s.modFunc rid f).nextTable = s.nextTable := rfl
@[simp] theorem State.modFunc_windows (s : State) (rid : Nat) (f : Func → Func) : (s.modFunc rid f).windows = s.windows := rfl
@[simp] theorem State.modFunc_tokenClock (s : State) (rid : Nat) (f : Func → Func) : (s.modFunc rid f).tokenClock = s.tokenClock := rfl
@[simp] theorem State.modFunc_ports (s : State) (rid : Nat) (f : Func → Func) : (s.modFunc rid f).ports = s.ports := rfl
@[simp] theorem State.modFunc_flitsOut (s : State) (rid : Nat) (f : Func → Func) : (s.modFunc rid f).flitsOut = s.flitsOut := rfl
@[simp] theorem State.modFunc_fabricWait (s : State) (rid : Nat) (f : Func → Func) : (s.modFunc rid f).fabricWait = s.fabricWait := rfl
@[simp] theorem State.modFunc_relayDrops (s : State) (rid : Nat) (f : Func → Func) : (s.modFunc rid f).relayDrops = s.relayDrops := rfl
@[simp] theorem State.modFunc_arrived (s : State) (rid : Nat) (f : Func → Func) : (s.modFunc rid f).arrived = s.arrived := rfl
@[simp] theorem State.modFunc_answered (s : State) (rid : Nat) (f : Func → Func) : (s.modFunc rid f).answered = s.answered := rfl
@[simp] theorem State.modFunc_resendAfter (s : State) (rid : Nat) (f : Func → Func) : (s.modFunc rid f).resendAfter = s.resendAfter := rfl
@[simp] theorem State.modFunc_pairs (s : State) (rid : Nat) (f : Func → Func) : (s.modFunc rid f).pairs = s.pairs := rfl
@[simp] theorem State.modFunc_targets (s : State) (rid : Nat) (f : Func → Func) : (s.modFunc rid f).targets = s.targets := rfl
@[simp] theorem State.modFunc_credits (s : State) (rid : Nat) (f : Func → Func) : (s.modFunc rid f).credits = s.credits := rfl
@[simp] theorem State.modFunc_detours (s : State) (rid : Nat) (f : Func → Func) : (s.modFunc rid f).detours = s.detours := rfl
@[simp] theorem State.modFunc_monitors (s : State) (rid : Nat) (f : Func → Func) : (s.modFunc rid f).monitors = s.monitors := rfl
@[simp] theorem State.modFunc_messagesOut (s : State) (rid : Nat) (f : Func → Func) : (s.modFunc rid f).messagesOut = s.messagesOut := rfl
@[simp] theorem State.modFunc_queuePairs (s : State) (rid : Nat) (f : Func → Func) : (s.modFunc rid f).queuePairs = s.queuePairs := rfl
@[simp] theorem State.modFunc_expansion (s : State) (rid : Nat) (f : Func → Func) : (s.modFunc rid f).expansion = s.expansion := rfl
@[simp] theorem State.modFunc_bridges (s : State) (rid : Nat) (f : Func → Func) : (s.modFunc rid f).bridges = s.bridges := rfl
@[simp] theorem State.modFunc_bridgeErrors (s : State) (rid : Nat) (f : Func → Func) : (s.modFunc rid f).bridgeErrors = s.bridgeErrors := rfl
@[simp] theorem State.modFunc_posted (s : State) (rid : Nat) (f : Func → Func) : (s.modFunc rid f).posted = s.posted := rfl
@[simp] theorem State.modFunc_answers (s : State) (rid : Nat) (f : Func → Func) : (s.modFunc rid f).answers = s.answers := rfl
@[simp] theorem State.modFunc_rings (s : State) (rid : Nat) (f : Func → Func) : (s.modFunc rid f).rings = s.rings := rfl
@[simp] theorem State.modFunc_portDrops (s : State) (rid : Nat) (f : Func → Func) : (s.modFunc rid f).portDrops = s.portDrops := rfl
@[simp] theorem State.modFunc_pauseFrames (s : State) (rid : Nat) (f : Func → Func) : (s.modFunc rid f).pauseFrames = s.pauseFrames := rfl
@[simp] theorem State.modFunc_filter (s : State) (rid : Nat) (f : Func → Func) : (s.modFunc rid f).filter = s.filter := rfl
@[simp] theorem State.modFunc_armed (s : State) (rid : Nat) (f : Func → Func) : (s.modFunc rid f).armed = s.armed := rfl
@[simp] theorem State.modFunc_heldFrame (s : State) (rid : Nat) (f : Func → Func) : (s.modFunc rid f).heldFrame = s.heldFrame := rfl
@[simp] theorem State.modFunc_running (s : State) (rid : Nat) (f : Func → Func) : (s.modFunc rid f).running = s.running := rfl
@[simp] theorem State.modFunc_letters (s : State) (rid : Nat) (f : Func → Func) : (s.modFunc rid f).letters = s.letters := rfl
@[simp] theorem State.modFunc_letterSeq (s : State) (rid : Nat) (f : Func → Func) : (s.modFunc rid f).letterSeq = s.letterSeq := rfl
@[simp] theorem State.modFunc_refused (s : State) (rid : Nat) (f : Func → Func) : (s.modFunc rid f).refused = s.refused := rfl
@[simp] theorem State.modFunc_irqs (s : State) (rid : Nat) (f : Func → Func) : (s.modFunc rid f).irqs = s.irqs := rfl
@[simp] theorem State.modFunc_queues (s : State) (rid : Nat) (f : Func → Func) : (s.modFunc rid f).queues = s.queues := rfl
@[simp] theorem State.modFunc_slotsOf (s : State) (rid : Nat) (f : Func → Func) : (s.modFunc rid f).slotsOf = s.slotsOf := rfl
@[simp] theorem State.modFunc_objects (s : State) (rid : Nat) (f : Func → Func) : (s.modFunc rid f).objects = s.objects := rfl
@[simp] theorem State.modFunc_loads (s : State) (rid : Nat) (f : Func → Func) : (s.modFunc rid f).loads = s.loads := rfl
@[simp] theorem State.modFunc_runs (s : State) (rid : Nat) (f : Func → Func) : (s.modFunc rid f).runs = s.runs := rfl
@[simp] theorem State.modFunc_collectives (s : State) (rid : Nat) (f : Func → Func) : (s.modFunc rid f).collectives = s.collectives := rfl
@[simp] theorem State.modFunc_completions (s : State) (rid : Nat) (f : Func → Func) : (s.modFunc rid f).completions = s.completions := rfl
@[simp] theorem State.modFunc_reports (s : State) (rid : Nat) (f : Func → Func) : (s.modFunc rid f).reports = s.reports := rfl
@[simp] theorem State.modFunc_boot (s : State) (rid : Nat) (f : Func → Func) : (s.modFunc rid f).boot = s.boot := rfl
@[simp] theorem State.modFunc_now (s : State) (rid : Nat) (f : Func → Func) : (s.modFunc rid f).now = s.now := rfl
@[simp] theorem State.modFunc_issue (s : State) (rid : Nat) (f : Func → Func) : (s.modFunc rid f).issue = s.issue := rfl
@[simp] theorem State.modFunc_reps (s : State) (rid : Nat) (f : Func → Func) : (s.modFunc rid f).reps = s.reps := rfl
@[simp] theorem State.modFunc_inputs (s : State) (rid : Nat) (f : Func → Func) : (s.modFunc rid f).inputs = s.inputs := rfl
@[simp] theorem State.modFunc_choices (s : State) (rid : Nat) (f : Func → Func) : (s.modFunc rid f).choices = s.choices := rfl
@[simp] theorem State.modFunc_frees (s : State) (rid : Nat) (f : Func → Func) : (s.modFunc rid f).frees = s.frees := rfl
@[simp] theorem State.modFunc_fresh (s : State) (rid : Nat) (f : Func → Func) : (s.modFunc rid f).fresh = s.fresh := rfl

/-! ### `answer` -/

@[simp] theorem State.answer_mem (s : State) (a : Answer) : (s.answer a).mem = s.mem := rfl
@[simp] theorem State.answer_sram (s : State) (a : Answer) : (s.answer a).sram = s.sram := rfl
@[simp] theorem State.answer_badWords (s : State) (a : Answer) : (s.answer a).badWords = s.badWords := rfl
@[simp] theorem State.answer_softWords (s : State) (a : Answer) : (s.answer a).softWords = s.softWords := rfl
@[simp] theorem State.answer_teamBad (s : State) (a : Answer) : (s.answer a).teamBad = s.teamBad := rfl
@[simp] theorem State.answer_teamSoft (s : State) (a : Answer) : (s.answer a).teamSoft = s.teamSoft := rfl
@[simp] theorem State.answer_groups (s : State) (a : Answer) : (s.answer a).groups = s.groups := rfl
@[simp] theorem State.answer_teams (s : State) (a : Answer) : (s.answer a).teams = s.teams := rfl
@[simp] theorem State.answer_launches (s : State) (a : Answer) : (s.answer a).launches = s.launches := rfl
@[simp] theorem State.answer_cores (s : State) (a : Answer) : (s.answer a).cores = s.cores := rfl
@[simp] theorem State.answer_quads (s : State) (a : Answer) : (s.answer a).quads = s.quads := rfl
@[simp] theorem State.answer_dies (s : State) (a : Answer) : (s.answer a).dies = s.dies := rfl
@[simp] theorem State.answer_sems (s : State) (a : Answer) : (s.answer a).sems = s.sems := rfl
@[simp] theorem State.answer_spaces (s : State) (a : Answer) : (s.answer a).spaces = s.spaces := rfl
@[simp] theorem State.answer_frames (s : State) (a : Answer) : (s.answer a).frames = s.frames := rfl
@[simp] theorem State.answer_pinned (s : State) (a : Answer) : (s.answer a).pinned = s.pinned := rfl
@[simp] theorem State.answer_pins (s : State) (a : Answer) : (s.answer a).pins = s.pins := rfl
@[simp] theorem State.answer_shootdowns (s : State) (a : Answer) : (s.answer a).shootdowns = s.shootdowns := rfl
@[simp] theorem State.answer_nextTable (s : State) (a : Answer) : (s.answer a).nextTable = s.nextTable := rfl
@[simp] theorem State.answer_windows (s : State) (a : Answer) : (s.answer a).windows = s.windows := rfl
@[simp] theorem State.answer_tokenClock (s : State) (a : Answer) : (s.answer a).tokenClock = s.tokenClock := rfl
@[simp] theorem State.answer_ports (s : State) (a : Answer) : (s.answer a).ports = s.ports := rfl
@[simp] theorem State.answer_flitsOut (s : State) (a : Answer) : (s.answer a).flitsOut = s.flitsOut := rfl
@[simp] theorem State.answer_fabricWait (s : State) (a : Answer) : (s.answer a).fabricWait = s.fabricWait := rfl
@[simp] theorem State.answer_relayDrops (s : State) (a : Answer) : (s.answer a).relayDrops = s.relayDrops := rfl
@[simp] theorem State.answer_arrived (s : State) (a : Answer) : (s.answer a).arrived = s.arrived := rfl
@[simp] theorem State.answer_answered (s : State) (a : Answer) : (s.answer a).answered = s.answered := rfl
@[simp] theorem State.answer_resendAfter (s : State) (a : Answer) : (s.answer a).resendAfter = s.resendAfter := rfl
@[simp] theorem State.answer_pairs (s : State) (a : Answer) : (s.answer a).pairs = s.pairs := rfl
@[simp] theorem State.answer_targets (s : State) (a : Answer) : (s.answer a).targets = s.targets := rfl
@[simp] theorem State.answer_credits (s : State) (a : Answer) : (s.answer a).credits = s.credits := rfl
@[simp] theorem State.answer_detours (s : State) (a : Answer) : (s.answer a).detours = s.detours := rfl
@[simp] theorem State.answer_monitors (s : State) (a : Answer) : (s.answer a).monitors = s.monitors := rfl
@[simp] theorem State.answer_messagesOut (s : State) (a : Answer) : (s.answer a).messagesOut = s.messagesOut := rfl
@[simp] theorem State.answer_funcs (s : State) (a : Answer) : (s.answer a).funcs = s.funcs := rfl
@[simp] theorem State.answer_queuePairs (s : State) (a : Answer) : (s.answer a).queuePairs = s.queuePairs := rfl
@[simp] theorem State.answer_expansion (s : State) (a : Answer) : (s.answer a).expansion = s.expansion := rfl
@[simp] theorem State.answer_bridges (s : State) (a : Answer) : (s.answer a).bridges = s.bridges := rfl
@[simp] theorem State.answer_bridgeErrors (s : State) (a : Answer) : (s.answer a).bridgeErrors = s.bridgeErrors := rfl
@[simp] theorem State.answer_posted (s : State) (a : Answer) : (s.answer a).posted = s.posted := rfl
@[simp] theorem State.answer_rings (s : State) (a : Answer) : (s.answer a).rings = s.rings := rfl
@[simp] theorem State.answer_portDrops (s : State) (a : Answer) : (s.answer a).portDrops = s.portDrops := rfl
@[simp] theorem State.answer_pauseFrames (s : State) (a : Answer) : (s.answer a).pauseFrames = s.pauseFrames := rfl
@[simp] theorem State.answer_filter (s : State) (a : Answer) : (s.answer a).filter = s.filter := rfl
@[simp] theorem State.answer_armed (s : State) (a : Answer) : (s.answer a).armed = s.armed := rfl
@[simp] theorem State.answer_heldFrame (s : State) (a : Answer) : (s.answer a).heldFrame = s.heldFrame := rfl
@[simp] theorem State.answer_running (s : State) (a : Answer) : (s.answer a).running = s.running := rfl
@[simp] theorem State.answer_letters (s : State) (a : Answer) : (s.answer a).letters = s.letters := rfl
@[simp] theorem State.answer_letterSeq (s : State) (a : Answer) : (s.answer a).letterSeq = s.letterSeq := rfl
@[simp] theorem State.answer_refused (s : State) (a : Answer) : (s.answer a).refused = s.refused := rfl
@[simp] theorem State.answer_irqs (s : State) (a : Answer) : (s.answer a).irqs = s.irqs := rfl
@[simp] theorem State.answer_queues (s : State) (a : Answer) : (s.answer a).queues = s.queues := rfl
@[simp] theorem State.answer_slotsOf (s : State) (a : Answer) : (s.answer a).slotsOf = s.slotsOf := rfl
@[simp] theorem State.answer_objects (s : State) (a : Answer) : (s.answer a).objects = s.objects := rfl
@[simp] theorem State.answer_loads (s : State) (a : Answer) : (s.answer a).loads = s.loads := rfl
@[simp] theorem State.answer_runs (s : State) (a : Answer) : (s.answer a).runs = s.runs := rfl
@[simp] theorem State.answer_collectives (s : State) (a : Answer) : (s.answer a).collectives = s.collectives := rfl
@[simp] theorem State.answer_completions (s : State) (a : Answer) : (s.answer a).completions = s.completions := rfl
@[simp] theorem State.answer_reports (s : State) (a : Answer) : (s.answer a).reports = s.reports := rfl
@[simp] theorem State.answer_boot (s : State) (a : Answer) : (s.answer a).boot = s.boot := rfl
@[simp] theorem State.answer_now (s : State) (a : Answer) : (s.answer a).now = s.now := rfl
@[simp] theorem State.answer_issue (s : State) (a : Answer) : (s.answer a).issue = s.issue := rfl
@[simp] theorem State.answer_reps (s : State) (a : Answer) : (s.answer a).reps = s.reps := rfl
@[simp] theorem State.answer_inputs (s : State) (a : Answer) : (s.answer a).inputs = s.inputs := rfl
@[simp] theorem State.answer_choices (s : State) (a : Answer) : (s.answer a).choices = s.choices := rfl
@[simp] theorem State.answer_frees (s : State) (a : Answer) : (s.answer a).frees = s.frees := rfl
@[simp] theorem State.answer_fresh (s : State) (a : Answer) : (s.answer a).fresh = s.fresh := rfl

/-! ### `pauseFrame` -/

@[simp] theorem State.pauseFrame_mem (s : State) (p c q : Nat) : (s.pauseFrame p c q).mem = s.mem := rfl
@[simp] theorem State.pauseFrame_sram (s : State) (p c q : Nat) : (s.pauseFrame p c q).sram = s.sram := rfl
@[simp] theorem State.pauseFrame_badWords (s : State) (p c q : Nat) : (s.pauseFrame p c q).badWords = s.badWords := rfl
@[simp] theorem State.pauseFrame_softWords (s : State) (p c q : Nat) : (s.pauseFrame p c q).softWords = s.softWords := rfl
@[simp] theorem State.pauseFrame_teamBad (s : State) (p c q : Nat) : (s.pauseFrame p c q).teamBad = s.teamBad := rfl
@[simp] theorem State.pauseFrame_teamSoft (s : State) (p c q : Nat) : (s.pauseFrame p c q).teamSoft = s.teamSoft := rfl
@[simp] theorem State.pauseFrame_groups (s : State) (p c q : Nat) : (s.pauseFrame p c q).groups = s.groups := rfl
@[simp] theorem State.pauseFrame_teams (s : State) (p c q : Nat) : (s.pauseFrame p c q).teams = s.teams := rfl
@[simp] theorem State.pauseFrame_launches (s : State) (p c q : Nat) : (s.pauseFrame p c q).launches = s.launches := rfl
@[simp] theorem State.pauseFrame_cores (s : State) (p c q : Nat) : (s.pauseFrame p c q).cores = s.cores := rfl
@[simp] theorem State.pauseFrame_quads (s : State) (p c q : Nat) : (s.pauseFrame p c q).quads = s.quads := rfl
@[simp] theorem State.pauseFrame_dies (s : State) (p c q : Nat) : (s.pauseFrame p c q).dies = s.dies := rfl
@[simp] theorem State.pauseFrame_sems (s : State) (p c q : Nat) : (s.pauseFrame p c q).sems = s.sems := rfl
@[simp] theorem State.pauseFrame_spaces (s : State) (p c q : Nat) : (s.pauseFrame p c q).spaces = s.spaces := rfl
@[simp] theorem State.pauseFrame_frames (s : State) (p c q : Nat) : (s.pauseFrame p c q).frames = s.frames := rfl
@[simp] theorem State.pauseFrame_pinned (s : State) (p c q : Nat) : (s.pauseFrame p c q).pinned = s.pinned := rfl
@[simp] theorem State.pauseFrame_pins (s : State) (p c q : Nat) : (s.pauseFrame p c q).pins = s.pins := rfl
@[simp] theorem State.pauseFrame_shootdowns (s : State) (p c q : Nat) : (s.pauseFrame p c q).shootdowns = s.shootdowns := rfl
@[simp] theorem State.pauseFrame_nextTable (s : State) (p c q : Nat) : (s.pauseFrame p c q).nextTable = s.nextTable := rfl
@[simp] theorem State.pauseFrame_windows (s : State) (p c q : Nat) : (s.pauseFrame p c q).windows = s.windows := rfl
@[simp] theorem State.pauseFrame_tokenClock (s : State) (p c q : Nat) : (s.pauseFrame p c q).tokenClock = s.tokenClock := rfl
@[simp] theorem State.pauseFrame_ports (s : State) (p c q : Nat) : (s.pauseFrame p c q).ports = s.ports := rfl
@[simp] theorem State.pauseFrame_flitsOut (s : State) (p c q : Nat) : (s.pauseFrame p c q).flitsOut = s.flitsOut := rfl
@[simp] theorem State.pauseFrame_fabricWait (s : State) (p c q : Nat) : (s.pauseFrame p c q).fabricWait = s.fabricWait := rfl
@[simp] theorem State.pauseFrame_relayDrops (s : State) (p c q : Nat) : (s.pauseFrame p c q).relayDrops = s.relayDrops := rfl
@[simp] theorem State.pauseFrame_arrived (s : State) (p c q : Nat) : (s.pauseFrame p c q).arrived = s.arrived := rfl
@[simp] theorem State.pauseFrame_answered (s : State) (p c q : Nat) : (s.pauseFrame p c q).answered = s.answered := rfl
@[simp] theorem State.pauseFrame_resendAfter (s : State) (p c q : Nat) : (s.pauseFrame p c q).resendAfter = s.resendAfter := rfl
@[simp] theorem State.pauseFrame_pairs (s : State) (p c q : Nat) : (s.pauseFrame p c q).pairs = s.pairs := rfl
@[simp] theorem State.pauseFrame_targets (s : State) (p c q : Nat) : (s.pauseFrame p c q).targets = s.targets := rfl
@[simp] theorem State.pauseFrame_credits (s : State) (p c q : Nat) : (s.pauseFrame p c q).credits = s.credits := rfl
@[simp] theorem State.pauseFrame_detours (s : State) (p c q : Nat) : (s.pauseFrame p c q).detours = s.detours := rfl
@[simp] theorem State.pauseFrame_monitors (s : State) (p c q : Nat) : (s.pauseFrame p c q).monitors = s.monitors := rfl
@[simp] theorem State.pauseFrame_messagesOut (s : State) (p c q : Nat) : (s.pauseFrame p c q).messagesOut = s.messagesOut := rfl
@[simp] theorem State.pauseFrame_funcs (s : State) (p c q : Nat) : (s.pauseFrame p c q).funcs = s.funcs := rfl
@[simp] theorem State.pauseFrame_queuePairs (s : State) (p c q : Nat) : (s.pauseFrame p c q).queuePairs = s.queuePairs := rfl
@[simp] theorem State.pauseFrame_expansion (s : State) (p c q : Nat) : (s.pauseFrame p c q).expansion = s.expansion := rfl
@[simp] theorem State.pauseFrame_bridges (s : State) (p c q : Nat) : (s.pauseFrame p c q).bridges = s.bridges := rfl
@[simp] theorem State.pauseFrame_bridgeErrors (s : State) (p c q : Nat) : (s.pauseFrame p c q).bridgeErrors = s.bridgeErrors := rfl
@[simp] theorem State.pauseFrame_posted (s : State) (p c q : Nat) : (s.pauseFrame p c q).posted = s.posted := rfl
@[simp] theorem State.pauseFrame_answers (s : State) (p c q : Nat) : (s.pauseFrame p c q).answers = s.answers := rfl
@[simp] theorem State.pauseFrame_rings (s : State) (p c q : Nat) : (s.pauseFrame p c q).rings = s.rings := rfl
@[simp] theorem State.pauseFrame_portDrops (s : State) (p c q : Nat) : (s.pauseFrame p c q).portDrops = s.portDrops := rfl
@[simp] theorem State.pauseFrame_filter (s : State) (p c q : Nat) : (s.pauseFrame p c q).filter = s.filter := rfl
@[simp] theorem State.pauseFrame_armed (s : State) (p c q : Nat) : (s.pauseFrame p c q).armed = s.armed := rfl
@[simp] theorem State.pauseFrame_heldFrame (s : State) (p c q : Nat) : (s.pauseFrame p c q).heldFrame = s.heldFrame := rfl
@[simp] theorem State.pauseFrame_running (s : State) (p c q : Nat) : (s.pauseFrame p c q).running = s.running := rfl
@[simp] theorem State.pauseFrame_letters (s : State) (p c q : Nat) : (s.pauseFrame p c q).letters = s.letters := rfl
@[simp] theorem State.pauseFrame_letterSeq (s : State) (p c q : Nat) : (s.pauseFrame p c q).letterSeq = s.letterSeq := rfl
@[simp] theorem State.pauseFrame_refused (s : State) (p c q : Nat) : (s.pauseFrame p c q).refused = s.refused := rfl
@[simp] theorem State.pauseFrame_irqs (s : State) (p c q : Nat) : (s.pauseFrame p c q).irqs = s.irqs := rfl
@[simp] theorem State.pauseFrame_queues (s : State) (p c q : Nat) : (s.pauseFrame p c q).queues = s.queues := rfl
@[simp] theorem State.pauseFrame_slotsOf (s : State) (p c q : Nat) : (s.pauseFrame p c q).slotsOf = s.slotsOf := rfl
@[simp] theorem State.pauseFrame_objects (s : State) (p c q : Nat) : (s.pauseFrame p c q).objects = s.objects := rfl
@[simp] theorem State.pauseFrame_loads (s : State) (p c q : Nat) : (s.pauseFrame p c q).loads = s.loads := rfl
@[simp] theorem State.pauseFrame_runs (s : State) (p c q : Nat) : (s.pauseFrame p c q).runs = s.runs := rfl
@[simp] theorem State.pauseFrame_collectives (s : State) (p c q : Nat) : (s.pauseFrame p c q).collectives = s.collectives := rfl
@[simp] theorem State.pauseFrame_completions (s : State) (p c q : Nat) : (s.pauseFrame p c q).completions = s.completions := rfl
@[simp] theorem State.pauseFrame_reports (s : State) (p c q : Nat) : (s.pauseFrame p c q).reports = s.reports := rfl
@[simp] theorem State.pauseFrame_boot (s : State) (p c q : Nat) : (s.pauseFrame p c q).boot = s.boot := rfl
@[simp] theorem State.pauseFrame_now (s : State) (p c q : Nat) : (s.pauseFrame p c q).now = s.now := rfl
@[simp] theorem State.pauseFrame_issue (s : State) (p c q : Nat) : (s.pauseFrame p c q).issue = s.issue := rfl
@[simp] theorem State.pauseFrame_reps (s : State) (p c q : Nat) : (s.pauseFrame p c q).reps = s.reps := rfl
@[simp] theorem State.pauseFrame_inputs (s : State) (p c q : Nat) : (s.pauseFrame p c q).inputs = s.inputs := rfl
@[simp] theorem State.pauseFrame_choices (s : State) (p c q : Nat) : (s.pauseFrame p c q).choices = s.choices := rfl
@[simp] theorem State.pauseFrame_frees (s : State) (p c q : Nat) : (s.pauseFrame p c q).frees = s.frees := rfl
@[simp] theorem State.pauseFrame_fresh (s : State) (p c q : Nat) : (s.pauseFrame p c q).fresh = s.fresh := rfl

/-! ### `bump` -/

@[simp] theorem State.bump_mem (s : State) : (s.bump).mem = s.mem := rfl
@[simp] theorem State.bump_sram (s : State) : (s.bump).sram = s.sram := rfl
@[simp] theorem State.bump_badWords (s : State) : (s.bump).badWords = s.badWords := rfl
@[simp] theorem State.bump_softWords (s : State) : (s.bump).softWords = s.softWords := rfl
@[simp] theorem State.bump_teamBad (s : State) : (s.bump).teamBad = s.teamBad := rfl
@[simp] theorem State.bump_teamSoft (s : State) : (s.bump).teamSoft = s.teamSoft := rfl
@[simp] theorem State.bump_groups (s : State) : (s.bump).groups = s.groups := rfl
@[simp] theorem State.bump_teams (s : State) : (s.bump).teams = s.teams := rfl
@[simp] theorem State.bump_launches (s : State) : (s.bump).launches = s.launches := rfl
@[simp] theorem State.bump_cores (s : State) : (s.bump).cores = s.cores := rfl
@[simp] theorem State.bump_quads (s : State) : (s.bump).quads = s.quads := rfl
@[simp] theorem State.bump_dies (s : State) : (s.bump).dies = s.dies := rfl
@[simp] theorem State.bump_sems (s : State) : (s.bump).sems = s.sems := rfl
@[simp] theorem State.bump_spaces (s : State) : (s.bump).spaces = s.spaces := rfl
@[simp] theorem State.bump_frames (s : State) : (s.bump).frames = s.frames := rfl
@[simp] theorem State.bump_pinned (s : State) : (s.bump).pinned = s.pinned := rfl
@[simp] theorem State.bump_pins (s : State) : (s.bump).pins = s.pins := rfl
@[simp] theorem State.bump_shootdowns (s : State) : (s.bump).shootdowns = s.shootdowns := rfl
@[simp] theorem State.bump_nextTable (s : State) : (s.bump).nextTable = s.nextTable := rfl
@[simp] theorem State.bump_windows (s : State) : (s.bump).windows = s.windows := rfl
@[simp] theorem State.bump_tokenClock (s : State) : (s.bump).tokenClock = s.tokenClock := rfl
@[simp] theorem State.bump_ports (s : State) : (s.bump).ports = s.ports := rfl
@[simp] theorem State.bump_flitsOut (s : State) : (s.bump).flitsOut = s.flitsOut := rfl
@[simp] theorem State.bump_fabricWait (s : State) : (s.bump).fabricWait = s.fabricWait := rfl
@[simp] theorem State.bump_relayDrops (s : State) : (s.bump).relayDrops = s.relayDrops := rfl
@[simp] theorem State.bump_arrived (s : State) : (s.bump).arrived = s.arrived := rfl
@[simp] theorem State.bump_answered (s : State) : (s.bump).answered = s.answered := rfl
@[simp] theorem State.bump_resendAfter (s : State) : (s.bump).resendAfter = s.resendAfter := rfl
@[simp] theorem State.bump_pairs (s : State) : (s.bump).pairs = s.pairs := rfl
@[simp] theorem State.bump_targets (s : State) : (s.bump).targets = s.targets := rfl
@[simp] theorem State.bump_credits (s : State) : (s.bump).credits = s.credits := rfl
@[simp] theorem State.bump_detours (s : State) : (s.bump).detours = s.detours := rfl
@[simp] theorem State.bump_monitors (s : State) : (s.bump).monitors = s.monitors := rfl
@[simp] theorem State.bump_messagesOut (s : State) : (s.bump).messagesOut = s.messagesOut := rfl
@[simp] theorem State.bump_funcs (s : State) : (s.bump).funcs = s.funcs := rfl
@[simp] theorem State.bump_queuePairs (s : State) : (s.bump).queuePairs = s.queuePairs := rfl
@[simp] theorem State.bump_expansion (s : State) : (s.bump).expansion = s.expansion := rfl
@[simp] theorem State.bump_bridges (s : State) : (s.bump).bridges = s.bridges := rfl
@[simp] theorem State.bump_bridgeErrors (s : State) : (s.bump).bridgeErrors = s.bridgeErrors := rfl
@[simp] theorem State.bump_posted (s : State) : (s.bump).posted = s.posted := rfl
@[simp] theorem State.bump_answers (s : State) : (s.bump).answers = s.answers := rfl
@[simp] theorem State.bump_rings (s : State) : (s.bump).rings = s.rings := rfl
@[simp] theorem State.bump_portDrops (s : State) : (s.bump).portDrops = s.portDrops := rfl
@[simp] theorem State.bump_pauseFrames (s : State) : (s.bump).pauseFrames = s.pauseFrames := rfl
@[simp] theorem State.bump_filter (s : State) : (s.bump).filter = s.filter := rfl
@[simp] theorem State.bump_armed (s : State) : (s.bump).armed = s.armed := rfl
@[simp] theorem State.bump_heldFrame (s : State) : (s.bump).heldFrame = s.heldFrame := rfl
@[simp] theorem State.bump_running (s : State) : (s.bump).running = s.running := rfl
@[simp] theorem State.bump_letters (s : State) : (s.bump).letters = s.letters := rfl
@[simp] theorem State.bump_letterSeq (s : State) : (s.bump).letterSeq = s.letterSeq := rfl
@[simp] theorem State.bump_refused (s : State) : (s.bump).refused = s.refused := rfl
@[simp] theorem State.bump_irqs (s : State) : (s.bump).irqs = s.irqs := rfl
@[simp] theorem State.bump_queues (s : State) : (s.bump).queues = s.queues := rfl
@[simp] theorem State.bump_slotsOf (s : State) : (s.bump).slotsOf = s.slotsOf := rfl
@[simp] theorem State.bump_objects (s : State) : (s.bump).objects = s.objects := rfl
@[simp] theorem State.bump_loads (s : State) : (s.bump).loads = s.loads := rfl
@[simp] theorem State.bump_runs (s : State) : (s.bump).runs = s.runs := rfl
@[simp] theorem State.bump_collectives (s : State) : (s.bump).collectives = s.collectives := rfl
@[simp] theorem State.bump_completions (s : State) : (s.bump).completions = s.completions := rfl
@[simp] theorem State.bump_reports (s : State) : (s.bump).reports = s.reports := rfl
@[simp] theorem State.bump_boot (s : State) : (s.bump).boot = s.boot := rfl
@[simp] theorem State.bump_now (s : State) : (s.bump).now = s.now := rfl
@[simp] theorem State.bump_issue (s : State) : (s.bump).issue = s.issue := rfl
@[simp] theorem State.bump_reps (s : State) : (s.bump).reps = s.reps := rfl
@[simp] theorem State.bump_inputs (s : State) : (s.bump).inputs = s.inputs := rfl
@[simp] theorem State.bump_choices (s : State) : (s.bump).choices = s.choices := rfl
@[simp] theorem State.bump_frees (s : State) : (s.bump).frees = s.frees := rfl

/-! ### `Group.modThread` and `Thread.setReg` -/

@[simp] theorem Group.modThread_gid (g : Group) (i : Nat) (h : Thread → Thread) : (g.modThread i h).gid = g.gid := rfl
@[simp] theorem Group.modThread_tuid (g : Group) (i : Nat) (h : Thread → Thread) : (g.modThread i h).tuid = g.tuid := rfl
@[simp] theorem Group.modThread_lid (g : Group) (i : Nat) (h : Thread → Thread) : (g.modThread i h).lid = g.lid := rfl
@[simp] theorem Group.modThread_asid (g : Group) (i : Nat) (h : Thread → Thread) : (g.modThread i h).asid = g.asid := rfl
@[simp] theorem Group.modThread_number (g : Group) (i : Nat) (h : Thread → Thread) : (g.modThread i h).number = g.number := rfl
@[simp] theorem Group.modThread_team (g : Group) (i : Nat) (h : Thread → Thread) : (g.modThread i h).team = g.team := rfl
@[simp] theorem Group.modThread_width (g : Group) (i : Nat) (h : Thread → Thread) : (g.modThread i h).width = g.width := rfl
@[simp] theorem Group.modThread_base (g : Group) (i : Nat) (h : Thread → Thread) : (g.modThread i h).base = g.base := rfl
@[simp] theorem Group.modThread_ctx (g : Group) (i : Nat) (h : Thread → Thread) : (g.modThread i h).ctx = g.ctx := rfl
@[simp] theorem Group.modThread_regBase (g : Group) (i : Nat) (h : Thread → Thread) : (g.modThread i h).regBase = g.regBase := rfl
@[simp] theorem Group.modThread_nregs (g : Group) (i : Nat) (h : Thread → Thread) : (g.modThread i h).nregs = g.nregs := rfl
@[simp] theorem Group.modThread_die (g : Group) (i : Nat) (h : Thread → Thread) : (g.modThread i h).die = g.die := rfl
@[simp] theorem Group.modThread_core (g : Group) (i : Nat) (h : Thread → Thread) : (g.modThread i h).core = g.core := rfl
@[simp] theorem Group.modThread_s (g : Group) (i : Nat) (h : Thread → Thread) : (g.modThread i h).s = g.s := rfl
@[simp] theorem Group.modThread_g (g : Group) (i : Nat) (h : Thread → Thread) : (g.modThread i h).g = g.g := rfl
@[simp] theorem Group.modThread_window (g : Group) (i : Nat) (h : Thread → Thread) : (g.modThread i h).window = g.window := rfl
@[simp] theorem Group.modThread_trapbase (g : Group) (i : Nat) (h : Thread → Thread) : (g.modThread i h).trapbase = g.trapbase := rfl
@[simp] theorem Group.modThread_trapcause (g : Group) (i : Nat) (h : Thread → Thread) : (g.modThread i h).trapcause = g.trapcause := rfl
@[simp] theorem Group.modThread_trapepc (g : Group) (i : Nat) (h : Thread → Thread) : (g.modThread i h).trapepc = g.trapepc := rfl
@[simp] theorem Group.modThread_epcWritten (g : Group) (i : Nat) (h : Thread → Thread) : (g.modThread i h).epcWritten = g.epcWritten := rfl
@[simp] theorem Group.modThread_trapinfo (g : Group) (i : Nat) (h : Thread → Thread) : (g.modThread i h).trapinfo = g.trapinfo := rfl
@[simp] theorem Group.modThread_trapmask (g : Group) (i : Nat) (h : Thread → Thread) : (g.modThread i h).trapmask = g.trapmask := rfl
@[simp] theorem Group.modThread_handler (g : Group) (i : Nat) (h : Thread → Thread) : (g.modThread i h).handler = g.handler := rfl
@[simp] theorem Group.modThread_attached (g : Group) (i : Nat) (h : Thread → Thread) : (g.modThread i h).attached = g.attached := rfl
@[simp] theorem Group.modThread_halting (g : Group) (i : Nat) (h : Thread → Thread) : (g.modThread i h).halting = g.halting := rfl
@[simp] theorem Group.modThread_halted (g : Group) (i : Nat) (h : Thread → Thread) : (g.modThread i h).halted = g.halted := rfl
@[simp] theorem Group.modThread_stepping (g : Group) (i : Nat) (h : Thread → Thread) : (g.modThread i h).stepping = g.stepping := rfl
@[simp] theorem Group.modThread_haltRecord (g : Group) (i : Nat) (h : Thread → Thread) : (g.modThread i h).haltRecord = g.haltRecord := rfl
@[simp] theorem Group.modThread_heldTraps (g : Group) (i : Nat) (h : Thread → Thread) : (g.modThread i h).heldTraps = g.heldTraps := rfl
@[simp] theorem Group.modThread_entering (g : Group) (i : Nat) (h : Thread → Thread) : (g.modThread i h).entering = g.entering := rfl
@[simp] theorem Group.modThread_entryId (g : Group) (i : Nat) (h : Thread → Thread) : (g.modThread i h).entryId = g.entryId := rfl
@[simp] theorem Group.modThread_pages (g : Group) (i : Nat) (h : Thread → Thread) : (g.modThread i h).pages = g.pages := rfl
@[simp] theorem Group.modThread_isHandler (g : Group) (i : Nat) (h : Thread → Thread) : (g.modThread i h).isHandler = g.isHandler := rfl
@[simp] theorem Group.modThread_retired (g : Group) (i : Nat) (h : Thread → Thread) : (g.modThread i h).retired = g.retired := rfl
@[simp] theorem Thread.setReg_lane (t : Thread) (n : Nat) (w : Word) : (t.setReg n w).lane = t.lane := rfl
@[simp] theorem Thread.setReg_pc (t : Thread) (n : Nat) (w : Word) : (t.setReg n w).pc = t.pc := rfl
@[simp] theorem Thread.setReg_p (t : Thread) (n : Nat) (w : Word) : (t.setReg n w).p = t.p := rfl
@[simp] theorem Thread.setReg_b (t : Thread) (n : Nat) (w : Word) : (t.setReg n w).b = t.b := rfl
@[simp] theorem Thread.setReg_ret (t : Thread) (n : Nat) (w : Word) : (t.setReg n w).ret = t.ret := rfl
@[simp] theorem Thread.setReg_repctr (t : Thread) (n : Nat) (w : Word) : (t.setReg n w).repctr = t.repctr := rfl
@[simp] theorem Thread.setReg_lfsr (t : Thread) (n : Nat) (w : Word) : (t.setReg n w).lfsr = t.lfsr := rfl
@[simp] theorem Thread.setReg_ops (t : Thread) (n : Nat) (w : Word) : (t.setReg n w).ops = t.ops := rfl
@[simp] theorem Thread.setReg_seq (t : Thread) (n : Nat) (w : Word) : (t.setReg n w).seq = t.seq := rfl
@[simp] theorem Thread.setReg_unacked (t : Thread) (n : Nat) (w : Word) : (t.setReg n w).unacked = t.unacked := rfl
@[simp] theorem Thread.setReg_holds (t : Thread) (n : Nat) (w : Word) : (t.setReg n w).holds = t.holds := rfl
@[simp] theorem Thread.setReg_tag (t : Thread) (n : Nat) (w : Word) : (t.setReg n w).tag = t.tag := rfl
@[simp] theorem Thread.setReg_spinAdr (t : Thread) (n : Nat) (w : Word) : (t.setReg n w).spinAdr = t.spinAdr := rfl
@[simp] theorem Thread.setReg_spin (t : Thread) (n : Nat) (w : Word) : (t.setReg n w).spin = t.spin := rfl
@[simp] theorem Thread.setReg_forced (t : Thread) (n : Nat) (w : Word) : (t.setReg n w).forced = t.forced := rfl
@[simp] theorem Thread.setReg_stamp (t : Thread) (n : Nat) (w : Word) : (t.setReg n w).stamp = t.stamp := rfl
@[simp] theorem Thread.setReg_lastIssue (t : Thread) (n : Nat) (w : Word) : (t.setReg n w).lastIssue = t.lastIssue := rfl
@[simp] theorem Thread.setReg_yieldUntil (t : Thread) (n : Nat) (w : Word) : (t.setReg n w).yieldUntil = t.yieldUntil := rfl
@[simp] theorem Thread.setReg_monitor (t : Thread) (n : Nat) (w : Word) : (t.setReg n w).monitor = t.monitor := rfl
@[simp] theorem Thread.setReg_status (t : Thread) (n : Nat) (w : Word) : (t.setReg n w).status = t.status := rfl
@[simp] theorem Thread.setReg_pendV (t : Thread) (n : Nat) (w : Word) : (t.setReg n w).pendV = t.pendV := rfl
@[simp] theorem Thread.setReg_pendT (t : Thread) (n : Nat) (w : Word) : (t.setReg n w).pendT = t.pendT := rfl
@[simp] theorem Thread.setReg_inv (t : Thread) (n : Nat) (w : Word) : (t.setReg n w).inv = t.inv := rfl
@[simp] theorem Thread.setReg_valued (t : Thread) (n : Nat) (w : Word) : (t.setReg n w).valued = t.valued := rfl
@[simp] theorem Thread.setReg_region (t : Thread) (n : Nat) (w : Word) : (t.setReg n w).region = t.region := rfl
@[simp] theorem Thread.setReg_stack (t : Thread) (n : Nat) (w : Word) : (t.setReg n w).stack = t.stack := rfl
@[simp] theorem Thread.setReg_inHandler (t : Thread) (n : Nat) (w : Word) : (t.setReg n w).inHandler = t.inHandler := rfl
@[simp] theorem Thread.setReg_held (t : Thread) (n : Nat) (w : Word) : (t.setReg n w).held = t.held := rfl
@[simp] theorem Thread.setReg_freed (t : Thread) (n : Nat) (w : Word) : (t.setReg n w).freed = t.freed := rfl

end Sys2Proof.Machine
end

