-- ==== Sys2Proof/Tests/Slice0.lean ====
section
/-!
SUPPORT. Tests of the model: words of the spec and what they decode to, a word for every row, ill-formed terms that are refused, a few
results, and for every clause of every statement with hypotheses a state and operands that meet them together (test_meets_<statement>_<clause>).
-/

namespace Sys2Proof.Tests

open Sys2Proof.Machine Sys2Proof.Safety Sys2Proof.Claims

set_option Elab.async false

/-! ### Small states -/

/-- The machine of `State.withFetchWord`, with its 8 threads (of group 1, on core 0 of die 0) a trick whose unit is being atUnit. -/
def atUnit (s : State) : State := { s with issue := ⟨0, 0, 0, 0, 8, {}, 0, 7, [(1, [0, 1, 2, 3, 4, 5, 6, 7])], none⟩ }
def base : State := atUnit (State.reset.withFetchWord 64 0)
def withKernel (h : Kernel → Kernel) (s : State) : State := { s with launches := s.launches.map fun l => { l with kernel := h l.kernel } }
def withGroup (h : Group → Group) (s : State) : State := { s with groups := s.groups.map h }
def withThreads (h : Nat → Thread → Thread) (s : State) : State := withGroup (fun g => { g with threads := g.threads.mapIdx h }) s
/-- The context of a trick of one group. -/
def theCtx (s : State) (f : Fields) : Ctx := (oneGroup s f).getD ⟨s, fetchLaunch 0 0, Group.start 1 1 0 0 0 8 128 0 0 0 0 false 0 [] 0 0 0 2, [], f⟩
theorem theCtx_eq {s : State} {f : Fields} (h : (oneGroup s f).isSome = true) : oneGroup s f = some (theCtx s f) := by
  cases e : oneGroup s f with
  | none => simp [e] at h
  | some c => simp [theCtx, e]
/-- A long form of vector operands v2 := v3, v4, v5; of scalar operands; of a literal. -/
def vForm : LongF := ⟨2, .vec, ⟨.vec, 3⟩, ⟨.vec, 4⟩, ⟨.vec, 5⟩, 0, false, 0, .i32, 0⟩
def sForm : LongF := ⟨2, .scal, ⟨.scal, 3⟩, ⟨.scal, 4⟩, ⟨.scal, 5⟩, 0, false, 0, .i64, 0⟩
def fForm : LongF := { vForm with ty := .f32 }
def cvtForm : LongF := { vForm with ty := .i32, x := 19 }
def bForm : LongF := { vForm with ty := .b32 }
def packForm : LongF := { vForm with ty := .i8 }
def litForm (n : BitVec 7) : LongF := { sForm with b := ⟨.lit, n⟩ }
def pForm : LongF := { vForm with kd := .pred, a := ⟨.vec, 1⟩, b := ⟨.vec, 2⟩ }
def voteForm : LongF := { sForm with a := ⟨.vec, 1⟩ }
def csrForm (a b : BitVec 7) : LongF := { sForm with a := ⟨.scal, a⟩, b := ⟨.scal, b⟩ }
/-- A format slot 0 of E4M3 in blocks of 16, tensor scale 1. -/
def slotted : State := withKernel (fun k => { k with slots := 0x1843F800000 :: List.replicate 7 0 }) base
def V (n : BitVec 7) : Opnd := ⟨.vec, n⟩
def S (n : BitVec 7) : Opnd := ⟨.scal, n⟩
def L (n : BitVec 7) : Opnd := ⟨.lit, n⟩
/-- A long form without a type, with predicate p0. -/
def form (d : BitVec 7) (a b c : Opnd) (v : BitVec 3 := 0) (ty : Ty := .i32) (x : BitVec 7 := 0) : LongF :=
  ⟨d, .vec, a, b, c, 0, false, v, ty, x⟩
/-- A literal in B, and nothing else. -/
def litB (n : BitVec 7) (d : BitVec 7 := 0) : LongF := form d (V 0) (L n) (V 0)
def bare : LongF := form 0 (V 0) (V 0) (V 0)
/-- Each thread of the group with a value in v3 and a return stack. -/
def holding (v3 : Nat) (ret : List Word) (s : State) : State :=
  withThreads (fun _ t => { t with v := t.v.set 3 (BitVec.ofNat 32 v3), ret := ret }) s
/-- Only thread 3 is in the trick. -/
def onlyThree (s : State) : State := { s with issue := { s.issue with trick := [(1, [3])] } }
/-- A landing pad at offset 8, which every thread's v3 holds. -/
def padded : State := { holding 8 [8] base with mem := wrBytes base.mem (fetchBase + 8) (leBytes 4 460) }
def jumpTwo : JumpF := ⟨2, V 0, 0, false, 0⟩
/-- Forms of `bquant` into the format of slot 0 from f32, and of `bdequant` back. -/
def bqForm : LongF := { vForm with ty := .fmt0, x := 19 }
def bdForm : LongF := { vForm with ty := .f32, x := 24 }
def deep : State := onlyThree (holding 8 (List.replicate 256 0) padded)
def watched : State := withGroup (fun g => { g with attached := true }) base
/-- A far branch whose exact target lies 2^32 beyond its unit. -/
def awayForm : LimmF := ⟨0, 0, V 0, 0x40000000⟩
/-- Threads with `n` return addresses, those above 16 on their stack page, which is present. -/
def stacked (n : Nat) : State := onlyThree (withGroup (fun g => { g with pages := [(0, 0)] }) (holding 8 (List.replicate n 8) padded))
/-- Two zero-point commands of group 1 that wait for guard 3, one for each value of it, and a copy start of each. -/
def guardedCmd (cid : Nat) (v : Bool) : MatCmd := ⟨cid, 1, 7, .zpc 0 0 5, [], [64], some ⟨3, v⟩, 0, 3, 0, none⟩
def guardedCopy (cid : Nat) (v : Bool) : Copy :=
  ⟨cid, 0, 1, 1, 0, 0, 0, 0, some ⟨3, v⟩, 1, some 1, [], false, .queued, 0, 4, [], none, [], 0⟩
def heldBack : State := { base with
  dies := tset base.dies 0 { Die.reset with channels := [(5, { Channel.reset with queue := [guardedCopy 7 true, guardedCopy 8 false] })] }
  quads := [(0, { Quad.reset with cmds := [guardedCmd 7 true, guardedCmd 8 false] })] }
/-- A scratchpad page at 0x1000_0000 (s4) and a page of module 1 at 0x2000_0000 (s6); the first stack page is present. -/
def mapped : State :=
  withGroup (fun g => { g with pages := [0], s := (g.s.set 4 0x10000000).set 6 0x20000000 })
    ((padded.tableChange 1 (.entry 3 0x10000000 0x000F)).tableChange 1 (.entry 3 0x20000000 0x100000000000006F))
def noReq : MemReq := ⟨0, 0, 0, .arm, 0, 0, none, 0, none, false, false, false⟩
/-- The request that thread 3 makes. -/
def req3 (o : Op) (s : State) (f : LongF) : MemReq := ((request o (theCtx s f.fields) 3).getD (noReq, .stack)).1
def team1 (s : State) : Team := (s.team? 1).getD (Team.start 1 0 0 0 false 256 [] false)
def ldStack : LongF := form 2 (V 3) (L 0) (V 0) 0 .b32
def ldScr : LongF := form 2 (S 4) (L 0) (V 0) 2 .b32
def ldTeam : LongF := form 2 (V 3) (L 0) (V 0) 1 .b32
def ldPeer : LongF := form 2 (S 6) (L 0) (V 0) 3 .b32
def atomTeam : LongF := form 2 (V 3) (V 4) (V 0) 0 .i32 0
def armScr : LongF := form 0 (S 4) (L 8) (V 0) 2
def popForm : LongF := form 2 (V 0) (L 1) (V 0) 0 .b32
def pushForm : LongF := form 1 (V 3) (V 0) (V 0) 0 .b32
def chuted : State := { base with cores := tset base.cores 0 { Core.reset with chutes := [[], [List.replicate 64 7], [], []] } }
def fieldsOf (i : Instr) : Fields :=
  match i.core with
  | some x => x.2.2
  | none => vForm.fields
def slotI : Slot := { Slot.reset with rows := List.replicate 64 (List.replicate 64 1), fmt := 3, nrows := 64, filled := true, holder := some 1 }
def tileI : Tile := { Tile.reset with n := 16, mode := 1, holder := some 1 }
/-- Quad 0 holds, for group 1, integer rows in slots 0 and 1, complex ones in slot 2, and tile 0 of 16 columns; `l` are its commands. -/
def engine (l : List MatCmd) (s : State) : State :=
  s.setQuad 0 ⟨[(0, slotI), (1, slotI), (2, { slotI with fmt := 7 })], [(0, tileI)], l⟩
def quadded : State := engine [] (withGroup (fun g => { g with s := g.s.set 8 64 }) slotted)
def claimO : ShortF := ⟨1, 5, V 0⟩
def claimA : ShortF := ⟨1, 2, L 16⟩
def handle0 : ShortF := ⟨0, 0, V 0⟩
def clear0 : ShortF := ⟨0, 0, L 0x7F⟩
def stat0 : ShortF := ⟨9, 0, L 0⟩
def allHandles : ShortF := ⟨0, 0x7F, V 0⟩
def pass01 : LongF := form 0 (V 0) (V 1) (V 0)
def pass22 : LongF := form 0 (V 2) (V 2) (V 0)
def zp0 : LongF := form 0 (V 0) (L 0) (V 0)
def oload0 : LongF := form 0 (L 0) (S 8) (L 2) 0 .fmt0
def aload0 : LongF := form 0 (L 0) (V 0) (V 0)
def aread0 : LongF := form 2 (V 0) (L 3) (V 0) 0 .b32
def adrain0 : LongF := form 8 (V 0) (V 0) (V 0) 0 .i32
def awrite0 : LongF := form 0 (V 3) (L 3) (V 0) 0 .b32
def okList {α : Type} (x : Except MatStop (List α)) : List α :=
  match x with
  | .ok l => l
  | .error _ => []
def rows0 : List (List Byte) := let c := theCtx quadded oload0.fields; okList (c.fetch quadded c.exec 1 (oloadPieces c))
def ads0 : List (Nat × Dword) := let c := theCtx quadded aload0.fields; c.exec.map fun t => (t, got (c.intB 2 t))
def adRows : List (Nat × List Cell) := let c := theCtx quadded aload0.fields
  okList (rowsOf (ads0.map fun e => (e.1, c.aloadRow quadded e.2 16 e.1)))
/-- A command of threads 0 and 1 of group 1 in quad 0. -/
def cmd (op : MatOp) (handles : List Nat) (granted : Option Nat) : MatCmd := ⟨7, 1, 7, op, [0, 1], handles, none, 0, 3, 0, granted⟩
def working (op : MatOp) (handles : List Nat) (granted : Option Nat) : State := engine [cmd op handles granted] base
def passOp : MatOp := .pass (.int false) 0 0 1
def loadOp : MatOp := .oload 0 [List.replicate 64 2] [] 0 3 0 0
def readOp : MatOp := .aread 0 .lo [(0, 3), (1, 3)] 2
def spec0 : DrainSpec := ⟨.i32, 0, 0, 0, false, false, [], 0, 0, [], [], 16⟩
def drainOp : MatOp := .drain 0 8 spec0
def semForm : LongF := form 2 (L 3) (L 2) (V 0)
def semRead : LongF := form 2 (L 3) (V 0) (V 0)
/-- Pigeonhole 0 of the launch is open to any team, with room for 8 items; `l` are its items. -/
def pigeon (l : List Dword) : State :=
  let s := onlyThree base
  { s with launches := s.launches.map fun x => { x with holes := [⟨true, 0xFFFFFFFF, 3, l⟩] } }
def postForm : LongF := form 0 (L 0) (L 7) (V 0)
def collectForm : LongF := form 2 (L 0) (V 0) (V 3)
def collecting : State := withThreads (fun i t => if i = 3 then { t with status := .blocked (.collect 0 2 3 7) 8 } else t) (pigeon [7, 9])
def launchOf (s : State) : Launch := (s.launch? 0).getD (fetchLaunch 0 0)
def groupOf (s : State) : Group := (s.group? 1).getD (Group.start 1 1 0 0 0 8 128 0 0 0 0 false 0 [] 0 0 0 2)
def thread3 (s : State) : Thread := (s.thread? 1 3).getD deadThread
def sendForm : LongF := form 0 (L 0) (V 3) (L 2)
/-- A reduction's descriptor: participant 0, one element of i32, semaphore 0, increment 1. -/
def descriptor : List Byte := [1, 0, 0, 0, 1, 0, 0, 0, 0, 0, 0, 0, 1] ++ List.replicate 21 0 ++ [1] ++ List.replicate 29 0
def described : State := { mapped with mem := wrBytes mapped.mem 0 descriptor }
def collForm : LongF := form 0 (S 4) (V 0) (V 0)
def okMsg (t : Nat) : Nat × Msg :=
  match (theCtx (onlyThree base) sendForm.fields).message t with
  | .ok x => x
  | .error _ => (0, ⟨0, 0, 0, 0, 0, 0, 0, 0, []⟩)
def invP : InvP := ⟨false, 0, 0, 31, 0, true⟩
def farForm : LimmF := ⟨5, 3, V 4, 2⟩
/-- Thread 3 alone at a unit under INV whose routine stands at offset 8. -/
def bisecting : State :=
  let s := withKernel (fun k => { k with routines := [(8, 12, 5)] }) (onlyThree padded)
  { s with issue := { s.issue with pfx := { s.issue.pfx with inv := some invP } } }
def evalEntry : InvEval := ⟨7, 0, 0, 8, invP, 5, 3, .vec 4, 8, 0, 0, 0, 0, 0, 0, .endLo, 0, false⟩
def started7 : Thread := ((thread3 bisecting).invBegin evalEntry 0).1
def evaluating : State := withThreads (fun i _ => if i = 3 then started7 else deadThread) (onlyThree padded)
def evalDone : InvEval := { evalEntry with hi := 8, arg0 := 8, done := true }
def doneState : State := withThreads (fun i t => if i = 3 then { t with inv := some evalDone } else t) (onlyThree padded)
def returned : Thread := ((thread3 doneState).invReturn evalDone false).1
/-- Both ends of [0, 0] evaluated: the bisection ends. -/
def evalLast : InvEval := { evalDone with hi := 0, arg0 := 0, phase := .endHi }
def lastState : State := withThreads (fun i t => if i = 3 then { t with inv := some evalLast } else t) (onlyThree padded)
def finished : Thread := ((thread3 lastState).invReturn evalLast false).1
/-- A group whose handler stands at offset 8, the pages of its stacks present. -/
def guarded (v3 : Nat) : State := withGroup (fun g => { g with pages := [(0, 0)], trapbase := 8 }) (onlyThree { holding v3 [8] padded with issue := base.issue })
def rangeForm : LongF := form 127 (V 2) (V 4) (V 0) 0 .i64
def errOf {α : Type} (x : Except TrapInfo α) : TrapInfo :=
  match x with
  | .ok _ => { cause := 0, info := 0 }
  | .error e => e
def shapeOf (o : Op) (f : Fields) : Shape := (shape o f).getD (sh0 true)
def trapOf3 : GroupTrap := ⟨2, 5, [⟨3, 0, { cause := 2, info := 5 }⟩]⟩
def handling : State := withGroup (fun g => { g with handler := true }) (guarded 8)
def returning : State :=
  withThreads (fun i t => if i = 3 then { t with status := .blocked .tret 8 } else t) (withGroup (fun g => { g with trapmask := 8 }) handling)
def repP : RepP := ⟨3, 0, 0, 0, 0⟩
def repeating (n : Nat) : State :=
  { base with issue := { base.issue with rep := n, pfx := { base.issue.pfx with rep := some repP } } }
def mod3 (h : Thread → Thread) (s : State) : State := withThreads (fun i t => if i = 3 then h t else t) s
/-- An access of thread 3 at byte 8 of die 0's scratchpad. -/
def access8 (op : AccOp) : Access := ⟨0, 7, .phys 8, 0x10000008, 4, op, [], none, none, false, none, false, false⟩
def storeOp : AccOp := .store [1, 2, 3, 4]
def loadReg2 : AccOp := .load 2 .b32
def accessing (op : AccOp) : State := mod3 (fun t => { t with ops := [access8 op], seq := 1 }) mapped
def joining : State := withThreads (fun _ t => { t with status := .join 0 0xFF 8 }) base
def spinning : State := mod3 (fun t => { t with spin := 8 }) base
def yielding : State := mod3 (fun t => { t with yieldUntil := some 32 }) base
def bell : Doorbell := ⟨8, 0, 0x5000, 5, true⟩
def belled : State := { accessing storeOp with dies := tset base.dies 0 { Die.reset with proxy := [bell] } }
def itemAcc : Access := ⟨0, 7, .hole 0 0, 0, 1, .item 9, [], none, none, false, none, false, false⟩
def sending : State := mod3 (fun t => { t with ops := [itemAcc], seq := 1 }) (pigeon [7])
def ended : State := mod3 Thread.exit base
def allEnded : State := withThreads (fun _ t => t.exit) base
def idleLaunch : State := { base with groups := [], teams := [] }
/-- Nothing of the launch has started. -/
def waiting : State := { idleLaunch with launches := idleLaunch.launches.map fun l => { l with nextTeam := 0 } }
def theMsg : Msg := ⟨0, 0, 0, 3, 0, 0, 0, 0, [5, 6]⟩
def handled (s : State) : State := withKernel (fun k => { k with handlers := [(8, 8, 32, true, 256)] }) s
def arriving : State := { handled base with messagesOut := [⟨0, 1, 3, theMsg⟩] }
def arrived : State := { handled base with dies := tset base.dies 0 { Die.reset with messages := [theMsg] } }
def theHandler : Word × Nat × Nat × Bool × Nat := (8, 8, 32, true, 256)
def startedGroup : Group := Group.start 1 1 0 0 0 8 32 0 0 0 0 true 8 [5, 6] 0 0 0 9
def fault1 : FaultEntry := ⟨1, 0x2001, false, none⟩
def space1 : Space := (mapped.space? 1).getD ⟨1, 0, [], []⟩
/-- Space 1 with a reserved scratchpad range at page 0x2001_0000, which nothing maps, and thread 3 of no group parked on it. -/
def reserved : State := (mapped.tableChange 1 (.reserve 0x20010000 0x20020000 0 true true))
def faulted : State := { reserved with cores := tset base.cores 0 { Core.reset with faults := [fault1] } }
def stackFault : State := { mapped with cores := tset base.cores 0 { Core.reset with faults := [⟨1, 3, true, some 1⟩] } }
def rooms (s : State) : Nat × List (Nat × Nat × Nat × Nat × Nat) := (s.roomFor (launchOf s)).getD (0, [])
def carved : State := (waiting.carveHoles (launchOf waiting)).getD waiting
def theCore : Nat × List (Nat × Nat × Nat × Nat × Nat) :=
  (arrived.handlerCore (launchOf arrived) 0 ((launchOf arrived).handlerWant theHandler)).getD (0, [])
def entered1 : State := (mapped.mapAt 0x10000 0x1F 3 4 0 space1.root).getD mapped
/-- A launch of which no team is left, with an item in a pigeonhole. -/
def idleHoles : State := { pigeon [7] with groups := [], teams := [] }
/-- A run of object 7, whose graph is node 0 and then node 1; the launch of node 0 is under way. -/
def node0 : Node := ⟨0, 0, [1], 0⟩
def node1 : Node := ⟨1, 1, [], 0⟩
def graphed : Obj := ⟨7, [], 0, [fetchKernel fetchBase], [[node0, node1]], [], [], false⟩
def going8 (finished : List Nat) : Run := ⟨256, 3, 7, 0, List.replicate 64 0, 2, [(1, 1)], [0], finished, false, 0, true⟩
def going : State := { base with objects := [graphed], runs := [going8 []] }
/-- No launch of that run is left. -/
def alone8 (r : Run) : State := { base with objects := [graphed], runs := [r], launches := [] }
def failed8 : Run := { going8 [0] with failed := true }
/-- A template of 64 bytes: source, destination, completion word, control word, four elements of 4 bytes in a row. -/
def templateBytes (src dst comp ctl : Nat) : List Byte :=
  leBytes 8 src ++ leBytes 8 dst ++ leBytes 8 0 ++ leBytes 8 comp ++ leBytes 4 ctl ++ leBytes 7 (4 + 4 * 2 ^ 16 + 4 * 2 ^ 36) ++ List.replicate 21 0
/-- Templates: a plain copy, one with a checksum record, a postmark and an increment, one with a reserved bit set,
one whose postmark names a peer's page. -/
def templated : State :=
  let s := withKernel (fun k => { k with templateBase := 0x1E000, templateCount := 4 }) mapped
  { s with mem := wrBytes s.mem 0x1E000 (templateBytes 0x10000000 0x10000100 0 0x200 ++ templateBytes 0x10000000 0x10000100 0x0003000010000200 0x00380200
      ++ templateBytes 0x10000000 0x10000100 1 0x200 ++ templateBytes 0x10000000 0x10000100 0x0003000020000000 0x00380200) }
def theCopy (n : Nat) (p : CopyPhase) : Copy :=
  ⟨9, 0, 1, 1, n, 0, 0, 0, none, 1, some 1, if p = .queued then [] else templated.templateImage (launchOf templated) n, false, p, 0, 4, [], none, [], 0⟩
/-- Channel 5 of die 0 holds one copy. -/
def copying (n : Nat) (p : CopyPhase) : State :=
  { templated with dies := tset templated.dies 0 { Die.reset with channels := [(5, { Channel.reset with owner := some 256, queue := [theCopy n p] })] } }
def okPlan (x : Except EngStop CopyPlan) : CopyPlan :=
  match x with
  | .ok p => p
  | .error _ => ⟨[], [], []⟩
def okState (x : Except EngStop State) : State :=
  match x with
  | .ok z => z
  | .error _ => base
/-- The state in which that copy has begun. -/
def begunState (n : Nat) : State := (copying n .queued).modCopy 0 5 9 fun _ => begun (copying n .queued) (theCopy n .queued) (launchOf templated)
/-- A store of that copy's completion: its record and its postmark. -/
def marked (n : Nat) (p : CopyPhase) (va : Nat) (bs : List Byte) : State := okState ((copying n p).markWrite 0 5 (theCopy n p) (theCopy n p).tmpl va bs)
/-- A store of a start word to channel 5's page, pending in thread 3. -/
def startBytes (ctl : Nat) : List Byte := leBytes 8 ctl ++ leBytes 4 3 ++ leBytes 4 4
def startAcc (ctl : Nat) : Access := ⟨0, 7, .phys (apertureBase + 5 * 4096), 0x20000000, 16, .store (startBytes ctl), [], none, none, false, none, false, false⟩
def starting (ctl : Nat) : State := mod3 (fun t => { t with ops := [startAcc ctl], seq := 1, unacked := 1 }) templated
def draining : State := { copying 0 (.payload 0) with teams := base.teams.map fun t => { t with state := .stopping, drainBy := some 20000 } }
def mopWord (n x y a f : Nat) : Nat := n + 256 * x + 4096 * y + 65536 * a + 2 ^ 24 * f
/-- A dealer of core 0 at the micro-operation of these two words; its d1 is a mapped address, its buffer 2 holds two packed blocks of width 0. -/
def dealing (lo imm : Nat) : State :=
  let s := withKernel (fun k => { k with constCount := 8, constBase := 0x1F000 }) (withKernel (fun k => { k with slots := 0x83F800000 :: List.replicate 7 0 }) mapped)
  { s with
    mem := wrBytes s.mem 0x1F000 (leBytes 4 lo ++ leBytes 4 imm)
    cores := tset s.cores 0 { Core.reset with owner := some 0, dealer :=
      { Dealer.idle with
        running := true, lid := 0, tuid := 1, d := [5, 0x10000000, 1, 0, 0, 0, 0, 0]
        e := Dealer.idle.e.set 2 (wordsOf ([1] ++ List.replicate 8 0 ++ [1] ++ List.replicate 246 0)) } } }
def mopOf (lo imm : Nat) : MicroOp := (MicroOp.ofWords (BitVec.ofNat 32 lo) (BitVec.ofNat 32 imm)).getD ⟨0, 0, 0, 0, 0, 0, 0⟩
def readOf (lo imm : Nat) : EngData :=
  let s := dealing lo imm
  let m := mopOf lo imm
  match s.dealerRead 1 0 (s.core 0).dealer m.f ((s.core 0).dealer.addr m) 256 with
  | .ok l => l
  | .error _ => ([], [])
def gatherOf (lo imm : Nat) : List EngData :=
  match (dealing lo imm).dealerGather 1 0 ((dealing lo imm).core 0).dealer (mopOf lo imm) with
  | .ok l => l
  | .error _ => []
def placesOf (lo imm : Nat) : List (Place × Nat) :=
  match (dealing lo imm).engPlaces 1 0 0 (((dealing lo imm).core 0).dealer.addr (mopOf lo imm)) 256 3 true with
  | .ok l => l
  | .error _ => []
def expanded (lo imm : Nat) : List Word × Nat :=
  (expandTwo (bytesOfWords (((dealing lo imm).core 0).dealer.buf (mopOf lo imm).y))).getD ([], 0)
def narrowed (lo imm : Nat) : List Word := (narrowBuf (nth (launchOf (dealing lo imm)).kernel.slots 0 0) (((dealing lo imm).core 0).dealer.buf (mopOf lo imm).y)).getD []
def widened (lo imm : Nat) : List Word := (widenBuf (nth (launchOf (dealing lo imm)).kernel.slots 0 0) (((dealing lo imm).core 0).dealer.buf (mopOf lo imm).y)).getD []
/-- Copy 1 stands at its postmark behind an earlier copy to its destination, which waits for its bytes. -/
def twoCopies : State :=
  { templated with dies := tset templated.dies 0 { Die.reset with channels :=
    [(5, { Channel.reset with owner := some 256, queue := [{ theCopy 0 .reading with cid := 8, ask := some (0x10000000, 4) }, theCopy 1 (.record 0)] })] } }
def begun0 : Copy := begun (copying 0 .queued) (theCopy 0 .queued) (launchOf templated)
def plan0c : CopyPlan := okPlan ((begunState 0).copyPlan (launchOf templated) 0 begun0)
def source0 : List Nat × List (Place × Nat) := match (begunState 0).copySource 1 0 begun0.tmpl 4 begun0.srcBase [] with
  | .ok x => x
  | .error _ => ([], [])
/-- A packed block of width 1 from 0x1000_0003, and a header of 0 at 0x1000_0000. -/
def blocks : State := { mapped with mem := wrBytes mapped.mem 0 ([0, 0, 0, 1] ++ List.replicate 8 0x55) }
def header8 (va : Nat) : EngData := match blocks.engRead 1 0 0 va 1 3 5 [] with
  | .ok h => h
  | .error _ => ([], [])
def data8 : EngData := match blocks.engRead 1 0 0 0x10000004 8 3 5 [] with
  | .ok h => h
  | .error _ => ([], [])
def portUp (h : Port → Port) : State := portNow base 0 (h { Port.reset with trained := true })
def badFlit : List Byte := List.replicate 124 0 ++ leBytes 4 ((crc32c (List.replicate 124 0)).toNat + 1)
/-- The low bits of a token: entry 0, no expiry, every right. -/
def tokenLow : BitVec 40 := 0xFFFFF00000
def tokenOf (low : BitVec 40) (src pos : Nat) : BitVec 64 :=
  (sipHash24 (Config.tokenKey 0 src) (BitVec.ofNat 64 (low.toNat + 2 ^ 40 * src + 2 ^ 44 * pos))).extractLsb' 0 24 ++ low
def request1 (op : PeerOp) (seq : Word) (tok : BitVec 64) : PeerRequest := ⟨1, 2, seq, 0xFFFFFFFF, tok, 8, 4, op⟩
def outReq (n : Nat) : OutReq := ⟨5, n, 0, .message theMsg, request1 (.message theMsg) 5 0⟩
def sent (n : Nat) : State := base.setPair 0 1 { Pair.reset with out := [outReq n] }
/-- The token with code 0. -/
def tokenBits : BitVec 64 := tokenLow.setWidth 64
/-- Window 0: page 0x1000 of address space 1, one page, every right, for module 1. -/
def window0 : BitVec 128 := BitVec.ofNat 128 (0x1000 + 2 ^ 48 + 2 ^ 103 + 255 * 2 ^ 115 + 2 ^ 123 + 2 ^ 127)
def windowed : State := { mapped with windows := [(0, window0)] }
def header2 (count : Nat) : List Byte :=
  [1, 0, 0, 0, 3, 0, 0, 0, 0, 0, 0, 0] ++ leBytes 4 count ++ leBytes 8 0x10000000 ++ leBytes 8 0x10000100 ++ [0, 0, 1, 0] ++ List.replicate 28 0
def coll2 : Collective := ⟨5, 1, 0, 0, 1, header2 2, [], [], false⟩
def reducing : State := { mapped with collectives := [coll2] }
def peer1 (count : Nat) : PeerSource := ⟨1, header2 count, [1, 0, 0, 0, 2, 0, 0, 0]⟩
def ownBytes : List Byte := List.replicate 8 0
def ownData : EngData := match reducing.namedRead 1 0 0x10000000 8 with
  | .ok p => p
  | .error _ => ([], [])
def okPlaces (x : Except EngStop (List (Place × Nat))) : List (Place × Nat) :=
  match x with
  | .ok p => p
  | .error _ => []
def acked : State := portUp fun x => { x with replay := [⟨0, .control, 0, 1⟩] }
def late : State := { acked with now := 50000 }
def spent : State := portUp fun x => { x with count := 2 ^ 64 - 1 }
/-- A port whose key has one count left: it switches in time. -/
def nearSpent : State := portUp fun x => { x with count := 2 ^ 64 - 2 }
/-- A port of the last key generation. -/
def lastGen : State := portUp fun x => { x with gen := 0xFFFF }
def windowServed : State :=
  (State.servePages { mapped with pins := mapped.pins.filter fun p => p.owner != .window 16383 } 1 0x1000 true false 1).getD mapped
/-- A collective that a store of thread 3 comes before. -/
def collBefore : Collective := { coll2 with before := [⟨1, 3, 0⟩] }
def collWaits : State := { mod3 (fun t => { t with ops := [access8 storeOp], seq := 1 }) mapped with collectives := [collBefore] }
def func1 : Func := ⟨0x105, 0, 1, none, true, true, [(7, 1)], some 1, [], false⟩
def treed (f : Func) : State := { mapped with funcs := [f] }
def full1 : Func := { func1 with groups := List.replicate 512 (0, 0) }
/-- A page letter in the letterbox from the tree core to the memory core, or an answer in the one back. -/
def letterIn (box kind asid : Nat) : State := { treed func1 with letters := [(box, [⟨kind, 0, pageLetter 0x10000000 asid true false 0 0x105 9 0 0⟩])] }
def theLetter (kind asid : Nat) : Letter := ⟨kind, 0, pageLetter 0x10000000 asid true false 0 0x105 9 0 0⟩
def letterOut (box kind asid : Nat) : State := { letterIn box kind asid with letters := [(box, [])] }
def endReq (data : Option (List Byte)) (translated privExec : Bool) : EndpointRequest := ⟨0, 0x105, none, translated, privExec, 0x10000008, 4, data⟩
def noDefault : Func := { func1 with dflt := none }
def noAts : Func := { func1 with ats := false }
def window1 (w : Bool) : BridgeWindow := ⟨0x1000, 0x1000, 1, 0x10000000, true, w, false⟩
def bridged (w : Bool) : State := { mapped with bridges := [(0, [window1 w])] }
def queue1 : QueuePair := ⟨256, 0x105, 1, 0x10000000, 3, 0, [], 0x1000, 1⟩
/-- An entry's change that waits for the function's answer, and one that has it. -/
def shot1 : Shootdown := ⟨1, 3, 0x10000000, 0x1F, [0x105], 0, none⟩
def shot2 : Shootdown := { shot1 with awaiting := [] }
def shot : State := { treed func1 with shootdowns := [shot1] }
def shotOver : State := { treed func1 with shootdowns := [shot2] }
def shotDone : State := (shotOver.mapAt 0x10000000 0x1F 3 4 0 space1.root).getD shotOver
/-- The image that booted has the drivers. -/
def driven : State := { mapped with boot := { mapped.boot with drivers := true } }
def wrongPort : EndpointRequest := { endReq none false false with port := 1 }
def frame60 : List Byte := 1 :: List.replicate 59 0
/-- A ring of four slots of 2 to the `sz` bytes for port 7, its producer word in page `prod`; pauses above 2 entries, until at most 1. -/
def ringImage (sz prod : Nat) : BitVec 256 :=
  BitVec.ofNat 256 (1 + 2 ^ 13 + 2 ^ 18 + 2 ^ 22 * sz + 2 ^ 26 + 2 ^ 43 + 2 ^ 58 + 3 * 2 ^ 70 + 5 * 2 ^ 90 + 2 ^ 102 * (0x10000200 / 8) +
    2 ^ 147 * ((prod + 0x208) / 8) + 2 ^ 192 * 0x10000400)
def ringed (h : Ring → Ring) (sz prod cons : Nat) : State :=
  { mapped with
    mem := wrBytes mapped.mem 0x200 (leBytes 8 cons)
    rings := [(56, h { Ring.reset 56 with image := ringImage sz prod })] }
def plain (p : Nat) : State := ringed (fun r => { r with p := p }) 10 0x10000000 0
def slotWritten : State := ringed (fun r => { r with p := 3, stage := 1 }) 10 0x10000000 0
def unmappedWord : State := ringed (fun r => { r with p := 3, stage := 1 }) 10 0x30000000 0
def counted : State := ringed (fun r => { r with p := 4, stage := 2 }) 10 0x10000000 0
def easing : State := ringed (fun r => { r with p := 3, paused := true }) 10 0x10000000 2
def paused (p : Nat) : State := ringed (fun r => { r with p := p, paused := true }) 10 0x10000000 0
/-- A filter entry for port 7: bit 0 of byte 0 is 1. -/
def wakeEntry : BitVec 272 := BitVec.ofNat 272 (1 + 2 ^ 128 + 2 ^ 256 + 2 ^ 271)
def armedState : State := { mapped with armed := true, filter := [wakeEntry] }
def heldState (s : State) : State := { s with armed := true, heldFrame := some (7, frame60), running := 0xA1 }
def written (s : State) : State :=
  (s.ringWrite 1 (0x10000400 + 1024 * 3) 0 (leBytes 2 60 ++ [0, 7, 1, 0, 0, 0] ++ leBytes 8 3 ++ frame60)).getD s
def producer (s : State) : State := (s.ringWrite 1 0x10000208 0 (leBytes 8 4)).getD s
/-- A ring whose consumer word's page is not mapped, and one that fills so far that it pauses. -/
def noCons : State := { mapped with rings := [(56, { Ring.reset 56 with image := ringImage 10 0x10000000 + BitVec.ofNat 256 (2 ^ 102 * (0x20000000 / 8)) })] }
def pressing8 : State := ringed (fun r => { r with p := 4, stage := 2, lastC := 1 }) 10 0x10000000 0
/-- A command of a kind on queue 3, with the rest of its 64 bytes. -/
def command (kind : Nat) (body : List Byte) : List Byte := ([BitVec.ofNat 8 kind, 0, 3, 0] ++ List.replicate 4 0 ++ body ++ List.replicate 56 0).take 64
def obj7 (unloading : Bool) (frames : List Nat) : Obj := ⟨7, [], 0, [], [[]], frames, [], unloading⟩
/-- Queue 3 is open, and holds a command at its head. -/
def heading (kind : Nat) (body object : List Byte) (objs : List Obj) : State :=
  { mapped with queues := [(3, { SwQueue.reset with opened := true, cmds := [⟨command kind body, object, 2, none⟩] })], objects := objs }
def loadBody (n home : Nat) : List Byte := leBytes 4 n ++ [BitVec.ofNat 8 home]
/-- The load of queue 3 has begun, under handle 9. -/
def loadState (o : List Byte) : State := { heading 1 (loadBody 3 0) o [] with loads := [⟨3, 9⟩] }
def anObj : List Obj := [obj7 false []]
def goneObj : List Obj := [obj7 true []]
def run1 (inst handle : Nat) : Run := ⟨inst, 3, handle, 0, List.replicate 64 0, 2, [], [], [], false, 0, true⟩
def unloadingState (runs : List Run) : State := { heading 2 [7] [] goneObj with runs := runs }
/-- A ring of 16 slots of 2 KB at 0x1000_0000. -/
def bigRing : Nat :=
  1 + 4 * 2 ^ 17 + 11 * 2 ^ 22 + 2 ^ 26 + 2 ^ 43 + 2 ^ 58 + 2 ^ 102 * (0x10008000 / 8) + 2 ^ 147 * (0x10008008 / 8) + 2 ^ 192 * 0x10000000
def openBody : List Byte := [7, 7] ++ List.replicate 22 0 ++ leBytes 32 bigRing
def openRec : Ring := { Ring.reset 63 with image := placedRecord (ringRecord (command 5 openBody)) 7 7 }
def closing : State := { paused 2 with queues := (heading 6 [7, 0] [] []).queues }
/-- A run of object 7: space 1, die 0, semaphores 0 to 3, channel 5. -/
def runBody : List Byte := leBytes 4 7 ++ [0, 0, 1, 0, 1, 0, 0, 0, 0, 0, 4, 0] ++ leBytes 8 32
def running3 (objs : List Obj) : State := heading 3 runBody [] objs
def channelTaken : State := { running3 anObj with dies := tset mapped.dies 0 { Die.reset with channels := [(5, { Channel.reset with owner := some 9 })] } }
def crowded : State := { running3 anObj with runs := (List.range 256).map fun i => run1 i 9 }
/-- The run with a queue record, whose pair has entries of no bytes (R412). -/
def pairBody : List Byte := runBody ++ leBytes 8 0x10000000 ++ [5, 1, 4, 0, 0, 0, 2, 0]
def cmd3 : Command := ⟨command 3 runBody, [], 2, none⟩
def power (low : Bool) (ms : Nat) : State := { base with boot := { base.boot with lowPower := low, calmMs := ms } }
def plan0 : Plan := ⟨940000, 1600000, [(939000, 940000)], true⟩
def planned : State := { base with boot := { base.boot with plans := [plan0], selected := some 0 } }
def rising : State := { base with queues := [(3, { SwQueue.reset with opened := true, running := some 0 })], now := 10000000 }
def stopping : State := { base with teams := base.teams.map fun t => { t with state := .stopping } }
def regional : Launch := { fetchLaunch fetchBase 0 with kernel := { fetchKernel fetchBase with regions := [(0, 16)] } }
/-- A team that ends: its threads stand in a region, and its copies' drain has begun. -/
def ending : State := { stopping with
  launches := [regional]
  teams := stopping.teams.map fun t => { t with drainBy := some 20000 } }
def savedTeam (slots : List (Nat × Nat × Nat)) : State :=
  { base with teams := base.teams.map fun t => { t with state := .saved }, runs := [run1 256 7], slotsOf := slots }
def blocked3 : Thread := { thread3 base with status := .blocked .mwait 8 }
def haltedAt (s : State) : State := withGroup (fun g => { g with halted := true }) s
def oneLeft : State := haltedAt (withThreads (fun i t => if i = 3 then t else t.exit) base)
def cmdFailed : Command := { cmd3 with failed := some 4 }
/-- A run whose object's load has failed with reason 4. -/
def failed3 : State := { running3 [] with queues := [(3, { SwQueue.reset with opened := true, cmds := [cmdFailed] })] }
/-- A queue record of function 0x0105 on die 0, with semaphore 3, rings of 16 entries, a submission entry of 16 bytes and a completion of 16. -/
def goodPair : List Byte := runBody ++ leBytes 8 0x10000000 ++ [5, 1, 4, 0, 0, 0, 3, 0, 16, 0, 16, 0]
def store8 : AccOp := .store [1, 2, 3, 4, 5, 6, 7, 8]
def storing : State := mod3 (fun t => { t with ops := [access8 store8], seq := 1, unacked := 1 }) base
/-- The load of object 7 has begun; a thread that has left a bracket valued at offset 8. -/
def loading3 : State := { running3 [] with loads := [⟨2, 7⟩] }
def valued3 : Thread := { thread3 base with valued := [(8, 1, false)] }
def boxed (k : Nat) (n : Nat) : State := { base with letters := [(k, List.replicate n ⟨20, 1, List.replicate 56 0⟩)] }
def aLetter : Letter := ⟨20, 1, List.replicate 56 0⟩
def blinking : State := { State.reset with boot := { State.reset.boot with blinking := true } }
def plansOnly : State := { base with boot := { base.boot with plans := [plan0] } }
def stoppedDie : State := { base with teams := [], dies := tset base.dies 0 { Die.reset with stopped := true } }
def watched9 : State := { base with boot := { base.boot with watts := List.replicate 9 5811 } }
def fetched : State := State.reset.withFetchWord 32 0x0C060CD0
def tricks : List (Nat × List Nat) := [(1, [0, 1, 2, 3, 4, 5, 6, 7])]
def unit0 (s : State) (l : Launch) : DUnit := match decodeUnit (s.textWord l) l.kernel.textSize 0 with
  | .ok u => u
  | .error _ => ⟨.iadd vForm, 0, 0, {}⟩
def badFetch : State := State.reset.withFetchWord 64 0x000000000000003F
def awaiting : State := { State.reset with inputs := [.quantumBoundary], boot := { State.reset.boot with booted := true } }
def unitError (s : State) : UnitError := match (s.elapse.begin 0 0 0 tricks).1 with
  | .ok _ => ⟨0, 0⟩
  | .error e => e
def paged : State := { base with letters := [(35, [⟨0x21, 1, List.replicate 56 0⟩])] }
/-- A REP unit of which repetition 1 is next. -/
def repIssue : Issue := ⟨0, 0, 0, 0, 4, { rep := some repP }, 1, 7, tricks, none⟩
def repFetched : State := withThreads (fun _ t => { t with repctr := 1 }) { fetched with issue := repIssue }

/-! ### Words of the spec's worked examples

Each word and its instruction stand in the spec: 04 R66, 05 R102 to R106, 08 R160, 09 R186, 13 R234, 14, 16 R288, 20 R366, 21 R379. -/

theorem test_decode_short_float : decodeWords 0x0C060CD0 0 = .ok (.fmaxF32Short ⟨6, 6, V 6⟩) := rfl
theorem test_decode_predicated : decodeWords 0x12050CC1 0x00264000 = .ok (.fadd ⟨6, .vec, V 5, V 9, V 0, 2, false, 0, .f32, 0⟩) := rfl
theorem test_decode_saturating : decodeWords 0x0E820805 0x00400000 = .ok (.iadd ⟨4, .vec, V 2, S 7, V 0, 0, false, 1, .i32, 0⟩) := rfl
theorem test_decode_join_limm : decodeWords 0x018001CB 0x0000FFFF = .ok (.joinLimm ⟨0, 0, L 0, 0xFFFF⟩) := rfl
theorem test_decode_carry : decodeWords 0x0C020805 0x06C00000 = .ok (.iadd ⟨4, .vec, V 2, V 6, V 0, 0, false, 3, .i32, 3⟩) := rfl
theorem test_decode_dot : decodeWords 0x04010E2D 0x064C0070 = .ok (.idot ⟨7, .vec, V 1, V 2, V 7, 0, false, 1, .i8, 3⟩) := rfl
theorem test_decode_tlog : decodeWords 0x02000659 0x012C0020 = .ok (.tlog ⟨3, .vec, V 0, V 1, V 2, 0, false, 4, .f16x2, 0⟩) := rfl
theorem test_decode_vote : decodeWords 0x0002087D 0x00400004 = .ok (.vote ⟨4, .scal, V 2, V 0, V 0, 0, false, 1, .i32, 0⟩) := rfl
theorem test_decode_scalar : decodeWords 0x51810681 0x00040005 = .ok (.sadd ⟨3, .scal, S 1, L 40, V 0, 0, false, 0, .i64, 0⟩) := rfl
theorem test_decode_branch_back : decodeWords 0xFFFFFBC0 0 = .ok (.braShort 0x7FFFFD) := rfl
theorem test_decode_branch_scalar : decodeWords 0x00000DC1 0x00800850 = .ok (.bra ⟨6, S 5, 0, false, 2⟩) := rfl
theorem test_decode_not_predicated : decodeWords 0x000001D9 0x00012000 = .ok (.exit ⟨0, .vec, V 0, V 0, V 0, 1, true, 0, .i32, 0⟩) := rfl
theorem test_decode_csr : decodeWords 0x0C8001F1 0x00400000 = .ok (.csrWr ⟨0, .vec, V 0, S 6, V 0, 0, false, 1, .i32, 0⟩) := rfl
theorem test_decode_far_call : decodeWords 0x060105C7 5 = .ok (.callFar ⟨2, 1, V 3, 5⟩) := rfl
theorem test_decode_convert : decodeWords 0x00040B21 0x26340000 = .ok (.cvt ⟨5, .vec, V 4, V 0, V 0, 0, false, 0, .fmt2, 0x13⟩) := rfl
theorem test_decode_pack : decodeWords 0x0C010D2D 0x008C0000 = .ok (.pack ⟨6, .vec, V 1, V 6, V 0, 0, false, 2, .i8, 0⟩) := rfl
theorem test_decode_matrix : decodeWords 0x0E060385 0x086C0000 = .ok (.mma ⟨1, .vec, V 6, V 7, V 0, 0, false, 1, .f16x2, 4⟩) := rfl
theorem test_decode_drain : decodeWords 0x0681119D 0x00A80000 = .ok (.adrain ⟨8, .vec, V 1, S 3, V 0, 0, false, 2, .f16, 0⟩) := rfl
theorem test_decode_status : decodeWords 0x03C20798 0 = .ok (.mstat ⟨3, 0x42, L 1⟩) := rfl
theorem test_decode_store : decodeWords 0x0C000945 0x00E20007 = .ok (.st ⟨4, .scal, L 0, V 6, V 0, 0, false, 3, .b64, 0⟩) := rfl
theorem test_decode_atomic : decodeWords 0x0A020951 0x56000001 = .ok (.atom ⟨4, .vec, S 2, V 5, V 0, 0, false, 0, .i32, 0x2B⟩) := rfl
theorem test_decode_semaphore : decodeWords 0x038501A1 3 = .ok (.semsig ⟨0, .vec, L 5, L 1, V 0, 0, false, 0, .i32, 0⟩) := rfl
theorem test_decode_pop : decodeWords 0x03800778 0 = .ok (.popB32Short ⟨3, 0, L 1⟩) := rfl
theorem test_decode_rep : decodePfx 0x0000520A = some (.rep ⟨8, 1, 1, 0, 0⟩) := by decide +kernel
theorem test_decode_route : decodePfx 0x00C700C6 = some (.route ⟨0, 0xC7, 0, 3⟩) := by decide +kernel
/-- The dealer program of 21, its six micro-operations. -/
theorem test_decode_micro :
    [MicroOp.ofWords 0x0002000C 74, MicroOp.ofWords 0x01020001 0, MicroOp.ofWords 0x00020105 0, MicroOp.ofWords 0x00000104 0,
      MicroOp.ofWords 0x0000000D 1, MicroOp.ofWords 0 0] =
    [some ⟨12, 0, 0, 2, 0, 0, 74⟩, some ⟨1, 0, 0, 2, 0, 1, 0⟩, some ⟨5, 1, 0, 2, 0, 0, 0⟩, some ⟨4, 1, 0, 0, 0, 0, 0⟩,
      some ⟨13, 0, 0, 0, 0, 0, 1⟩, some ⟨0, 0, 0, 0, 0, 0, 0⟩] := by decide +kernel
theorem test_decode_refuses_equal_types : decodeWords 0x00040B21 0x26260000 = .error .illegalField := rfl
theorem test_decode_refuses_reserved : decodeWords 0x00000000 0 = .error .reservedOp := rfl
theorem test_decode_refuses_odd_pair : decodeWords 0x0C041631 0x02160080 = .error .illegalField := rfl

/-! ### A word for every row, written out from the opcode tables (R94 to R104) and the fields of R65 to R69 -/

theorem test_words_long0 :
    decodeWords 0x18080805 0x0001A000 = .ok (.iadd ⟨4, .vec, ⟨.vec, 8⟩, ⟨.vec, 12⟩, ⟨.vec, 0⟩, 5, true, 0, .i32, 0⟩) ∧
    decodeWords 0x18080809 0x0A81A000 = .ok (.isub ⟨4, .vec, ⟨.vec, 8⟩, ⟨.vec, 12⟩, ⟨.vec, 0⟩, 5, true, 2, .i32, 5⟩) ∧
    decodeWords 0x0008080D 0x0005A000 = .ok (.ineg ⟨4, .vec, ⟨.vec, 8⟩, ⟨.vec, 0⟩, ⟨.vec, 0⟩, 5, true, 0, .i64, 0⟩) ∧
    decodeWords 0x00080811 0x0041A000 = .ok (.iabs ⟨4, .vec, ⟨.vec, 8⟩, ⟨.vec, 0⟩, ⟨.vec, 0⟩, 5, true, 1, .i32, 0⟩) ∧
    decodeWords 0x18080815 0x0007A000 = .ok (.imin ⟨4, .vec, ⟨.vec, 8⟩, ⟨.vec, 12⟩, ⟨.vec, 0⟩, 5, true, 0, .ui64, 0⟩) ∧
    decodeWords 0x18080819 0x0005A000 = .ok (.imax ⟨4, .vec, ⟨.vec, 8⟩, ⟨.vec, 12⟩, ⟨.vec, 0⟩, 5, true, 0, .i64, 0⟩) ∧
    decodeWords 0x1808081D 0x0003A100 = .ok (.iclamp ⟨4, .vec, ⟨.vec, 8⟩, ⟨.vec, 12⟩, ⟨.vec, 16⟩, 5, true, 0, .ui32, 0⟩) ∧
    decodeWords 0x18080821 0x005BA000 = .ok (.imul ⟨4, .vec, ⟨.vec, 8⟩, ⟨.vec, 12⟩, ⟨.vec, 0⟩, 5, true, 1, .ui24, 0⟩) ∧
    decodeWords 0x18080825 0x0099A100 = .ok (.imad ⟨4, .vec, ⟨.vec, 8⟩, ⟨.vec, 12⟩, ⟨.vec, 16⟩, 5, true, 2, .i24, 0⟩) ∧
    decodeWords 0x18080829 0x000FA100 = .ok (.isad ⟨4, .vec, ⟨.vec, 8⟩, ⟨.vec, 12⟩, ⟨.vec, 16⟩, 5, true, 0, .ui8, 0⟩) ∧
    decodeWords 0x1808082D 0x0411A100 = .ok (.idot ⟨4, .vec, ⟨.vec, 8⟩, ⟨.vec, 12⟩, ⟨.vec, 16⟩, 5, true, 0, .i4, 2⟩) ∧
    decodeWords 0x18080831 0x0217A100 = .ok (.icdot ⟨4, .vec, ⟨.vec, 8⟩, ⟨.vec, 12⟩, ⟨.vec, 16⟩, 5, true, 0, .ci8, 1⟩) ∧
    decodeWords 0x18080635 0x00C3A008 = .ok (.icmp ⟨3, .pred, ⟨.vec, 8⟩, ⟨.vec, 12⟩, ⟨.vec, 0⟩, 5, true, 3, .ui32, 0⟩) ∧
    decodeWords 0x18080839 0x0C23A000 = .ok (.isel ⟨4, .vec, ⟨.vec, 8⟩, ⟨.vec, 12⟩, ⟨.vec, 0⟩, 5, true, 0, .b64, 6⟩) ∧
    decodeWords 0x1808083D 0x0107A000 = .ok (.iaddr ⟨4, .vec, ⟨.vec, 8⟩, ⟨.vec, 12⟩, ⟨.vec, 0⟩, 5, true, 4, .ui64, 0⟩) :=
  by and_intros <;> rfl
theorem test_words_long1 :
    decodeWords 0x18080841 0x0023A000 = .ok (.and ⟨4, .vec, ⟨.vec, 8⟩, ⟨.vec, 12⟩, ⟨.vec, 0⟩, 5, true, 0, .b64, 0⟩) ∧
    decodeWords 0x18080845 0x0021A000 = .ok (.or ⟨4, .vec, ⟨.vec, 8⟩, ⟨.vec, 12⟩, ⟨.vec, 0⟩, 5, true, 0, .b32, 0⟩) ∧
    decodeWords 0x18080849 0x0021A000 = .ok (.xor ⟨4, .vec, ⟨.vec, 8⟩, ⟨.vec, 12⟩, ⟨.vec, 0⟩, 5, true, 0, .b32, 0⟩) ∧
    decodeWords 0x1808084D 0x0021A000 = .ok (.andn ⟨4, .vec, ⟨.vec, 8⟩, ⟨.vec, 12⟩, ⟨.vec, 0⟩, 5, true, 0, .b32, 0⟩) ∧
    decodeWords 0x18080851 0x0023A000 = .ok (.orn ⟨4, .vec, ⟨.vec, 8⟩, ⟨.vec, 12⟩, ⟨.vec, 0⟩, 5, true, 0, .b64, 0⟩) ∧
    decodeWords 0x00080855 0x0021A000 = .ok (.not ⟨4, .vec, ⟨.vec, 8⟩, ⟨.vec, 0⟩, ⟨.vec, 0⟩, 5, true, 0, .b32, 0⟩) ∧
    decodeWords 0x18080859 0x012DA100 = .ok (.tlog ⟨4, .vec, ⟨.vec, 8⟩, ⟨.vec, 12⟩, ⟨.vec, 16⟩, 5, true, 4, .f16x2, 0⟩) ∧
    decodeWords 0x1808085D 0x0023A000 = .ok (.shl ⟨4, .vec, ⟨.vec, 8⟩, ⟨.vec, 12⟩, ⟨.vec, 0⟩, 5, true, 0, .b64, 0⟩) ∧
    decodeWords 0x18080861 0x0007A000 = .ok (.shr ⟨4, .vec, ⟨.vec, 8⟩, ⟨.vec, 12⟩, ⟨.vec, 0⟩, 5, true, 0, .ui64, 0⟩) ∧
    decodeWords 0x18080865 0x00A1A100 = .ok (.rot ⟨4, .vec, ⟨.vec, 8⟩, ⟨.vec, 12⟩, ⟨.vec, 16⟩, 5, true, 2, .b32, 0⟩) ∧
    decodeWords 0x00080869 0x00E3A000 = .ok (.bit ⟨4, .vec, ⟨.vec, 8⟩, ⟨.vec, 0⟩, ⟨.vec, 0⟩, 5, true, 3, .b64, 0⟩) ∧
    decodeWords 0x1808086D 0x0061A100 = .ok (.bfld ⟨4, .vec, ⟨.vec, 8⟩, ⟨.vec, 12⟩, ⟨.vec, 16⟩, 5, true, 1, .b32, 0⟩) ∧
    decodeWords 0x00080871 0x0041A001 = .ok (.mov ⟨4, .vec, ⟨.scal, 8⟩, ⟨.vec, 0⟩, ⟨.vec, 0⟩, 5, true, 1, .i32, 0⟩) ∧
    decodeWords 0x0A020675 0x00C1A008 = .ok (.plog ⟨3, .pred, ⟨.vec, 2⟩, ⟨.vec, 5⟩, ⟨.vec, 0⟩, 5, true, 3, .i32, 0⟩) ∧
    decodeWords 0x00070879 0x0001A000 = .ok (.pcvt ⟨4, .vec, ⟨.vec, 7⟩, ⟨.vec, 0⟩, ⟨.vec, 0⟩, 5, true, 0, .i32, 0⟩) ∧
    decodeWords 0x0006087D 0x0041A004 = .ok (.vote ⟨4, .scal, ⟨.vec, 6⟩, ⟨.vec, 0⟩, ⟨.vec, 0⟩, 5, true, 1, .i32, 0⟩) :=
  by and_intros <;> rfl
theorem test_words_long2 :
    decodeWords 0x18880881 0x00400005 = .ok (.sadd ⟨4, .scal, ⟨.scal, 8⟩, ⟨.scal, 12⟩, ⟨.vec, 0⟩, 0, false, 1, .i32, 0⟩) ∧
    decodeWords 0x18880885 0x00060005 = .ok (.ssub ⟨4, .scal, ⟨.scal, 8⟩, ⟨.scal, 12⟩, ⟨.vec, 0⟩, 0, false, 0, .ui64, 0⟩) ∧
    decodeWords 0x18880889 0x00440005 = .ok (.smul ⟨4, .scal, ⟨.scal, 8⟩, ⟨.scal, 12⟩, ⟨.vec, 0⟩, 0, false, 1, .i64, 0⟩) ∧
    decodeWords 0x1888088D 0x00060005 = .ok (.smin ⟨4, .scal, ⟨.scal, 8⟩, ⟨.scal, 12⟩, ⟨.vec, 0⟩, 0, false, 0, .ui64, 0⟩) ∧
    decodeWords 0x18880891 0x00040005 = .ok (.smax ⟨4, .scal, ⟨.scal, 8⟩, ⟨.scal, 12⟩, ⟨.vec, 0⟩, 0, false, 0, .i64, 0⟩) ∧
    decodeWords 0x18880895 0x01220005 = .ok (.slog ⟨4, .scal, ⟨.scal, 8⟩, ⟨.scal, 12⟩, ⟨.vec, 0⟩, 0, false, 4, .b64, 0⟩) ∧
    decodeWords 0x18880899 0x00220005 = .ok (.sshl ⟨4, .scal, ⟨.scal, 8⟩, ⟨.scal, 12⟩, ⟨.vec, 0⟩, 0, false, 0, .b64, 0⟩) ∧
    decodeWords 0x1888089D 0x00040005 = .ok (.sshr ⟨4, .scal, ⟨.scal, 8⟩, ⟨.scal, 12⟩, ⟨.vec, 0⟩, 0, false, 0, .i64, 0⟩) ∧
    decodeWords 0x188808A1 0x01460005 = .ok (.scmp ⟨4, .scal, ⟨.scal, 8⟩, ⟨.scal, 12⟩, ⟨.vec, 0⟩, 0, false, 5, .ui64, 0⟩) ∧
    decodeWords 0x188808A5 0x00220905 = .ok (.ssel ⟨4, .scal, ⟨.scal, 8⟩, ⟨.scal, 12⟩, ⟨.scal, 16⟩, 0, false, 0, .b64, 0⟩) ∧
    decodeWords 0x188008A9 0x00220004 = .ok (.smov ⟨4, .scal, ⟨.vec, 0⟩, ⟨.scal, 12⟩, ⟨.vec, 0⟩, 0, false, 0, .b64, 0⟩) ∧
    decodeWords 0x188000AD 0x00000000 = .ok (.cbase ⟨0, .vec, ⟨.vec, 0⟩, ⟨.scal, 12⟩, ⟨.vec, 0⟩, 0, false, 0, .i32, 0⟩) ∧
    decodeWords 0x188008B1 0x00A20004 = .ok (.sbit ⟨4, .scal, ⟨.vec, 0⟩, ⟨.scal, 12⟩, ⟨.vec, 0⟩, 0, false, 2, .b64, 0⟩) :=
  by and_intros <;> rfl
theorem test_words_long3 :
    decodeWords 0x180808C1 0x002FA000 = .ok (.fadd ⟨4, .vec, ⟨.vec, 8⟩, ⟨.vec, 12⟩, ⟨.vec, 0⟩, 5, true, 0, .bf16x2, 0⟩) ∧
    decodeWords 0x180808C5 0x0029A000 = .ok (.fsub ⟨4, .vec, ⟨.vec, 8⟩, ⟨.vec, 12⟩, ⟨.vec, 0⟩, 5, true, 0, .f16, 0⟩) ∧
    decodeWords 0x180808C9 0x002BA000 = .ok (.fmul ⟨4, .vec, ⟨.vec, 8⟩, ⟨.vec, 12⟩, ⟨.vec, 0⟩, 5, true, 0, .bf16, 0⟩) ∧
    decodeWords 0x180808CD 0x00E7A100 = .ok (.ffma ⟨4, .vec, ⟨.vec, 8⟩, ⟨.vec, 12⟩, ⟨.vec, 16⟩, 5, true, 3, .f32, 0⟩) ∧
    decodeWords 0x180808D1 0x006DA000 = .ok (.fmin ⟨4, .vec, ⟨.vec, 8⟩, ⟨.vec, 12⟩, ⟨.vec, 0⟩, 5, true, 1, .f16x2, 0⟩) ∧
    decodeWords 0x180808D5 0x0027A000 = .ok (.fmax ⟨4, .vec, ⟨.vec, 8⟩, ⟨.vec, 12⟩, ⟨.vec, 0⟩, 5, true, 0, .f32, 0⟩) ∧
    decodeWords 0x180806D9 0x01E9A008 = .ok (.fcmp ⟨3, .pred, ⟨.vec, 8⟩, ⟨.vec, 12⟩, ⟨.vec, 0⟩, 5, true, 7, .f16, 0⟩) ∧
    decodeWords 0x180808DD 0x0E27A000 = .ok (.fsel ⟨4, .vec, ⟨.vec, 8⟩, ⟨.vec, 12⟩, ⟨.vec, 0⟩, 5, true, 0, .f32, 7⟩) ∧
    decodeWords 0x000808E1 0x002BA000 = .ok (.fclass ⟨4, .vec, ⟨.vec, 8⟩, ⟨.vec, 0⟩, ⟨.vec, 0⟩, 5, true, 0, .bf16, 0⟩) ∧
    decodeWords 0x000808E5 0x0127A000 = .ok (.frnd ⟨4, .vec, ⟨.vec, 8⟩, ⟨.vec, 0⟩, ⟨.vec, 0⟩, 5, true, 4, .f32, 0⟩) ∧
    decodeWords 0x180808E9 0x0027A000 = .ok (.fldexp ⟨4, .vec, ⟨.vec, 8⟩, ⟨.vec, 12⟩, ⟨.vec, 0⟩, 5, true, 0, .f32, 0⟩) ∧
    decodeWords 0x000808ED 0x0069A000 = .ok (.ffrexp ⟨4, .vec, ⟨.vec, 8⟩, ⟨.vec, 0⟩, ⟨.vec, 0⟩, 5, true, 1, .f16, 0⟩) ∧
    decodeWords 0x180808F1 0x0027A000 = .ok (.fdiv ⟨4, .vec, ⟨.vec, 8⟩, ⟨.vec, 12⟩, ⟨.vec, 0⟩, 5, true, 0, .f32, 0⟩) ∧
    decodeWords 0x000808F5 0x002BA000 = .ok (.fsqrt ⟨4, .vec, ⟨.vec, 8⟩, ⟨.vec, 0⟩, ⟨.vec, 0⟩, 5, true, 0, .bf16, 0⟩) :=
  by and_intros <;> rfl
theorem test_words_long4 :
    decodeWords 0x00080901 0x0027A000 = .ok (.fexp2 ⟨4, .vec, ⟨.vec, 8⟩, ⟨.vec, 0⟩, ⟨.vec, 0⟩, 5, true, 0, .f32, 0⟩) ∧
    decodeWords 0x00080905 0x0029A000 = .ok (.flog2 ⟨4, .vec, ⟨.vec, 8⟩, ⟨.vec, 0⟩, ⟨.vec, 0⟩, 5, true, 0, .f16, 0⟩) ∧
    decodeWords 0x00080909 0x002BA000 = .ok (.fsin ⟨4, .vec, ⟨.vec, 8⟩, ⟨.vec, 0⟩, ⟨.vec, 0⟩, 5, true, 0, .bf16, 0⟩) ∧
    decodeWords 0x0008090D 0x0027A000 = .ok (.fcos ⟨4, .vec, ⟨.vec, 8⟩, ⟨.vec, 0⟩, ⟨.vec, 0⟩, 5, true, 0, .f32, 0⟩) ∧
    decodeWords 0x00080911 0x0029A000 = .ok (.ftanh ⟨4, .vec, ⟨.vec, 8⟩, ⟨.vec, 0⟩, ⟨.vec, 0⟩, 5, true, 0, .f16, 0⟩) ∧
    decodeWords 0x00080915 0x002BA000 = .ok (.flogi ⟨4, .vec, ⟨.vec, 8⟩, ⟨.vec, 0⟩, ⟨.vec, 0⟩, 5, true, 0, .bf16, 0⟩) ∧
    decodeWords 0x00080919 0x0027A000 = .ok (.frcp ⟨4, .vec, ⟨.vec, 8⟩, ⟨.vec, 0⟩, ⟨.vec, 0⟩, 5, true, 0, .f32, 0⟩) ∧
    decodeWords 0x0008091D 0x0029A000 = .ok (.frsqrt ⟨4, .vec, ⟨.vec, 8⟩, ⟨.vec, 0⟩, ⟨.vec, 0⟩, 5, true, 0, .f16, 0⟩) ∧
    decodeWords 0x00080921 0x3E07A000 = .ok (.cvt ⟨4, .vec, ⟨.vec, 8⟩, ⟨.vec, 0⟩, ⟨.vec, 0⟩, 5, true, 0, .ui64, 31⟩) ∧
    decodeWords 0x18080925 0x283FA000 = .ok (.bquant ⟨4, .vec, ⟨.vec, 8⟩, ⟨.vec, 12⟩, ⟨.vec, 0⟩, 5, true, 0, .fmt7, 20⟩) ∧
    decodeWords 0x00080929 0x3629A000 = .ok (.bdequant ⟨4, .vec, ⟨.vec, 8⟩, ⟨.vec, 0⟩, ⟨.vec, 0⟩, 5, true, 0, .f16, 27⟩) ∧
    decodeWords 0x1808092D 0x01D3A000 = .ok (.pack ⟨4, .vec, ⟨.vec, 8⟩, ⟨.vec, 12⟩, ⟨.vec, 0⟩, 5, true, 7, .ui4, 0⟩) ∧
    decodeWords 0x00080931 0x006BA000 = .ok (.unpack ⟨4, .vec, ⟨.vec, 8⟩, ⟨.vec, 0⟩, ⟨.vec, 0⟩, 5, true, 1, .bf16, 0⟩) ∧
    decodeWords 0x00080135 0x0001A000 = .ok (.srseed ⟨0, .vec, ⟨.vec, 8⟩, ⟨.vec, 0⟩, ⟨.vec, 0⟩, 5, true, 0, .i32, 0⟩) :=
  by and_intros <;> rfl
theorem test_words_long5 :
    decodeWords 0x18080941 0x00A5A000 = .ok (.ld ⟨4, .vec, ⟨.vec, 8⟩, ⟨.vec, 12⟩, ⟨.vec, 0⟩, 5, true, 2, .b128, 0⟩) ∧
    decodeWords 0x18080945 0x00DDA004 = .ok (.st ⟨4, .scal, ⟨.vec, 8⟩, ⟨.vec, 12⟩, ⟨.vec, 0⟩, 5, true, 3, .b8, 0⟩) ∧
    decodeWords 0x18080949 0x0663A000 = .ok (.lda ⟨4, .vec, ⟨.vec, 8⟩, ⟨.vec, 12⟩, ⟨.vec, 0⟩, 5, true, 1, .b64, 3⟩) ∧
    decodeWords 0x1808094D 0x08A1A000 = .ok (.stl ⟨4, .vec, ⟨.vec, 8⟩, ⟨.vec, 12⟩, ⟨.vec, 0⟩, 5, true, 2, .b32, 4⟩) ∧
    decodeWords 0x18080951 0xB5A3A000 = .ok (.atom ⟨4, .vec, ⟨.vec, 8⟩, ⟨.vec, 12⟩, ⟨.vec, 0⟩, 5, true, 6, .b64, 90⟩) ∧
    decodeWords 0x18080955 0x38E3A100 = .ok (.cas ⟨4, .vec, ⟨.vec, 8⟩, ⟨.vec, 12⟩, ⟨.vec, 16⟩, 5, true, 3, .b64, 28⟩) ∧
    decodeWords 0x00000159 0x0101A000 = .ok (.fence ⟨0, .vec, ⟨.vec, 0⟩, ⟨.vec, 0⟩, ⟨.vec, 0⟩, 5, true, 4, .i32, 0⟩) ∧
    decodeWords 0x1808015D 0x00C1A000 = .ok (.marm ⟨0, .vec, ⟨.vec, 8⟩, ⟨.vec, 12⟩, ⟨.vec, 0⟩, 5, true, 3, .i32, 0⟩) ∧
    decodeWords 0x00000161 0x0001A000 = .ok (.mwait ⟨0, .vec, ⟨.vec, 0⟩, ⟨.vec, 0⟩, ⟨.vec, 0⟩, 5, true, 0, .i32, 0⟩) ∧
    decodeWords 0x18800165 0x0001A000 = .ok (.bar ⟨0, .vec, ⟨.vec, 0⟩, ⟨.scal, 12⟩, ⟨.vec, 0⟩, 5, true, 0, .i32, 0⟩) ∧
    decodeWords 0x00080769 0x0021A000 = .ok (.push ⟨3, .vec, ⟨.vec, 8⟩, ⟨.vec, 0⟩, ⟨.vec, 0⟩, 5, true, 0, .b32, 0⟩) ∧
    decodeWords 0x0580096D 0x0021A000 = .ok (.pop ⟨4, .vec, ⟨.vec, 0⟩, ⟨.lit, 2⟩, ⟨.vec, 0⟩, 5, true, 0, .b32, 0⟩) :=
  by and_intros <;> rfl
theorem test_words_long6 :
    decodeWords 0x18887F81 0x02FBA901 = .ok (.oload ⟨63, .vec, ⟨.scal, 8⟩, ⟨.scal, 12⟩, ⟨.scal, 16⟩, 5, true, 3, .fmt5, 1⟩) ∧
    decodeWords 0x7C3F0F85 0x1C6DA000 = .ok (.mma ⟨7, .vec, ⟨.vec, 63⟩, ⟨.vec, 62⟩, ⟨.vec, 0⟩, 5, true, 1, .f16x2, 14⟩) ∧
    decodeWords 0x06020389 0x0613A000 = .ok (.cmma ⟨1, .vec, ⟨.vec, 2⟩, ⟨.vec, 3⟩, ⟨.vec, 0⟩, 5, true, 0, .ui4, 3⟩) ∧
    decodeWords 0x0FBF0F8D 0x0001A000 = .ok (.mzpc ⟨7, .vec, ⟨.vec, 63⟩, ⟨.lit, 7⟩, ⟨.vec, 0⟩, 5, true, 0, .i32, 0⟩) ∧
    decodeWords 0x00080D91 0x0041A000 = .ok (.aload ⟨6, .vec, ⟨.vec, 8⟩, ⟨.vec, 0⟩, ⟨.vec, 0⟩, 5, true, 1, .i32, 0⟩) ∧
    decodeWords 0x18070995 0x00E1A000 = .ok (.aread ⟨4, .vec, ⟨.vec, 7⟩, ⟨.vec, 12⟩, ⟨.vec, 0⟩, 5, true, 3, .b32, 0⟩) ∧
    decodeWords 0x18080F99 0x00A1A000 = .ok (.awrite ⟨7, .vec, ⟨.vec, 8⟩, ⟨.vec, 12⟩, ⟨.vec, 0⟩, 5, true, 2, .b32, 0⟩) ∧
    decodeWords 0x1885099D 0x00B9A000 = .ok (.adrain ⟨4, .vec, ⟨.vec, 5⟩, ⟨.scal, 12⟩, ⟨.vec, 0⟩, 5, true, 2, .fmt4, 0⟩) ∧
    decodeWords 0x180801A1 0x0001A000 = .ok (.semsig ⟨0, .vec, ⟨.vec, 8⟩, ⟨.vec, 12⟩, ⟨.vec, 0⟩, 5, true, 0, .i32, 0⟩) ∧
    decodeWords 0x180801A5 0x0001A000 = .ok (.semwait ⟨0, .vec, ⟨.vec, 8⟩, ⟨.vec, 12⟩, ⟨.vec, 0⟩, 5, true, 0, .i32, 0⟩) ∧
    decodeWords 0x000809A9 0x0001A000 = .ok (.semrd ⟨4, .vec, ⟨.vec, 8⟩, ⟨.vec, 0⟩, ⟨.vec, 0⟩, 5, true, 0, .i32, 0⟩) ∧
    decodeWords 0x180801AD 0x0001A000 = .ok (.post ⟨0, .vec, ⟨.vec, 8⟩, ⟨.vec, 12⟩, ⟨.vec, 0⟩, 5, true, 0, .i32, 0⟩) ∧
    decodeWords 0x000809B1 0x0001A050 = .ok (.collect ⟨4, .vec, ⟨.vec, 8⟩, ⟨.vec, 0⟩, ⟨.vec, 5⟩, 5, true, 0, .i32, 0⟩) ∧
    decodeWords 0x180801B5 0x0001BA00 = .ok (.amsend ⟨0, .vec, ⟨.vec, 8⟩, ⟨.vec, 12⟩, ⟨.lit, 32⟩, 5, true, 0, .i32, 0⟩) ∧
    decodeWords 0x000801B9 0x0001A001 = .ok (.coll ⟨0, .vec, ⟨.scal, 8⟩, ⟨.vec, 0⟩, ⟨.vec, 0⟩, 5, true, 0, .i32, 0⟩) :=
  by and_intros <;> rfl
theorem test_words_long7 :
    decodeWords 0xFFFFE1C1 0x00816900 = .ok (.bra ⟨0x7FFFF0, ⟨.scal, 16⟩, 3, true, 2⟩) ∧
    decodeWords 0x02468BC5 0x00016000 = .ok (.call ⟨0x12345, ⟨.vec, 0⟩, 3, true, 0⟩) ∧
    decodeWords 0x000801C9 0x0001A000 = .ok (.brx ⟨0, .vec, ⟨.vec, 8⟩, ⟨.vec, 0⟩, ⟨.vec, 0⟩, 5, true, 0, .i32, 0⟩) ∧
    decodeWords 0x000801CD 0x0001A000 = .ok (.callx ⟨0, .vec, ⟨.vec, 8⟩, ⟨.vec, 0⟩, ⟨.vec, 0⟩, 5, true, 0, .i32, 0⟩) ∧
    decodeWords 0x000001D1 0x0001A000 = .ok (.ret ⟨0, .vec, ⟨.vec, 0⟩, ⟨.vec, 0⟩, ⟨.vec, 0⟩, 5, true, 0, .i32, 0⟩) ∧
    decodeWords 0x180001D5 0x0001A000 = .ok (.join ⟨0, .vec, ⟨.vec, 0⟩, ⟨.vec, 12⟩, ⟨.vec, 0⟩, 5, true, 0, .i32, 0⟩) ∧
    decodeWords 0x000001D9 0x0001A000 = .ok (.exit ⟨0, .vec, ⟨.vec, 0⟩, ⟨.vec, 0⟩, ⟨.vec, 0⟩, 5, true, 0, .i32, 0⟩) ∧
    decodeWords 0x188001DD 0x0041A000 = .ok (.trap ⟨0, .vec, ⟨.vec, 0⟩, ⟨.scal, 12⟩, ⟨.vec, 0⟩, 5, true, 1, .i32, 0⟩) ∧
    decodeWords 0x000001E1 0x0001A000 = .ok (.yield ⟨0, .vec, ⟨.vec, 0⟩, ⟨.vec, 0⟩, ⟨.vec, 0⟩, 5, true, 0, .i32, 0⟩) ∧
    decodeWords 0x000001E5 0x0001A000 = .ok (.nop ⟨0, .vec, ⟨.vec, 0⟩, ⟨.vec, 0⟩, ⟨.vec, 0⟩, 5, true, 0, .i32, 0⟩) ∧
    decodeWords 0x18801FE9 0x00000000 = .ok (.gset ⟨15, .vec, ⟨.vec, 0⟩, ⟨.scal, 12⟩, ⟨.vec, 0⟩, 0, false, 0, .i32, 0⟩) ∧
    decodeWords 0x03801DED 0x00000000 = .ok (.gclr ⟨14, .vec, ⟨.vec, 0⟩, ⟨.lit, 1⟩, ⟨.vec, 0⟩, 0, false, 0, .i32, 0⟩) ∧
    decodeWords 0x000409F1 0x00000004 = .ok (.csrRd ⟨4, .scal, ⟨.vec, 4⟩, ⟨.vec, 0⟩, ⟨.vec, 0⟩, 0, false, 0, .i32, 0⟩) ∧
    decodeWords 0x188201F1 0x00400000 = .ok (.csrWr ⟨0, .vec, ⟨.vec, 2⟩, ⟨.scal, 12⟩, ⟨.vec, 0⟩, 0, false, 1, .i32, 0⟩) ∧
    decodeWords 0x000001F5 0x00000000 = .ok (.tret ⟨0, .vec, ⟨.vec, 0⟩, ⟨.vec, 0⟩, ⟨.vec, 0⟩, 0, false, 0, .i32, 0⟩) :=
  by and_intros <;> rfl
theorem test_words_short0 :
    decodeWords 0xC9080804 0x00000000 = .ok (.iaddI32Short ⟨4, 8, ⟨.cons, 100⟩⟩) ∧
    decodeWords 0xC9080808 0x00000000 = .ok (.isubI32Short ⟨4, 8, ⟨.cons, 100⟩⟩) ∧
    decodeWords 0xC908080C 0x00000000 = .ok (.iaddI64Short ⟨4, 8, ⟨.cons, 100⟩⟩) ∧
    decodeWords 0xC9080810 0x00000000 = .ok (.iminI32Short ⟨4, 8, ⟨.cons, 100⟩⟩) ∧
    decodeWords 0xC9080814 0x00000000 = .ok (.imaxI32Short ⟨4, 8, ⟨.cons, 100⟩⟩) ∧
    decodeWords 0xC9080818 0x00000000 = .ok (.iminUi32Short ⟨4, 8, ⟨.cons, 100⟩⟩) ∧
    decodeWords 0xC908081C 0x00000000 = .ok (.imaxUi32Short ⟨4, 8, ⟨.cons, 100⟩⟩) ∧
    decodeWords 0xC9080820 0x00000000 = .ok (.imulI24Short ⟨4, 8, ⟨.cons, 100⟩⟩) ∧
    decodeWords 0xC9080824 0x00000000 = .ok (.imulI32Short ⟨4, 8, ⟨.cons, 100⟩⟩) ∧
    decodeWords 0xC9080828 0x00000000 = .ok (.iaddrX4Ui32Short ⟨4, 8, ⟨.cons, 100⟩⟩) ∧
    decodeWords 0xC908062C 0x00000000 = .ok (.icmpEqI32Short ⟨3, 8, ⟨.cons, 100⟩⟩) ∧
    decodeWords 0xC9080630 0x00000000 = .ok (.icmpNeI32Short ⟨3, 8, ⟨.cons, 100⟩⟩) ∧
    decodeWords 0xC9080634 0x00000000 = .ok (.icmpLtI32Short ⟨3, 8, ⟨.cons, 100⟩⟩) ∧
    decodeWords 0xC9080638 0x00000000 = .ok (.icmpLtUi32Short ⟨3, 8, ⟨.cons, 100⟩⟩) ∧
    decodeWords 0xC908063C 0x00000000 = .ok (.icmpGeI32Short ⟨3, 8, ⟨.cons, 100⟩⟩) :=
  by and_intros <;> rfl
theorem test_words_short1 :
    decodeWords 0xC9080840 0x00000000 = .ok (.andB32Short ⟨4, 8, ⟨.cons, 100⟩⟩) ∧
    decodeWords 0xC9080844 0x00000000 = .ok (.orB32Short ⟨4, 8, ⟨.cons, 100⟩⟩) ∧
    decodeWords 0xC9080848 0x00000000 = .ok (.xorB32Short ⟨4, 8, ⟨.cons, 100⟩⟩) ∧
    decodeWords 0xC908084C 0x00000000 = .ok (.andnB32Short ⟨4, 8, ⟨.cons, 100⟩⟩) ∧
    decodeWords 0x00080850 0x00000000 = .ok (.notB32Short ⟨4, 8, ⟨.vec, 0⟩⟩) ∧
    decodeWords 0xC9080854 0x00000000 = .ok (.shlB32Short ⟨4, 8, ⟨.cons, 100⟩⟩) ∧
    decodeWords 0xC9080858 0x00000000 = .ok (.shrUi32Short ⟨4, 8, ⟨.cons, 100⟩⟩) ∧
    decodeWords 0xC908085C 0x00000000 = .ok (.shrI32Short ⟨4, 8, ⟨.cons, 100⟩⟩) ∧
    decodeWords 0xC9080860 0x00000000 = .ok (.rotLB32Short ⟨4, 8, ⟨.cons, 100⟩⟩) ∧
    decodeWords 0x00080864 0x00000000 = .ok (.bitPopcB32Short ⟨4, 8, ⟨.vec, 0⟩⟩) ∧
    decodeWords 0x00080868 0x00000000 = .ok (.bitClzB32Short ⟨4, 8, ⟨.vec, 0⟩⟩) ∧
    decodeWords 0x0008086C 0x00000000 = .ok (.movB32Short ⟨4, 8, ⟨.vec, 0⟩⟩) ∧
    decodeWords 0x00080870 0x00000000 = .ok (.movB64Short ⟨4, 8, ⟨.vec, 0⟩⟩) ∧
    decodeWords 0xC9080874 0x00000000 = .ok (.shlB64Short ⟨4, 8, ⟨.cons, 100⟩⟩) ∧
    decodeWords 0xC9080878 0x00000000 = .ok (.shrUi64Short ⟨4, 8, ⟨.cons, 100⟩⟩) ∧
    decodeWords 0xC908087C 0x00000000 = .ok (.bfldByteB32Short ⟨4, 8, ⟨.cons, 100⟩⟩) :=
  by and_intros <;> rfl
theorem test_words_short2 :
    decodeWords 0xC9000880 0x00000000 = .ok (.smovB64Short ⟨4, 0, ⟨.cons, 100⟩⟩) ∧
    decodeWords 0xC9000084 0x00000000 = .ok (.cbaseShort ⟨0, 0, ⟨.cons, 100⟩⟩) :=
  by and_intros <;> rfl
theorem test_words_short3 :
    decodeWords 0xC90808C0 0x00000000 = .ok (.faddF32Short ⟨4, 8, ⟨.cons, 100⟩⟩) ∧
    decodeWords 0xC90808C4 0x00000000 = .ok (.fsubF32Short ⟨4, 8, ⟨.cons, 100⟩⟩) ∧
    decodeWords 0xC90808C8 0x00000000 = .ok (.fmulF32Short ⟨4, 8, ⟨.cons, 100⟩⟩) ∧
    decodeWords 0xC90808CC 0x00000000 = .ok (.fminF32Short ⟨4, 8, ⟨.cons, 100⟩⟩) ∧
    decodeWords 0xC90808D0 0x00000000 = .ok (.fmaxF32Short ⟨4, 8, ⟨.cons, 100⟩⟩) ∧
    decodeWords 0xC90808D4 0x00000000 = .ok (.fminNanF32Short ⟨4, 8, ⟨.cons, 100⟩⟩) ∧
    decodeWords 0xC90808D8 0x00000000 = .ok (.fmaxNanF32Short ⟨4, 8, ⟨.cons, 100⟩⟩) ∧
    decodeWords 0xC90808DC 0x00000000 = .ok (.faddF16x2Short ⟨4, 8, ⟨.cons, 100⟩⟩) ∧
    decodeWords 0xC90808E0 0x00000000 = .ok (.fmulF16x2Short ⟨4, 8, ⟨.cons, 100⟩⟩) ∧
    decodeWords 0xC90808E4 0x00000000 = .ok (.faddBf16x2Short ⟨4, 8, ⟨.cons, 100⟩⟩) ∧
    decodeWords 0xC90808E8 0x00000000 = .ok (.fmulBf16x2Short ⟨4, 8, ⟨.cons, 100⟩⟩) ∧
    decodeWords 0xC90806EC 0x00000000 = .ok (.fcmpLtF32Short ⟨3, 8, ⟨.cons, 100⟩⟩) ∧
    decodeWords 0xC90806F0 0x00000000 = .ok (.fcmpLeF32Short ⟨3, 8, ⟨.cons, 100⟩⟩) ∧
    decodeWords 0xC90806F4 0x00000000 = .ok (.fcmpEqF32Short ⟨3, 8, ⟨.cons, 100⟩⟩) ∧
    decodeWords 0xC90808F8 0x00000000 = .ok (.fldexpF32Short ⟨4, 8, ⟨.cons, 100⟩⟩) ∧
    decodeWords 0x000808FC 0x00000000 = .ok (.frndRneF32Short ⟨4, 8, ⟨.vec, 0⟩⟩) :=
  by and_intros <;> rfl
theorem test_words_short4 :
    decodeWords 0x00080900 0x00000000 = .ok (.fexp2F32Short ⟨4, 8, ⟨.vec, 0⟩⟩) ∧
    decodeWords 0x00080904 0x00000000 = .ok (.flog2F32Short ⟨4, 8, ⟨.vec, 0⟩⟩) ∧
    decodeWords 0x00080908 0x00000000 = .ok (.fsinF32Short ⟨4, 8, ⟨.vec, 0⟩⟩) ∧
    decodeWords 0x0008090C 0x00000000 = .ok (.fcosF32Short ⟨4, 8, ⟨.vec, 0⟩⟩) ∧
    decodeWords 0x00080910 0x00000000 = .ok (.ftanhF32Short ⟨4, 8, ⟨.vec, 0⟩⟩) ∧
    decodeWords 0x00080914 0x00000000 = .ok (.flogiF32Short ⟨4, 8, ⟨.vec, 0⟩⟩) ∧
    decodeWords 0x00080918 0x00000000 = .ok (.frcpF32Short ⟨4, 8, ⟨.vec, 0⟩⟩) ∧
    decodeWords 0x0008091C 0x00000000 = .ok (.frsqrtF32Short ⟨4, 8, ⟨.vec, 0⟩⟩) ∧
    decodeWords 0x00080920 0x00000000 = .ok (.cvtF32I32Short ⟨4, 8, ⟨.vec, 0⟩⟩) ∧
    decodeWords 0x00080924 0x00000000 = .ok (.cvtI32F32Short ⟨4, 8, ⟨.vec, 0⟩⟩) ∧
    decodeWords 0x00080928 0x00000000 = .ok (.cvtF16F32Short ⟨4, 8, ⟨.vec, 0⟩⟩) ∧
    decodeWords 0x0008092C 0x00000000 = .ok (.cvtF32F16Short ⟨4, 8, ⟨.vec, 0⟩⟩) ∧
    decodeWords 0x00080930 0x00000000 = .ok (.cvtBf16F32Short ⟨4, 8, ⟨.vec, 0⟩⟩) ∧
    decodeWords 0x00080934 0x00000000 = .ok (.cvtF32Bf16Short ⟨4, 8, ⟨.vec, 0⟩⟩) :=
  by and_intros <;> rfl
theorem test_words_short5 :
    decodeWords 0xC9080940 0x00000000 = .ok (.ldStackB32Short ⟨4, 8, ⟨.cons, 100⟩⟩) ∧
    decodeWords 0xC9080944 0x00000000 = .ok (.ldTeamB32Short ⟨4, 8, ⟨.cons, 100⟩⟩) ∧
    decodeWords 0xC9080948 0x00000000 = .ok (.ldScrB32Short ⟨4, 8, ⟨.cons, 100⟩⟩) ∧
    decodeWords 0xC908094C 0x00000000 = .ok (.ldTeamB64Short ⟨4, 8, ⟨.cons, 100⟩⟩) ∧
    decodeWords 0xC9080950 0x00000000 = .ok (.ldScrB64Short ⟨4, 8, ⟨.cons, 100⟩⟩) ∧
    decodeWords 0xC9080954 0x00000000 = .ok (.ldTeamB128Short ⟨4, 8, ⟨.cons, 100⟩⟩) ∧
    decodeWords 0xC9080958 0x00000000 = .ok (.ldScrB128Short ⟨4, 8, ⟨.cons, 100⟩⟩) ∧
    decodeWords 0xC908095C 0x00000000 = .ok (.ldPeerB32Short ⟨4, 8, ⟨.cons, 100⟩⟩) ∧
    decodeWords 0x00000160 0x00000000 = .ok (.fenceTeamShort ⟨0, 0, ⟨.vec, 0⟩⟩) ∧
    decodeWords 0x00000164 0x00000000 = .ok (.fenceDieShort ⟨0, 0, ⟨.vec, 0⟩⟩) ∧
    decodeWords 0x00000168 0x00000000 = .ok (.fenceModShort ⟨0, 0, ⟨.vec, 0⟩⟩) ∧
    decodeWords 0x0000016C 0x00000000 = .ok (.fenceSysShort ⟨0, 0, ⟨.vec, 0⟩⟩) ∧
    decodeWords 0xC9000170 0x00000000 = .ok (.barShort ⟨0, 0, ⟨.cons, 100⟩⟩) ∧
    decodeWords 0x00000174 0x00000000 = .ok (.mwaitShort ⟨0, 0, ⟨.vec, 0⟩⟩) ∧
    decodeWords 0x07800978 0x00000000 = .ok (.popB32Short ⟨4, 0, ⟨.lit, 3⟩⟩) :=
  by and_intros <;> rfl
theorem test_words_short6 :
    decodeWords 0x003F0F80 0x00000000 = .ok (.oclaim ⟨7, 63, ⟨.vec, 0⟩⟩) ∧
    decodeWords 0x003E0184 0x00000000 = .ok (.orelease ⟨0, 62, ⟨.vec, 0⟩⟩) ∧
    decodeWords 0x12870D88 0x00000000 = .ok (.aclaim ⟨6, 7, ⟨.scal, 9⟩⟩) ∧
    decodeWords 0x0005018C 0x00000000 = .ok (.arelease ⟨0, 5, ⟨.vec, 0⟩⟩) ∧
    decodeWords 0xFF860190 0x00000000 = .ok (.aclear ⟨0, 6, ⟨.lit, 127⟩⟩) ∧
    decodeWords 0x00470194 0x00000000 = .ok (.mwaitq ⟨0, 71, ⟨.vec, 0⟩⟩) ∧
    decodeWords 0x03C57F98 0x00000000 = .ok (.mstat ⟨63, 69, ⟨.lit, 1⟩⟩) :=
  by and_intros <;> rfl
theorem test_words_short7 :
    decodeWords 0x8000E3C0 0x00000000 = .ok (.braShort 0x400071) ∧
    decodeWords 0x8000E5C4 0x00000000 = .ok (.callShort 0x400072) ∧
    decodeWords 0x000001C8 0x00000000 = .ok (.retShort ⟨0, 0, ⟨.vec, 0⟩⟩) ∧
    decodeWords 0x000001CC 0x00000000 = .ok (.land ⟨0, 0, ⟨.vec, 0⟩⟩) ∧
    decodeWords 0x000001D0 0x00000000 = .ok (.exitShort ⟨0, 0, ⟨.vec, 0⟩⟩) ∧
    decodeWords 0x000001D4 0x00000000 = .ok (.nopShort ⟨0, 0, ⟨.vec, 0⟩⟩) ∧
    decodeWords 0x000001D8 0x00000000 = .ok (.yieldShort ⟨0, 0, ⟨.vec, 0⟩⟩) ∧
    decodeWords 0xC90001DC 0x00000000 = .ok (.trapShort ⟨0, 0, ⟨.cons, 100⟩⟩) ∧
    decodeWords 0xC90001E0 0x00000000 = .ok (.trapBrkShort ⟨0, 0, ⟨.cons, 100⟩⟩) ∧
    decodeWords 0xC90001E4 0x00000000 = .ok (.joinShort ⟨0, 0, ⟨.cons, 100⟩⟩) :=
  by and_intros <;> rfl
theorem test_words_limm :
    decodeWords 0x01880807 0x89ABCD01 = .ok (.iaddI32Limm ⟨4, 8, ⟨.lit, 0⟩, 0x89ABCD01⟩) ∧
    decodeWords 0x0188080B 0x89ABCD02 = .ok (.iaddI64Limm ⟨4, 8, ⟨.lit, 0⟩, 0x89ABCD02⟩) ∧
    decodeWords 0x0188080F 0x89ABCD03 = .ok (.imulI24Limm ⟨4, 8, ⟨.lit, 0⟩, 0x89ABCD03⟩) ∧
    decodeWords 0x01880613 0x89ABCD04 = .ok (.icmpEqI32Limm ⟨3, 8, ⟨.lit, 0⟩, 0x89ABCD04⟩) ∧
    decodeWords 0x01880617 0x89ABCD05 = .ok (.icmpLtI32Limm ⟨3, 8, ⟨.lit, 0⟩, 0x89ABCD05⟩) ∧
    decodeWords 0x0188061B 0x89ABCD06 = .ok (.icmpLtUi32Limm ⟨3, 8, ⟨.lit, 0⟩, 0x89ABCD06⟩) ∧
    decodeWords 0x0188081F 0x89ABCD07 = .ok (.iaddrUi32Limm ⟨4, 8, ⟨.lit, 0⟩, 0x89ABCD07⟩) ∧
    decodeWords 0x01880843 0x89ABCD10 = .ok (.andB32Limm ⟨4, 8, ⟨.lit, 0⟩, 0x89ABCD10⟩) ∧
    decodeWords 0x01880847 0x89ABCD11 = .ok (.orB32Limm ⟨4, 8, ⟨.lit, 0⟩, 0x89ABCD11⟩) ∧
    decodeWords 0x0188084B 0x89ABCD12 = .ok (.xorB32Limm ⟨4, 8, ⟨.lit, 0⟩, 0x89ABCD12⟩) ∧
    decodeWords 0x0180084F 0x89ABCD13 = .ok (.movB32Limm ⟨4, 0, ⟨.lit, 0⟩, 0x89ABCD13⟩) ∧
    decodeWords 0x01800853 0x89ABCD14 = .ok (.movB64Limm ⟨4, 0, ⟨.lit, 0⟩, 0x89ABCD14⟩) ∧
    decodeWords 0x01800883 0x89ABCD20 = .ok (.smovB64Limm ⟨4, 0, ⟨.lit, 0⟩, 0x89ABCD20⟩) ∧
    decodeWords 0x01800087 0x89ABCD21 = .ok (.cbaseLimm ⟨0, 0, ⟨.lit, 0⟩, 0x89ABCD21⟩) ∧
    decodeWords 0x018808C3 0x89ABCD30 = .ok (.faddF32Limm ⟨4, 8, ⟨.lit, 0⟩, 0x89ABCD30⟩) ∧
    decodeWords 0x018808C7 0x89ABCD31 = .ok (.fmulF32Limm ⟨4, 8, ⟨.lit, 0⟩, 0x89ABCD31⟩) ∧
    decodeWords 0x018808CB 0x89ABCD32 = .ok (.fmaxF32Limm ⟨4, 8, ⟨.lit, 0⟩, 0x89ABCD32⟩) ∧
    decodeWords 0x018808CF 0x89ABCD33 = .ok (.fminF32Limm ⟨4, 8, ⟨.lit, 0⟩, 0x89ABCD33⟩) ∧
    decodeWords 0x01880943 0x89ABCD50 = .ok (.ldStackB32Limm ⟨4, 8, ⟨.lit, 0⟩, 0x89ABCD50⟩) ∧
    decodeWords 0x01880947 0x89ABCD51 = .ok (.ldTeamB32Limm ⟨4, 8, ⟨.lit, 0⟩, 0x89ABCD51⟩) ∧
    decodeWords 0x0188094B 0x89ABCD52 = .ok (.ldScrB32Limm ⟨4, 8, ⟨.lit, 0⟩, 0x89ABCD52⟩) ∧
    decodeWords 0x0188094F 0x89ABCD53 = .ok (.ldScrB64Limm ⟨4, 8, ⟨.lit, 0⟩, 0x89ABCD53⟩) ∧
    decodeWords 0x01880953 0x89ABCD54 = .ok (.ldScrB128Limm ⟨4, 8, ⟨.lit, 0⟩, 0x89ABCD54⟩) ∧
    decodeWords 0x01880957 0x89ABCD55 = .ok (.ldPeerB32Limm ⟨4, 8, ⟨.lit, 0⟩, 0x89ABCD55⟩) ∧
    decodeWords 0x000001C3 0x89ABCD70 = .ok (.braFar ⟨0, 0, ⟨.vec, 0⟩, 0x89ABCD70⟩) ∧
    decodeWords 0x188809C7 0x89ABCD71 = .ok (.callFar ⟨4, 8, ⟨.scal, 12⟩, 0x89ABCD71⟩) ∧
    decodeWords 0x018001CB 0x89ABCD72 = .ok (.joinLimm ⟨0, 0, ⟨.lit, 0⟩, 0x89ABCD72⟩) :=
  by and_intros <;> rfl

/-! ### Ill-formed terms, one for each check of `Instr.wf` and `pfxOk` -/

def pair2 : LongF := form 2 (V 3) (V 4) (V 0)
def scal2 : LongF := { form 2 (S 3) (S 4) (V 0) 0 .i64 with kd := .scal }

theorem test_wf_type : (Instr.iadd { pair2 with ty := .f32 }).wf = false := by decide
theorem test_wf_variant : (Instr.iadd { pair2 with v := 5 }).wf = false := by decide
theorem test_wf_flags : (Instr.imin { pair2 with x := 1 }).wf = false := by decide
theorem test_wf_odd_pair : (Instr.iadd (form 2 (V 3) (V 4) (V 0) 0 .i64)).wf = false := by decide
theorem test_wf_odd_destination : (Instr.icdot { form 3 (V 4) (V 5) (V 6) with ty := .ci8 }).wf = false := by decide
theorem test_wf_unused_source : (Instr.ineg (form 2 (V 3) (V 4) (V 0))).wf = false := by decide
theorem test_wf_unused_destination : (Instr.exit { bare with d := 1 }).wf = false := by decide
theorem test_wf_scalar_index : (Instr.imin (form 2 (S 75) (V 4) (V 0))).wf = false := by decide
theorem test_wf_vector_in_scalar : (Instr.sadd { scal2 with a := V 2 }).wf = false := by decide
theorem test_wf_lane_in_scalar : (Instr.sadd { scal2 with a := S 64 }).wf = false := by decide
theorem test_wf_data_not_vector : (Instr.st { form 4 (L 0) (L 8) (V 0) 2 .b128 with kd := .scal }).wf = false := by decide
theorem test_wf_chute_not_literal : (Instr.pop (form 2 (V 0) (V 1) (V 0) 0 .b32)).wf = false := by decide
theorem test_wf_chute_range : (Instr.pop (form 2 (V 0) (L 4) (V 0) 0 .b32)).wf = false := by decide
theorem test_wf_handle_kind : (Instr.mma (form 1 (S 2) (V 3) (V 0))).wf = false := by decide
theorem test_wf_handle_range : (Instr.mma (form 8 (V 2) (V 3) (V 0))).wf = false := by decide
theorem test_wf_matrix_widths : (Instr.mma (form 1 (V 2) (V 3) (V 0) 0 .i64)).wf = false := by decide
theorem test_wf_destination_kind : (Instr.fadd { pair2 with ty := .f32, kd := .pred }).wf = false := by decide
theorem test_wf_predicate_range : (Instr.icmp { pair2 with kd := .pred, d := 8 }).wf = false := by decide
theorem test_wf_scalar_range : (Instr.sadd { scal2 with d := 64 }).wf = false := by decide
theorem test_wf_never : (Instr.iadd { pair2 with pn := true }).wf = false := by decide
theorem test_wf_scalar_predicated : (Instr.sadd { scal2 with pg := 1 }).wf = false := by decide
theorem test_wf_predicate_source : (Instr.plog { form 2 (V 1) (V 2) (V 0) with kd := .pred, a := V 8 }).wf = false := by decide
theorem test_wf_barrier_range : (Instr.bar (form 0 (V 0) (L 16) (V 0))).wf = false := by decide
theorem test_wf_control_register : (Instr.csrRd { form 4 (V 8) (V 0) (V 0) with kd := .scal }).wf = false := by decide
theorem test_wf_immediate_b : (Instr.iaddI32Limm ⟨2, 3, L 1, 7⟩).wf = false := by decide
theorem test_wf_immediate_single : (Instr.movB32Limm ⟨2, 3, L 0, 7⟩).wf = false := by decide
theorem test_wf_far_branch : (Instr.braFar ⟨1, 0, V 0, 7⟩).wf = false := by decide
theorem test_wf_far_call : (Instr.callFar ⟨2, 1, L 3, 7⟩).wf = false := by decide
theorem test_pfx_rounding : pfxOk (.iadd pair2) { mod := some ⟨1, false, false, 0, false, 0, false⟩ } = false := by decide
theorem test_pfx_carry_saturates : pfxOk (.iadd { pair2 with v := 2 }) { mod := some ⟨0, true, false, 0, false, 0, false⟩ } = false := by decide
theorem test_pfx_routed_literal : pfxOk (.iadd { pair2 with b := L 1 }) { route := some ⟨0, 1, 0, 0⟩ } = false := by decide
theorem test_pfx_step_literal : pfxOk (.iadd { pair2 with b := L 1 }) { rep := some ⟨3, 1, 1, 1, 0⟩ } = false := by decide
theorem test_pfx_step_predicate : pfxOk (.icmp { pair2 with kd := .pred }) { rep := some ⟨3, 1, 1, 1, 0⟩ } = false := by decide
theorem test_pfx_bare_far_call : pfxOk (.callFar farForm) {} = false := by decide
theorem test_pfx_guarded_word : pfxOk (.st ⟨4, .vec, L 0, V 6, V 0, 0, false, 2, .b64, 0⟩) { guard := some ⟨0, false⟩ } = false := by decide
theorem test_wf_well_formed : (Instr.iadd pair2).wf = true ∧ (Instr.sadd scal2).wf = true ∧ (Instr.fadd { pair2 with ty := .f32 }).wf = true ∧
    (Instr.mma (form 1 (V 2) (V 3) (V 0))).wf = true ∧ (Instr.pop (form 2 (V 0) (L 3) (V 0) 0 .b32)).wf = true ∧ (Instr.bar (form 0 (V 0) (L 15) (V 0))).wf = true ∧
    (Instr.plog { form 2 (V 1) (V 2) (V 0) with kd := .pred }).wf = true ∧ (Instr.csrRd { form 4 (V 7) (V 0) (V 0) with kd := .scal }).wf = true ∧
    (Instr.icmp { pair2 with kd := .pred, d := 7 }).wf = true ∧ (Instr.exit bare).wf = true ∧ (Instr.iaddI32Limm ⟨2, 3, L 0, 7⟩).wf = true ∧
    (Instr.movB32Limm ⟨2, 0, L 0, 7⟩).wf = true ∧ (Instr.braFar ⟨0, 0, V 0, 7⟩).wf = true ∧ (Instr.callFar ⟨2, 1, V 3, 7⟩).wf = true ∧
    pfxOk (.iadd pair2) { mod := some ⟨0, true, false, 0, false, 0, false⟩, route := some ⟨1, 1, 0, 0⟩, rep := some ⟨3, 1, 1, 1, 0⟩ } = true ∧ (Instr.st ⟨4, .scal, L 0, V 8, V 0, 0, false, 2, .b128, 0⟩).wf = true := by decide

/-! ### One instruction on a small state; the values are the spec's own (08 R143, R147, R153, 13 R229) or an exact sum -/

def resultOf (o : Host.Outcome State Fault Refusal) : State :=
  match o with
  | .next t => t
  | _ => State.reset
/-- The machine with the given registers in every thread. -/
def regs (l : List (Nat × Word)) : State := withThreads (fun _ t => { t with v := l.foldl (fun v e => v.set e.1 e.2) t.v }) base
/-- Register `n` of thread 3 after an instruction on the machine with the given registers. -/
def after (i : Instr) (l : List (Nat × Word)) : Thread := thread3 (resultOf (exec i (regs l)))

theorem test_carry_out : (after (.iadd { form 4 (V 2) (V 6) (V 0) 3 with x := 3 }) [(2, 0xFFFFFFFF), (6, 1)]).reg 4 = 0 ∧
    (after (.iadd { form 4 (V 2) (V 6) (V 0) 3 with x := 3 }) [(2, 0xFFFFFFFF), (6, 1)]).pred 3 = true := by decide +kernel
theorem test_negate : (after (.ineg (form 4 (V 2) (V 0) (V 0))) [(2, 0x80000000)]).reg 4 = 0x80000000 ∧
    (after (.ineg (form 4 (V 2) (V 0) (V 0) 1)) [(2, 0x80000000)]).reg 4 = 0x7FFFFFFF := by decide +kernel
theorem test_complex_dot :
    let t := after (.icdot { form 10 (V 4) (V 6) (V 8) 0 .ci8 with x := 1 }) [(4, 0x04FF0203), (6, 0x0502FE01), (8, 100), (9, 0xFFFFFFCE)]
    t.reg 10 = 0x75 ∧ t.reg 11 = 0xFFFFFFE3 := by decide +kernel
theorem test_complex_dot_plain :
    let t := after (.icdot (form 10 (V 4) (V 6) (V 8) 0 .ci8)) [(4, 0x04FF0203), (6, 0x0502FE01), (8, 100), (9, 0xFFFFFFCE)]
    t.reg 10 = 0x55 ∧ t.reg 11 = 0xFFFFFFCD := by decide +kernel
theorem test_bytes_reversed : (after (.bfld (form 4 (V 2) (V 3) (V 0) 2 .b32)) [(2, 0x11223344), (3, 0x0123)]).reg 4 = 0x44332211 := by decide +kernel
theorem test_byte_extended : (after (.bfld (form 4 (V 2) (V 3) (V 0) 2 .b32)) [(2, 0x112233F4), (3, 0x8880)]).reg 4 = 0xFFFFFFF4 := by decide +kernel
theorem test_widened_half : (after (.cvtF32F16Short ⟨4, 2, V 0⟩) [(2, 0x3E00)]).reg 4 = 0x3FC00000 := by decide +kernel
theorem test_float_sum : (after (.fadd (form 4 (V 2) (V 3) (V 0) 0 .f32)) [(2, 0x3F800000), (3, 0x40000000)]).reg 4 = 0x40400000 := by decide +kernel
/-- One step from reset with `fmax.f32 v6, v6, v6` placed: its threads stand at the next word. -/
theorem test_step_advances : (thread3 (resultOf (step fetched))).pc = 4 := by decide +kernel

/-- SHA-256 of the bytes of "abc", the example of its standard; twice the base point of P-256, from its standard (R135). -/
theorem test_sha256 : sha256 [0x61, 0x62, 0x63] = beBytes 32 0xBA7816BF8F01CFEA414140DE5DAE2223B00361A396177A9CB410FF61F20015AD := by decide +kernel
theorem test_double_base : Point.add basePoint basePoint = some (0x7CF27B188D034F7E8A52380304B51AC3C08969E277F21B35A60B48FC47669978,
    0x07775510DB8ED040293D9AC69F7430DBBA7DADE63CE982299E04B79D227873D1) := by decide +kernel
/-- The S-box of FIPS 197, section 5.1.1: 53 becomes ED. -/
theorem test_sbox : sbox 0x53 = 0xED := by decide +kernel
/-! ### Hypotheses that are met

Each theorem gives the hypotheses of one clause of the statement it is named after, at concrete states and operands. -/

/-! #### Flits, tokens and windows -/

/-- A flit's last four bytes are what its words say: `n` modulo 2^32. -/
theorem flit_tail (l : List Byte) (n : Nat) (h : l.length = 124) : le (l ++ leBytes 4 n) 124 4 = n % 2 ^ 32 ∧ (l ++ leBytes 4 n).take 124 = l := by
  refine ⟨?_, by simp [h]⟩
  have e : (l ++ leBytes 4 n).drop 124 = leBytes 4 n := by simp [h]
  rw [le, e]
  simp only [leBytes, List.take_succ_cons, List.take_zero, leNat, BitVec.toNat_ofNat]
  omega
theorem flit_bad : (crc32c (badFlit.take 124)).toNat ≠ le badFlit 124 4 := by
  unfold badFlit
  obtain ⟨a, b⟩ := flit_tail (List.replicate 124 0) ((crc32c (List.replicate 124 0)).toNat + 1) (by simp)
  rw [a, b]
  omega
/-- A flit for a port: its header's number, a body of zeros, the tag of both under the port's keys or, with `b` not 0, another, and the CRC. -/
def flitNonce (s : State) (p : Nat) : List Byte := beBytes 12 (s.comingNonce p).toNat
def flitKey (s : State) (p : Nat) : List Byte :=
  beBytes 32 (Config.portKey (s.port p).secret ((s.portPeer p).getD 0) (s.partnerPort p) (s.port p).rxGen).toNat
def flitTag (s : State) (p n : Nat) : List Byte :=
  (gcmTag (roundKeys (flitKey s p)) (flitNonce s p) (leBytes 8 n) (List.replicate 104 0)).take 12
def sealedFlit (s : State) (p n : Nat) (b : Byte) : List Byte :=
  let x := leBytes 8 n ++ List.replicate 104 0 ++ (flitTag s p n).map (· + b)
  x ++ leBytes 4 (crc32c x).toNat
theorem length_flitTag (s : State) (p n : Nat) : (flitTag s p n).length = 12 := by
  rw [flitTag, List.length_take, Laws.length_gcmTag _ _ _ _ (by simp [flitKey, beBytes])]
  rfl
theorem sealed_good (s : State) (p n : Nat) (b : Byte) :
    (sealedFlit s p n b).length = 128 ∧ crcGood (sealedFlit s p n b) ∧ (sealedFlit s p n b).take 8 = leBytes 8 n ∧
      ((sealedFlit s p n b).drop 8).take 104 = List.replicate 104 0 ∧ ((sealedFlit s p n b).drop 112).take 12 = (flitTag s p n).map (· + b) := by
  have l := length_flitTag s p n
  have h : (leBytes 8 n ++ List.replicate 104 (0 : Byte) ++ (flitTag s p n).map (· + b)).length = 124 := by simp [leBytes, l]
  refine ⟨?_, ?_, ?_, ?_, ?_⟩
  · rw [sealedFlit, List.length_append, h]
    simp [leBytes]
  · obtain ⟨x, y⟩ := flit_tail _ (crc32c (leBytes 8 n ++ List.replicate 104 0 ++ (flitTag s p n).map (· + b))).toNat h
    unfold crcGood sealedFlit
    rw [x, y]
    have := (crc32c (leBytes 8 n ++ List.replicate 104 0 ++ (flitTag s p n).map (· + b))).isLt
    omega
  · simp only [sealedFlit, List.append_assoc]
    exact List.take_left' (by simp [leBytes])
  · simp only [sealedFlit, List.append_assoc]
    rw [List.drop_left' (by simp [leBytes]), List.take_left' (by simp)]
  · simp only [sealedFlit, List.append_assoc]
    rw [← List.append_assoc, List.drop_left' (by simp [leBytes]), List.take_left' (by simp [l])]
theorem sealed_opens (s : State) (p n : Nat) : (s.openFlit p (sealedFlit s p n 0)).isSome = true := by
  obtain ⟨-, -, h8, h104, h12⟩ := sealed_good s p n 0
  unfold State.openFlit
  simp only [tagBytes, h8, h104, h12]
  rw [show (flitTag s p n).map (· + (0 : Byte)) = flitTag s p n from by simp]
  simp [flitTag, directionKeys, flitKey, flitNonce]
theorem sealed_not (s : State) (p n : Nat) : s.openFlit p (sealedFlit s p n 1) = none := by
  obtain ⟨-, -, h8, h104, h12⟩ := sealed_good s p n 1
  unfold State.openFlit
  simp only [tagBytes, h8, h104, h12]
  have e : flitTag s p n ≠ (flitTag s p n).map (· + (1 : Byte)) := by
    have l := length_flitTag s p n
    match h : flitTag s p n, l with
    | x :: r, _ =>
      intro e
      have := (List.cons.inj e).1
      bv_omega
  rw [if_neg (by simpa [flitTag, directionKeys, flitKey, flitNonce] using e)]
theorem sealed_fields (s : State) (p n : Nat) (b : Byte) (h : n < 2 ^ 64) : le (sealedFlit s p n b) 0 8 = n := by
  rw [le, List.drop_zero, (sealed_good s p n b).2.2.1]
  simp only [leBytes, leNat, BitVec.toNat_ofNat]
  omega
theorem test_meets_FabricLinks_badCrc : flitComes (portUp id) 0 badFlit ∧ ¬crcGood badFlit :=
  ⟨⟨by decide +kernel, by simp [badFlit, leBytes], by decide +kernel⟩, flit_bad⟩
theorem sealed_comes (s : State) (p n : Nat) (b : Byte) (h : (s.port p).trained = true) (c : (s.port p).count ≤ 2 ^ 64 - 2) :
    flitComes s p (sealedFlit s p n b) := ⟨h, (sealed_good s p n b).1, c⟩
theorem test_meets_FabricLinks_badTag : flitComes (portUp id) 0 (sealedFlit (portUp id) 0 0 1) ∧ crcGood (sealedFlit (portUp id) 0 0 1) ∧
    (portUp id).openFlit 0 (sealedFlit (portUp id) 0 0 1) = none :=
  ⟨sealed_comes _ _ _ _ (by decide +kernel) (by decide +kernel), (sealed_good _ _ _ _).2.1, sealed_not _ _ _⟩
/-- A good flit of a kind: 0 with the number expected, 0 with another, 3. -/
theorem sealed_is (n kind : Nat) (h : n < 2 ^ 64) (k : n / 2 ^ 36 % 16 = kind) : ∃ body, goodFlit (portUp id) 0 (sealedFlit (portUp id) 0 n 0) kind body := by
  obtain ⟨body, e⟩ := Option.isSome_iff_exists.mp (sealed_opens (portUp id) 0 n)
  refine ⟨body, sealed_comes _ _ _ _ (by decide +kernel) (by decide +kernel), (sealed_good _ _ _ _).2.1, e, ?_, ?_⟩
  · rw [kindOf, sealed_fields _ _ _ _ h, k]
  · rw [show ((portUp id).port 0).replay = [] from by decide +kernel]
    exact fun e he => absurd he (List.not_mem_nil)
theorem test_meets_FabricLinks_data : ∃ body, goodFlit (portUp id) 0 (sealedFlit (portUp id) 0 0 0) 0 body ∧
    ((portUp id).port 0).rxSeq = seqOf (sealedFlit (portUp id) 0 0 0) := by
  obtain ⟨body, h⟩ := sealed_is 0 0 (by decide) (by decide)
  refine ⟨body, h, ?_⟩
  rw [seqOf, sealed_fields _ _ _ _ (by decide)]
  decide +kernel
theorem test_meets_FabricLinks_again : ∃ body, goodFlit (portUp id) 0 (sealedFlit (portUp id) 0 (2 ^ 52) 0) 0 body ∧
    ((portUp id).port 0).rxSeq ≠ seqOf (sealedFlit (portUp id) 0 (2 ^ 52) 0) := by
  obtain ⟨body, h⟩ := sealed_is (2 ^ 52) 0 (by decide) (by decide)
  refine ⟨body, h, ?_⟩
  rw [seqOf, sealed_fields _ _ _ _ (by decide)]
  decide +kernel
theorem test_meets_FabricLinks_switch : ∃ body, goodFlit (portUp id) 0 (sealedFlit (portUp id) 0 (3 * 2 ^ 36) 0) 3 body :=
  sealed_is (3 * 2 ^ 36) 3 (by decide) (by decide)
theorem test_meets_FabricLinks_ack : ∃ body, flitComes acked 0 (sealedFlit acked 0 (2 * 2 ^ 36) 0) ∧ crcGood (sealedFlit acked 0 (2 * 2 ^ 36) 0) ∧
    acked.openFlit 0 (sealedFlit acked 0 (2 * 2 ^ 36) 0) = some body ∧ kindOf (sealedFlit acked 0 (2 * 2 ^ 36) 0) = 2 ∧
    (acked.port 0).replay = [] ++ ⟨0, .control, 0, 1⟩ :: [] ∧ (0 : BitVec 12) = ackOf (sealedFlit acked 0 (2 * 2 ^ 36) 0) := by
  obtain ⟨body, e⟩ := Option.isSome_iff_exists.mp (sealed_opens acked 0 (2 * 2 ^ 36))
  have f := sealed_fields acked 0 (2 * 2 ^ 36) 0 (by decide)
  exact ⟨body, sealed_comes _ _ _ _ (by decide +kernel) (by decide +kernel), (sealed_good _ _ _ _).2.1, e, by rw [kindOf, f]; decide, by decide +kernel,
    by rw [ackOf, f]; decide⟩
/-- A flit that is sealed as the port expects. -/
theorem test_meets_FabricLinks_opens :
    let f : Flit := ⟨0, 0, 0, .control, (portUp id).comingNonce 0, ((portUp id).port 0).secret⟩
    (portUp id).boot.n ≤ 16 ∧ (portUp id).portPeer 0 = some 1 ∧ f.nonce = (portUp id).comingNonce 0 ∧ f.secret = ((portUp id).port 0).secret := by
  refine ⟨by decide +kernel, by decide +kernel, rfl, rfl⟩
/-- A token's low bits are its own, and its code is the hash of them. -/
theorem token_low (low : BitVec 40) (src pos k n : Nat) (h : k + n ≤ 40) : (tokenOf low src pos).extractLsb' k n = low.extractLsb' k n := by
  unfold tokenOf
  ext i hi
  simp only [BitVec.getElem_extractLsb', BitVec.getLsbD_append]
  rw [if_pos (by omega)]
theorem token_code (low : BitVec 40) (src pos : Nat) : (tokenOf low src pos).extractLsb' 40 24 =
    (sipHash24 (Config.tokenKey 0 src) (BitVec.ofNat 64 (low.toNat + 2 ^ 40 * src + 2 ^ 44 * pos))).extractLsb' 0 24 := by
  unfold tokenOf
  ext i hi
  simp only [BitVec.getElem_extractLsb', BitVec.getLsbD_append]
  rw [if_neg (by omega), show 40 + i - 40 = i from by omega]
  simp [hi]
/-- The checks of a request with that token: its code is right. -/
theorem token_checks (s : State) (op : PeerOp) (seq : Word) (h : s.boot.position = 0) (k : s.boot.keyDraw = 0) :
    firstFailure (ingressChecks s (request1 op seq (tokenOf tokenLow 1 0))) =
      firstFailure ((ingressChecks s (request1 op seq tokenBits)).drop 1) := by
  have e1 := token_low tokenLow 1 0 0 40 (by omega)
  have e2 := token_low tokenLow 1 0 0 20 (by omega)
  have e3 := token_low tokenLow 1 0 20 12 (by omega)
  have e4 := token_low tokenLow 1 0 32 8 (by omega)
  have e5 := token_code tokenLow 1 0
  unfold ingressChecks
  simp only [request1, e1, e2, e3, e4, e5, h, k]
  rw [show BitVec.extractLsb' 0 40 tokenLow = tokenLow from by decide]
  simp only [bne_self_eq_false, firstFailure, Bool.false_eq_true, if_false, List.drop_succ_cons, List.drop_zero]
  rfl

theorem test_meets_FabricRecovery_rejected : isMessage (request1 .load 0 (tokenOf tokenLow 1 0)).op = false ∧
    firstFailure (ingressChecks base (request1 .load 0 (tokenOf tokenLow 1 0))) = some 2 :=
  ⟨rfl, (token_checks _ _ _ rfl rfl).trans (by decide +kernel)⟩
theorem places_eq (s : State) (asid va : Nat) (r r' : PeerRequest) (n : Nat) (op : PeerOp) (h : r.len = n) (h' : r'.len = n) (k : r.op = op) (k' : r'.op = op) :
    s.windowPlaces asid va r = s.windowPlaces asid va r' := by
  unfold State.windowPlaces
  rw [h, h', k, k']
/-- The place that window 0 gives a request with that token. -/
theorem token_places (op : PeerOp) (h : op = .load ∨ op = .store [1, 2, 3, 4] ∨ op = .atom 0 .i32 1 ∨ op = .cas 0 1 ∨ op = .arm) :
    let r := request1 op 0 (tokenOf tokenLow 1 0)
    let w : BitVec 128 := tget windowed.windows (r.token.extractLsb' 0 20).toNat 0
    windowed.windowPlaces (w.extractLsb' 103 12).toNat ((w.extractLsb' 0 48).toNat * 65536 + r.offset) r = some [(8, r.len)] := by
  intro r w
  have e : w = window0 := by
    show tget windowed.windows ((tokenOf tokenLow 1 0).extractLsb' 0 20).toNat 0 = window0
    rw [token_low tokenLow 1 0 0 20 (by omega)]
    decide +kernel
  rw [e]
  rcases h with rfl | rfl | rfl | rfl | rfl
  · show windowed.windowPlaces _ (_ + 8) _ = some [(8, 4)]
    rw [places_eq _ _ _ r (request1 .load 0 tokenBits) 4 .load rfl rfl rfl rfl]
    decide +kernel
  · show windowed.windowPlaces _ (_ + 8) _ = some [(8, 4)]
    rw [places_eq _ _ _ r (request1 (.store [1, 2, 3, 4]) 0 tokenBits) 4 (.store [1, 2, 3, 4]) rfl rfl rfl rfl]
    decide +kernel
  · show windowed.windowPlaces _ (_ + 8) _ = some [(8, 4)]
    rw [places_eq _ _ _ r (request1 (.atom 0 .i32 1) 0 tokenBits) 4 (.atom 0 .i32 1) rfl rfl rfl rfl]
    decide +kernel
  · show windowed.windowPlaces _ (_ + 8) _ = some [(8, 4)]
    rw [places_eq _ _ _ r (request1 (.cas 0 1) 0 tokenBits) 4 (.cas 0 1) rfl rfl rfl rfl]
    decide +kernel
  · show windowed.windowPlaces _ (_ + 8) _ = some [(8, 4)]
    rw [places_eq _ _ _ r (request1 .arm 0 tokenBits) 4 .arm rfl rfl rfl rfl]
    decide +kernel
theorem test_meets_FabricRecovery_load :
    let r := request1 .load 0 (tokenOf tokenLow 1 0)
    let w : BitVec 128 := tget windowed.windows (r.token.extractLsb' 0 20).toNat 0
    r.op = .load ∧ firstFailure (ingressChecks windowed r) = none ∧
      windowed.windowPlaces (w.extractLsb' 103 12).toNat ((w.extractLsb' 0 48).toNat * 65536 + r.offset) r = some [(8, r.len)] :=
  ⟨rfl, (token_checks _ _ _ rfl rfl).trans (by decide +kernel), token_places _ (.inl rfl)⟩
theorem test_meets_FabricRecovery_store :
    let r := request1 (.store [1, 2, 3, 4]) 0 (tokenOf tokenLow 1 0)
    let w : BitVec 128 := tget windowed.windows (r.token.extractLsb' 0 20).toNat 0
    r.op = .store [1, 2, 3, 4] ∧ [1, 2, 3, 4].length = r.len ∧ firstFailure (ingressChecks windowed r) = none ∧
      windowed.windowPlaces (w.extractLsb' 103 12).toNat ((w.extractLsb' 0 48).toNat * 65536 + r.offset) r = some [(8, r.len)] :=
  ⟨rfl, rfl, (token_checks _ _ _ rfl rfl).trans (by decide +kernel), token_places _ (.inr (.inl rfl))⟩

theorem test_meets_FabricRecovery_atom :
    let r := request1 (.atom 0 .i32 1) 0 (tokenOf tokenLow 1 0)
    let w : BitVec 128 := tget windowed.windows (r.token.extractLsb' 0 20).toNat 0
    r.op = .atom 0 .i32 1 ∧ firstFailure (ingressChecks windowed r) = none ∧ windowed.badAt 8 r.len = false ∧
      windowed.windowPlaces (w.extractLsb' 103 12).toNat ((w.extractLsb' 0 48).toNat * 65536 + r.offset) r = some [(8, r.len)] :=
  ⟨rfl, (token_checks _ _ _ rfl rfl).trans (by decide +kernel), by decide +kernel, token_places _ (.inr (.inr (.inl rfl)))⟩

theorem test_meets_FabricRecovery_cas :
    let r := request1 (.cas 0 1) 0 (tokenOf tokenLow 1 0)
    let w : BitVec 128 := tget windowed.windows (r.token.extractLsb' 0 20).toNat 0
    r.op = .cas 0 1 ∧ firstFailure (ingressChecks windowed r) = none ∧ windowed.badAt 8 r.len = false ∧
      windowed.windowPlaces (w.extractLsb' 103 12).toNat ((w.extractLsb' 0 48).toNat * 65536 + r.offset) r = some [(8, r.len)] :=
  ⟨rfl, (token_checks _ _ _ rfl rfl).trans (by decide +kernel), by decide +kernel, token_places _ (.inr (.inr (.inr (.inl rfl))))⟩
theorem test_meets_FabricRecovery_arm :
    let r := request1 .arm 0 (tokenOf tokenLow 1 0)
    let w : BitVec 128 := tget windowed.windows (r.token.extractLsb' 0 20).toNat 0
    r.op = .arm ∧ firstFailure (ingressChecks windowed r) = none ∧
      windowed.windowPlaces (w.extractLsb' 103 12).toNat ((w.extractLsb' 0 48).toNat * 65536 + r.offset) r = some [(8, r.len)] :=
  ⟨rfl, (token_checks _ _ _ rfl rfl).trans (by decide +kernel), token_places _ (.inr (.inr (.inr (.inr rfl))))⟩
/-- A window on a page that nothing maps. -/
def unmappedWindow : State := { mapped with windows := [(0, window0 + 0x2000)] }
theorem test_meets_FabricRecovery_unmapped :
    let r := request1 .load 0 (tokenOf tokenLow 1 0)
    let w : BitVec 128 := tget unmappedWindow.windows (r.token.extractLsb' 0 20).toNat 0
    isMessage r.op = false ∧ firstFailure (ingressChecks unmappedWindow r) = none ∧
      unmappedWindow.windowPlaces (w.extractLsb' 103 12).toNat ((w.extractLsb' 0 48).toNat * 65536 + r.offset) r = none := by
  intro r w
  refine ⟨rfl, (token_checks _ _ _ rfl rfl).trans (by decide +kernel), ?_⟩
  rw [show w = window0 + 0x2000 from by
    show tget unmappedWindow.windows ((tokenOf tokenLow 1 0).extractLsb' 0 20).toNat 0 = _
    rw [token_low tokenLow 1 0 0 20 (by omega)]
    decide +kernel]
  rw [places_eq _ _ _ (request1 .load 0 (tokenOf tokenLow 1 0)) (request1 .load 0 tokenBits) 4 .load rfl rfl rfl rfl]
  decide +kernel

/-! #### Pages: the memory core's choice of a frame is opaque, and every choice meets the hypotheses -/

def faultSpace : Space := (faulted.space? 1).getD ⟨1, 0, [], []⟩
/-- The range of the reserved page. -/
def range1 : Range := ⟨0x20010000, 0x20020000, 0, true, true⟩
theorem test_meets_PagesAndTables_service : ∃ z : State,
    (faulted.core 0).faults.find? (fun e => e.asid == 1 && e.page == 0x2001) = some fault1 ∧ fault1.stackOf = none ∧
      (let hits := faulted.parkedOn 0 (faulted.onEntry fault1)
       faulted.verdict 1 0x2001 0 (fun g => if hits.isEmpty then (if fault1.write then g.w else g.r) else hits.any (Parked.allowed g)) =
         .map z range1) := by
  obtain ⟨f, hf⟩ := Option.isSome_iff_exists.mp (Laws.freeFrame_isSome faulted 0 (by decide) (by decide +kernel))
  have map : ((faulted.zeroFrame f).mapPage 1 (0x2001 * pageSize) (leafOf f 0 true true)).isSome = true := by
    have e : (faulted.zeroFrame f).space? 1 = faulted.space? 1 := by simp only [State.space?, State.zeroFrame]
    have k : faulted.space? 1 = some faultSpace := by decide +kernel
    rw [State.mapPage, e, k, Option.bind_some, Laws.mapAt_isSome (faulted.zeroFrame f) faulted _ _ 0 _ _ _ _ (by simp only [State.zeroFrame]) (by simp only [State.zeroFrame])]
    decide +kernel
  obtain ⟨z, hz⟩ := Option.isSome_iff_exists.mp map
  refine ⟨z, by decide +kernel, by decide +kernel, ?_⟩
  have t : faulted.translate 1 (BitVec.ofNat 64 (0x2001 * pageSize)) = .notPresent := by decide +kernel
  have r : (faulted.space? 1).bind (fun x => x.rangeOf (0x2001 * pageSize)) = some range1 := by decide +kernel
  have w : (if (faulted.parkedOn 0 (faulted.onEntry fault1)).isEmpty then (if fault1.write then range1.w else range1.r)
      else (faulted.parkedOn 0 (faulted.onEntry fault1)).any (Parked.allowed range1)) = true := by decide +kernel
  have m : faulted.mapFresh 1 0x2001 range1 (some 0) (List.range 12) = some (z, leafOf f 0 true true) := by
    have a : faulted.anyFrame range1.kind.toNat (some 0) (List.range 12) = some f := by
      rw [State.anyFrame, show range1.kind.toNat = 0 from rfl]
      simp [hf]
    rw [State.mapFresh, a, Option.bind_some]
    show ((faulted.zeroFrame f).mapPage 1 (0x2001 * pageSize) (leafOf f 0 true true)).map _ = _
    rw [hz]
    rfl
  simp only [State.verdict, t, r, w, m, Bool.not_true, Bool.false_eq_true, if_false]
theorem test_meets_PagesAndTables_stack : ∃ f,
    (stackFault.core 0).faults.find? (fun e => e.asid == 1 && e.page == 3) = some ⟨1, 3, true, some 1⟩ ∧ stackFault.freeFrame 0 0 = some f := by
  obtain ⟨f, hf⟩ := Option.isSome_iff_exists.mp (Laws.freeFrame_isSome stackFault 0 (by decide) (by decide +kernel))
  exact ⟨f, by decide +kernel, hf⟩
theorem test_meets_PreemptAndResume_area : ∃ fs z, stopping.takeFrames (team1 stopping).die (team1 stopping).areaPages = some (fs, z) := by
  obtain ⟨r, h⟩ := Option.isSome_iff_exists.mp (Laws.takeFrames_isSome stopping (team1 stopping).die (team1 stopping).areaPages
    (by decide +kernel) (by decide +kernel))
  exact ⟨r.1, r.2, h⟩

/-! #### Operand forms, brackets, states of a new group, threads and the memories -/

def rform : LongF := vForm
def withRoute (r : RouteP) (s : State) : State := { s with issue := { s.issue with pfx := { s.issue.pfx with route := some r } } }
/-- A bank of 200 constants; routes rotate by 1 (A), and read lane 5 (B), which only a full group has in the trick. -/
def banked : State := withKernel (fun k => { k with constCount := 200 }) base
def routed (fill : BitVec 2) : State := withRoute ⟨1, 0x45, 0, fill⟩ base
theorem test_meets_OperandForms_beyond : (theCtx banked rform.fields).l.kernel.constCount ≤ 128 * (theCtx banked rform.fields).g.window.toNat + 200 := by
  decide +kernel
theorem test_meets_OperandForms_inBank : 128 * (theCtx banked rform.fields).g.window.toNat + 199 < (theCtx banked rform.fields).l.kernel.constCount := by
  decide +kernel
theorem test_meets_OperandForms_scalars : (0 : Nat) < 64 ∧ 63 < 64 := by decide
theorem test_meets_OperandForms_unrouted : (theCtx (routed 0) rform.fields).routeByte 2 = 0 := by decide +kernel
theorem test_meets_OperandForms_routed :
    (theCtx (routed 0) rform.fields).routeByte 0 ≠ 0 ∧
      (theCtx (routed 0) rform.fields).tids.contains (routeFrom (theCtx (routed 0) rform.fields) 0 7) = true := by
  decide +kernel
theorem test_meets_OperandForms_filled :
    (theCtx (onlyThree (routed 1)) rform.fields).routeByte 1 ≠ 0 ∧
      (theCtx (onlyThree (routed 1)) rform.fields).tids.contains (routeFrom (theCtx (onlyThree (routed 1)) rform.fields) 1 3) = false ∧
      (theCtx (onlyThree (routed 1)) rform.fields).fill = 1 := by
  decide +kernel
theorem test_meets_OperandForms_zeroed :
    (theCtx (onlyThree (routed 0)) rform.fields).routeByte 1 ≠ 0 ∧
      (theCtx (onlyThree (routed 0)) rform.fields).tids.contains (routeFrom (theCtx (onlyThree (routed 0)) rform.fields) 1 3) = false ∧
      (theCtx (onlyThree (routed 0)) rform.fields).fill = 0 := by
  decide +kernel
theorem test_meets_ThreadWrites_predicate : (0 : Nat) < 8 ∧ 7 < 8 := by decide
/-- Bracket 0 is lo 0, hi 100 with the same values; the iteration counter holds `n`. -/
def bracketed (n : Nat) : Thread := { thread3 base with b := [⟨2, 100, 0, 100, 0⟩, Bracket.zero, Bracket.zero, Bracket.zero], repctr := n }
def stepping (y : Int) (tol : BitVec 8) (clamp : Bool) : InvEval :=
  { evalEntry with y := y, pfx := { invP with dec := false, br := 0, tol := tol, lim := 5, dom := 0, clamp := clamp } }
def low0 : Int := ordIn 0 ((bracketed 0).bracket 0).lo
def high0 : Int := ordIn 0 ((bracketed 0).bracket 0).hi
theorem test_meets_Bisection_below : ∀ c ∈ [true, false],
    (stepping (-1) 0 c).key (stepping (-1) 0 c).y < (stepping (-1) 0 c).key (ordIn 0 ((bracketed 0).bracket (stepping (-1) 0 c).br).flo) ∧
      (stepping (-1) 0 c).pfx.clamp = c := by
  decide +kernel
theorem test_meets_Bisection_above : ∀ c ∈ [true, false],
    ¬(stepping 101 0 c).key (stepping 101 0 c).y < (stepping 101 0 c).key (ordIn 0 ((bracketed 0).bracket (stepping 101 0 c).br).flo) ∧
      (stepping 101 0 c).key (ordIn 0 ((bracketed 0).bracket (stepping 101 0 c).br).fhi) < (stepping 101 0 c).key (stepping 101 0 c).y ∧
      (stepping 101 0 c).pfx.clamp = c := by
  decide +kernel
def inside (e : InvEval) : Prop :=
  ¬e.key e.y < e.key (ordIn 0 ((bracketed 0).bracket e.br).flo) ∧ ¬e.key (ordIn 0 ((bracketed 0).bracket e.br).fhi) < e.key e.y
theorem test_meets_Bisection_near : inside (stepping 50 99 false) ∧ high0 - low0 ≤ (stepping 50 99 false).pfx.tol.toNat + 1 := by
  unfold inside
  decide +kernel
theorem test_meets_Bisection_limit :
    inside (stepping 50 0 false) ∧ (stepping 50 0 false).pfx.tol.toNat + 1 < high0 - low0 ∧
      (bracketed 6).repctr = (stepping 50 0 false).pfx.lim.toNat + 1 := by
  unfold inside
  decide +kernel
theorem test_meets_Bisection_trial :
    inside (stepping 50 0 false) ∧ (stepping 50 0 false).pfx.tol.toNat + 1 < high0 - low0 ∧
      (bracketed 5).repctr ≠ (stepping 50 0 false).pfx.lim.toNat + 1 := by
  unfold inside
  decide +kernel
theorem test_meets_PreemptAndResume_blocked :
    ∃ k n, ({ thread3 base with status := .blocked .mwait 0 } : Thread).status = .blocked k n ∧ k ≠ .tret := ⟨.mwait, 0, rfl, by decide⟩
theorem test_meets_ResetState_thread :
    ∃ t, (Group.start 1 1 0 0 0 8 128 0 0 0 0 false 0 [] 0 0 0 2).threads[7]? = some t := ⟨_, rfl⟩
theorem test_meets_ClocksPowerHealth_gate :
    mayGate base ∧ (List.replicate 32 wakeEntry).length ≤ 32 ∧
      ∀ e ∈ List.replicate 32 wakeEntry, (BitVec.extractLsb' 257 7 e).toNat ≤ 112 :=
  ⟨by unfold mayGate; and_intros <;> decide +kernel, by simp, fun e h => by
    rw [List.eq_of_mem_replicate h]
    decide +kernel⟩
theorem test_meets_MemoryStaysCanonical :
    Memory.wf fetched.mem = true ∧ Memory.wf fetched.sram = true ∧ ∃ t, step fetched = .next t :=
  ⟨by decide +kernel, by decide +kernel, _, rfl⟩
theorem test_meets_CommandsComplete_kinds : ∀ k < 8, (command k []).length = 64 ∧ u8 (command k []) 0 = k := by decide +kernel
theorem test_meets_DebuggerSteps_unblocked : ∀ npc, (thread3 base).status ≠ .blocked .mwait npc := by
  intro npc h
  simp [show (thread3 base).status = .ready from by decide +kernel] at h

/-! #### A bridge port -/

/-- Port 7 is a bridge port, and the windows of its partner are placed (R411). -/
def bridging : State := { mapped with boot := { mapped.boot with rootPorts := [0, 0, 0, 0, 0, 0, 0, 3] } }
def beyond : State := bridging.hotAdd 7 ⟨0xE000, 4, false, false, 2, none, none⟩
theorem test_meets_TreeDevices_bridgePort :
    bridging.boot.booted = true ∧ (7 < 8) ∧ (nth bridging.boot.rootPorts 7 (0 : Byte) = (3 : Byte)) ∧ (32 * 7 ≤ 0xE000 / 256) ∧ (0xE000 / 256 < 32 * 7 + 32) ∧ (0 < 2) := by
  and_intros <;> decide +kernel
/-- R411: the windows stand as expansion memory, and what a copy writes there leaves for the partner. -/
theorem test_bridge_write : (beyond.copyPut [(.phys 0x100010000000, 2)] [5, 6]).answers = [.bridgeWrite 7 0x10000000 [5, 6]] ∧
    (beyond.copyPut [(.phys 0x100010000000, 2)] [5, 6]).mem = beyond.mem := by
  and_intros <;> decide +kernel
/-- R411: an endpoint does not reach them. -/
theorem test_bridge_beyond : Place.beyond (.phys 0x100010000000) beyond = true := by decide +kernel
theorem test_meets_OperandForms_special : (0 : Nat) < 11 ∧ 10 < 11 := by decide
theorem test_meets_OperandForms_ones :
    (theCtx (onlyThree (routed 2)) rform.fields).routeByte 1 ≠ 0 ∧
      (theCtx (onlyThree (routed 2)) rform.fields).tids.contains (routeFrom (theCtx (onlyThree (routed 2)) rform.fields) 1 3) = false ∧
      (theCtx (onlyThree (routed 2)) rform.fields).fill = 2 := by
  decide +kernel
theorem test_meets_OperandForms_miss :
    1 < 3 ∧ sourceField (theCtx (onlyThree (routed 3)) rform.fields) 1 = .vec 4 ∧
      (theCtx (onlyThree (routed 3)) rform.fields).routeByte 1 ≠ 0 ∧
      (theCtx (onlyThree (routed 3)) rform.fields).tids.contains (routeFrom (theCtx (onlyThree (routed 3)) rform.fields) 1 3) = false ∧
      (theCtx (onlyThree (routed 3)) rform.fields).fill = 3 ∧ isOk ((theCtx (onlyThree (routed 3)) rform.fields).ranged .iadd) = true := by
  decide +kernel

/-! #### Bisections: where they begin, and what a value does -/

theorem test_meets_Bisection_entry : (theCtx bisecting farForm.fieldsFar).invEntry invP 3 = .ok (evalEntry, 0) := by decide +kernel
/-- A far call to an address that is no routine. -/
def strayForm : LimmF := ⟨5, 3, V 4, 200⟩
theorem test_meets_Bisection_restricted :
    (theCtx bisecting strayForm.fieldsFar).f.d < (theCtx bisecting strayForm.fieldsFar).g.nregs ∧
      (theCtx bisecting strayForm.fieldsFar).f.a = .vec 3 ∧ (theCtx bisecting strayForm.fieldsFar).f.b = .vec 4 ∧
      4 < (theCtx bisecting strayForm.fieldsFar).g.nregs ∧
      (∀ r ∈ (theCtx bisecting strayForm.fieldsFar).l.kernel.routines, (r.1.toNat : Int) ≠ (theCtx bisecting strayForm.fieldsFar).direct) := by
  decide +kernel
/-- A thread whose argument register holds `x`, whose bracket 0 is valued (`st` = 1) or not. -/
def argument (x : Word) (st : BitVec 2) : Thread :=
  { bracketed 0 with v := (bracketed 0).v.set 3 x, b := [⟨st, 100, 0, 100, 0⟩, Bracket.zero, Bracket.zero, Bracket.zero] }
def inDom (d : BitVec 2) : InvEval := { evalEntry with pfx := { invP with br := 0, dom := d } }
theorem test_meets_Bisection_unordered : ordOf (inDom 2).pfx.dom 0x7FC00000 = none := by decide +kernel
theorem test_meets_Bisection_valued : ordOf (inDom 0).pfx.dom 5 = some 5 ∧ ((argument 0 1).bracket (inDom 0).br).st = 1 := by decide +kernel
theorem test_meets_Bisection_nanEnd : ordOf (inDom 2).pfx.dom 5 = some 5 ∧ ((argument 0x7FC00000 0).bracket (inDom 2).br).st ≠ 1 ∧
    ordOf (inDom 2).pfx.dom ((argument 0x7FC00000 0).reg (inDom 2).a) = none := by
  decide +kernel
theorem test_meets_Bisection_ends : ordOf (inDom 0).pfx.dom 5 = some 5 ∧ ((argument 9 2).bracket (inDom 0).br).st ≠ 1 ∧
    ordOf (inDom 0).pfx.dom ((argument 9 2).reg (inDom 0).a) = some 9 ∧ ordOf (inDom 0).pfx.dom ((argument 9 2).reg (inDom 0).d) = some 0 := by
  decide +kernel
/-- An evaluation under way, in a phase, for y = 50, whose low end's value is 10. -/
def inPhase (ph : InvPhase) (d : BitVec 2) : InvEval := { stepping 50 0 false with phase := ph, flo := 10, trial := 40, pfx := { (stepping 50 0 false).pfx with dom := d } }
/-- f's value in the argument register: x, in a domain. -/
def value (x : Word) (d : BitVec 2) : Option Int := ordOf (inPhase .mid d).pfx.dom ((argument x 1).reg (inPhase .mid d).a)
def phaseBracket : Bracket := (argument 0 1).bracket (inPhase .mid 0).br
theorem test_meets_Bisection_nanValue : (inPhase .endLo 2).phase ≠ .mid ∧ (inPhase .mid 2).phase = .mid ∧ value 0x7FC00000 2 = none := by decide +kernel
theorem test_meets_Bisection_low : value 7 0 = some 7 ∧ (inPhase .endLo 0).phase = .endLo := by decide +kernel
theorem test_meets_Bisection_falling : value 9 0 = some 9 ∧ (inPhase .endHi 0).phase = .endHi ∧ (inPhase .endHi 0).key 9 < (inPhase .endHi 0).key (inPhase .endHi 0).flo := by
  decide +kernel
theorem test_meets_Bisection_high : value 10 0 = some 10 ∧ (inPhase .endHi 0).phase = .endHi ∧ (inPhase .endHi 0).key (inPhase .endHi 0).flo ≤ (inPhase .endHi 0).key 10 := by
  decide +kernel
theorem test_meets_Bisection_outside : value 101 0 = some 101 ∧ (inPhase .mid 0).phase = .mid ∧
    (inPhase .mid 0).key (ordIn 0 phaseBracket.fhi) < (inPhase .mid 0).key 101 := by
  decide +kernel
theorem test_meets_Bisection_middle : ∀ x ∈ [0, 50, 100], value (BitVec.ofNat 32 x) 0 = some (x : Int) ∧ (inPhase .mid 0).phase = .mid ∧
    (inPhase .mid 0).key (ordIn 0 phaseBracket.flo) ≤ (inPhase .mid 0).key (x : Int) ∧ (inPhase .mid 0).key (x : Int) ≤ (inPhase .mid 0).key (ordIn 0 phaseBracket.fhi) := by
  decide +kernel
theorem test_meets_Bisection_equal : (50 : Int) = (inPhase .mid 0).y ∧ (inPhase .mid 0).br < (argument 50 1).b.length := by decide +kernel
theorem test_meets_Bisection_sides : (0 : Int) ≠ (inPhase .mid 0).y ∧ (inPhase .mid 0).key 0 < (inPhase .mid 0).key (inPhase .mid 0).y ∧
    (100 : Int) ≠ (inPhase .mid 0).y ∧ (inPhase .mid 0).key (inPhase .mid 0).y ≤ (inPhase .mid 0).key 100 := by
  decide +kernel

/-! #### Copies: their elements, packed blocks and rows -/

def begunLaunch : Launch := launchOf templated
theorem test_meets_CopySteps_plan :
    begun0.tmpl.sizes (begun0.img begunLaunch) = some (4, 4) ∧ (begunState 0).copyPlan begunLaunch 0 begun0 = .ok plan0c := by
  decide +kernel
theorem test_meets_CopySteps_values :
    begun0.tmpl.xf ≠ 2 ∧ (begunState 0).copySource 1 0 begun0.tmpl 4 begun0.srcBase [] = .ok source0 ∧
      (tuples begun0.tmpl.used)[3]? = some [3] ∧ source0.1[3]? = some 0 := by
  decide +kernel
theorem test_meets_CopySteps_tuples : (tuples [⟨2, 1, 1⟩, ⟨3, 1, 1⟩])[3]? = some [1, 1] ∧ ([⟨2, 1, 1⟩, ⟨3, 1, 1⟩] : List Dim)[1]? = some ⟨3, 1, 1⟩ ∧
    ([1, 1] : List Nat)[1]? = some 1 := by
  decide
/-- The same template with the delta expansion. -/
theorem test_meets_CopySteps_delta : ({ begun0.tmpl with xf := 2 } : Template).xf = 2 := rfl
theorem test_meets_CopySteps_noWidth : blocks.engRead 1 0 0 0x10000000 1 3 5 [] = .ok (header8 0x10000000) ∧
    (nth (header8 0x10000000).1 0 0).toNat = 0 := by
  decide +kernel
theorem test_meets_CopySteps_width : blocks.engRead 1 0 0 0x10000003 1 3 5 [] = .ok (header8 0x10000003) ∧
    0 < (nth (header8 0x10000003).1 0 0).toNat ∧ (nth (header8 0x10000003).1 0 0).toNat ≤ 16 ∧
    blocks.engRead 1 0 0 ((0x10000003 + 1) % 2 ^ 64) (4 + 4 * (nth (header8 0x10000003).1 0 0).toNat) 3 5 [] = .ok data8 ∧
    blocks.readBlocks 1 0 0 4 [] 0 ((0x10000003 + 1 + 4 + 4 * (nth (header8 0x10000003).1 0 0).toNat) % 2 ^ 64) = .ok ([], []) := by
  decide +kernel
/-- Two rows of two elements of a byte each, at 8 and at 0. -/
def row8 : List Produced := [([0, 0], 8, [1]), ([1, 0], 9, [2])]
def row0 : List Produced := [([0, 1], 0, [3]), ([1, 1], 1, [4])]
theorem row_from (b x y : Byte) (a : List Nat) (c : List Nat) (n : Nat) (h : n + 2 ≤ 2 ^ 64) : rowFrom 1 n [(a, n, [x]), (c, n + 1, [y])] := by
  refine ⟨by omega, by simp, by simpa using h, fun k e he => ?_⟩
  match k, he with
  | 0, he => cases he; exact ⟨by simp, rfl⟩
  | 1, he => cases he; exact ⟨by simp, rfl⟩
theorem test_meets_CopySteps_rows : rowFrom 1 8 row8 ∧ rowFrom 1 0 row0 ∧ ([0] : List Nat) ≠ [1] ∧
    (∀ x ∈ row8, begun0.tmpl.rowOf x.1 = [0]) ∧ (∀ x ∈ row0, begun0.tmpl.rowOf x.1 = [1]) :=
  ⟨row_from 0 1 2 _ _ 8 (by decide), row_from 0 3 4 _ _ 0 (by decide), by decide, by decide +kernel, by decide +kernel⟩

/-! #### Devices, pages and data errors -/

theorem test_meets_TreeRequests_unsupported : (∀ f, (treed func1).func? 9 = some f → f.failed = true ∨ f.enabled = false ∨ f.ats = false ∨ unbound f none) ∧
    ∀ f, (treed noAts).func? 0x105 = some f → f.failed = true ∨ f.enabled = false ∨ f.ats = false ∨ unbound f none := by
  constructor
  · intro f h
    rw [show (treed func1).func? 9 = none from by decide +kernel] at h
    cases h
  · intro f h
    rw [show (treed noAts).func? 0x105 = some noAts from by decide +kernel] at h
    cases h
    exact .inr (.inr (.inl rfl))
theorem test_meets_TreeRequests_refused :
    let s := letterIn 35 0x21 5
    let l := theLetter 0x21 5
    takes s (letterOut 35 0x21 5) 4 3 0x21 l ∧
      s.servePage (le l.body 8 2) (le l.body 0 8 / 65536) (le l.body 10 1 % 2 = 1) (le l.body 10 1 / 2 % 2 = 1) none (s.spaceDies (le l.body 8 2)) = .refused :=
  ⟨⟨[], [], by decide +kernel, by simp, by decide +kernel, by decide +kernel⟩, by decide +kernel⟩
/-- The page of a peer module is mapped, but endpoints do not reach it. -/
def peerLetter : Letter := ⟨0x21, 0, pageLetter 0x20000000 1 true false 0 0x105 9 0 0⟩
def peerPage : State := { treed func1 with letters := [(35, [peerLetter])] }
theorem test_meets_TreeRequests_peerPage :
    takes peerPage { peerPage with letters := [(35, [])] } 4 3 0x21 peerLetter ∧
      peerPage.servePage (le peerLetter.body 8 2) (le peerLetter.body 0 8 / 65536) (le peerLetter.body 10 1 % 2 = 1) (le peerLetter.body 10 1 / 2 % 2 = 1) none
        (peerPage.spaceDies (le peerLetter.body 8 2)) = .mapped peerPage 0x100000000000006F ∧
      peerPage.endpointLeaf 0x100000000000006F (le peerLetter.body 10 1 / 2 % 2 = 1) = false :=
  ⟨⟨[], [], by decide +kernel, by simp, by decide +kernel, by decide +kernel⟩, by decide +kernel, by decide +kernel⟩
theorem test_meets_TreeRequests_group :
    let l := theLetter 0x22 1
    let f := { func1 with groups := [(0, 9)] }
    f.rid = le l.body 12 2 ∧ f.groups = [] ++ (0, 9) :: [] ∧ (9 : Nat) = le l.body 14 2 := by
  decide +kernel
theorem test_meets_TreeDevices_unknown : (endReq none false false).rid / 256 / 32 = (endReq none false false).port ∧
    ∀ f, (treed { func1 with failed := true }).func? 0x105 = some f → f.failed = true ∨ f.enabled = false := by
  refine ⟨by decide, fun f h => ?_⟩
  rw [show (treed { func1 with failed := true }).func? 0x105 = some { func1 with failed := true } from by decide +kernel] at h
  cases h
  exact .inl rfl
theorem test_meets_TreeDevices_claimed : claimed driven ⟨0xFF05, 3, true, true, 2, some 1, none⟩ ∧ claimed driven ⟨0xFF05, 2, true, true, 0, some 1, none⟩ ∧
    ¬claimed driven ⟨0xFF05, 2, false, true, 0, some 1, none⟩ := by
  simp only [claimed]
  decide +kernel
theorem test_meets_PagesAndTables_pending : shot1.awaiting ≠ [] ∧ shot2.awaiting = [] ∧ shotOver.usesPage space1.asid shot2.level shot2.va = false ∧
    shot2.frame = none ∧ shotOver.mapAt shot2.va.toNat shot2.e shot2.level 4 0 space1.root = some shotDone := by
  decide +kernel
/-- A load of thread 3 from a word that a flip has struck. -/
def struck : State := { mod3 (fun t => { t with ops := [access8 loadReg2], seq := 1, status := .access 0 8 }) (guarded 8) with badWords := [2] }
theorem test_meets_AccessesPerformed_dataError :
    struck.group? (groupOf struck).gid = some (groupOf struck) ∧ (groupOf struck).threads[3]? = some (thread3 struck) ∧
      (thread3 struck).ops = [access8 loadReg2] ∧ (access8 loadReg2).place = .phys 8 ∧ (access8 loadReg2).reads = true ∧
      (thread3 struck).status = .access (access8 loadReg2).seq 8 ∧ struck.badAt 8 (access8 loadReg2).size = true ∧
      trapReady struck (groupOf struck) [3] = true ∧
      ∀ (k : Nat) (u : Thread), k ≠ 3 → (groupOf struck).threads[k]? = some u → u.holdsFor (access8 loadReg2).trick = none := by
  refine ⟨by decide +kernel, by decide +kernel, by decide +kernel, rfl, rfl, by decide +kernel, by decide +kernel, by decide +kernel, ?_⟩
  intro k u hk h
  have b : k < 8 := by
    by_contra c
    rw [List.getElem?_eq_none_iff.mpr (by rw [show (groupOf struck).threads.length = 8 from by decide +kernel]; omega)] at h
    cases h
  have all : ∀ k < 8, k ≠ 3 → (match (groupOf struck).threads[k]? with | some u => (u.holdsFor (access8 loadReg2).trick).isNone | none => true) = true := by
    decide +kernel
  have := all k b hk
  rw [h] at this
  simpa using this

/-! #### Commands, objects and the debugger -/

theorem test_meets_CommandsComplete_notListening : ¬listens { mapped with armed := true } ∧
    Instr.unknownCommand (.arrives 2 [] []) ∈ [Instr.loadObject (.arrives 2 [] []), .unloadObject (.arrives 2 [] []), .runGraph (.arrives 2 [] []),
      .openQueue (.arrives 2 [] []), .openRing (.arrives 2 [] []), .closeRing (.arrives 2 [] []), .unknownCommand (.arrives 2 [] [])] :=
  ⟨fun h => absurd h.2 (by decide +kernel), by simp⟩
/-- A launch of a run of object 7. -/
def inUse7 : State := unloadingState [run1 256 7]
theorem test_meets_CommandsComplete_inUse : ∃ l ∈ inUse7.launches, ∃ r, inUse7.run? l.run = some r ∧ r.handle = 7 :=
  ⟨launchOf inUse7, by decide +kernel, run1 256 7, by decide +kernel, rfl⟩
def badRec : Ring := { Ring.reset 63 with image := placedRecord (ringRecord (command 5 [7, 7])) 7 7 }
def openState : State := heading 5 openBody [] []
def openedState : State := ((ringClosed (awake openState) 7 7 false).pinRing 63 openRec).getD base
theorem test_meets_CommandsComplete_record : badRec.recordOk = false ∧ openRec.recordOk = true ∧ (openState.swq 3).opened = true ∧
    (openState.space? openRec.asid).isSome = true ∧ (ringClosed (awake openState) 7 7 false).pinRing 63 openRec = some openedState := by
  decide +kernel

/-- A header of one kernel and one section, of type 0. -/
def headed : List Byte :=
  [0x53, 0x4F, 0x46, 0x1A, 1, 0, 2, 0, 0, 0, 0, 0, 1, 0, 0, 0] ++ leBytes 8 64 ++ leBytes 8 96 ++ [1, 0, 0, 0] ++ List.replicate 60 0
def headedObj : Sof := ⟨headed, 1, 0, 0, 0, [sectionAt headed 64]⟩
theorem test_meets_CommandsComplete_badHeader : (List.replicate 63 (0 : Byte)).length < 64 := by decide
theorem test_meets_CommandsComplete_header : sofHeader headed = .ok headedObj := by decide +kernel
theorem test_meets_CommandsComplete_section : (∃ x ∈ headedObj.sections, x.typ = 0) ∧ 0 < headedObj.kernels ∧
    (∀ t ∈ [1, 4, 10], ∀ x ∈ headedObj.sections, x.kernel = 0 → x.typ ≠ t) ∧ headedObj.signature.typ ≠ 15 := by
  decide +kernel
/-- A kernel of one section of a type, of the bytes given. -/
def oneTable (l : List (Nat × List Byte)) : Sof :=
  ⟨l.flatMap (·.2), 1, 0, 0, 0, (List.range l.length).map fun i =>
    ⟨((l[i]?).getD (0, [])).1, 0, 0, 0, ((l.take i).flatMap (·.2)).length, ((l[i]?).getD (0, [])).2.length⟩⟩
theorem test_meets_CommandsComplete_badRecord : u16 ((oneTable [(4, List.replicate 256 0)]).tableOf 0 4) 0 ≠ 1 := by decide +kernel
theorem test_meets_CommandsComplete_badRoutine : [1, 0, 0, 0, 0, 0, 1, 0] ∈ entries 8 ((oneTable [(8, [1, 0, 0, 0, 0, 0, 1, 0])]).tableOf 0 8) ∧
    u32 [1, 0, 0, 0, 0, 0, 1, 0] 0 % 4 ≠ 0 := by
  decide +kernel
theorem test_meets_CommandsComplete_noEntry : ∀ e ∈ entries 4 ((oneTable [(4, List.replicate 256 0), (10, [8, 0, 0, 0])]).tableOf 0 10),
    u32 e 0 ≠ u32 ((oneTable [(4, List.replicate 256 0), (10, [8, 0, 0, 0])]).tableOf 0 4) 0x1C := by
  decide +kernel
theorem test_meets_CommandsComplete_noPad : [0, 0, 0, 0] ∈ entries 4 ((oneTable [(1, List.replicate 64 0), (10, [0, 0, 0, 0])]).tableOf 0 10) ∧
    u32 ((oneTable [(1, List.replicate 64 0), (10, [0, 0, 0, 0])]).tableOf 0 1) (u32 [0, 0, 0, 0] 0) ≠ 0x1CC := by
  decide +kernel
theorem test_meets_CommandsComplete_longRoutine : [60, 0, 0, 0, 8, 0, 1, 0] ∈ entries 8 ((oneTable [(1, List.replicate 64 0), (8, [60, 0, 0, 0, 8, 0, 1, 0])]).tableOf 0 8) ∧
    ((oneTable [(1, List.replicate 64 0), (8, [60, 0, 0, 0, 8, 0, 1, 0])]).tableOf 0 1).length < u32 [60, 0, 0, 0, 8, 0, 1, 0] 0 + u16 [60, 0, 0, 0, 8, 0, 1, 0] 4 := by
  decide +kernel
/-- No frame of die 0 is free. -/
def fullDie : State := { base with frames := List.range 1536 }
theorem full_none (s : State) (n k fuel : Nat) (hn : 0 < n) (h : ∀ f < n, f ∈ s.frames) : s.firstFree 0 n k fuel = none := by
  induction fuel generalizing k with
  | zero => rfl
  | succ m ih =>
    unfold State.firstFree
    simp only
    rw [show s.frames.contains (0 + k % n) = true from List.contains_iff_mem.mpr (h _ (by have := Nat.mod_lt k hn; omega)), Bool.true_or]
    exact ih _
theorem test_meets_CommandsComplete_noFrame : fullDie.takeFrames 0 (oneTable [(1, [0])]).chunks.length = none := by
  rw [show (oneTable [(1, [0])]).chunks.length = 0 + 1 from by decide +kernel, State.takeFrames]
  have e : fullDie.freeFrame 0 0 = none := by
    unfold State.freeFrame
    have n : scratchSize / pageSize = 1536 := by decide
    simp only [State.framesOf, Nat.zero_mul, Nat.zero_div, n, show (1536 : Nat) ≠ 0 from by omega, if_false]
    exact full_none _ _ _ _ (by omega) fun f hf => by
      simpa only [fullDie, List.mem_range] using hf
  rw [e]
  rfl
/-- A relocation of the reserved type 0. -/
def badReloc : Sof := oneTable [(14, List.replicate 24 0)]
theorem test_meets_CommandsComplete_badRelocation : base.takeFrames 0 badReloc.chunks.length = some ([], base) ∧
    badReloc.relocate (loadPages base.loadPage 0 badReloc.sections) = none := by
  have c : badReloc.chunks.length = 0 := by decide +kernel
  have r : badReloc.relocate (loadPages base.loadPage 0 badReloc.sections) = none := by decide +kernel
  exact ⟨by rw [c]; rfl, r⟩
theorem test_meets_RunsAndSlots_pairRecord : pairOk (command 3 goodPair) = true ∧ le (command 3 goodPair) 0x20 8 ≠ 0 := by decide +kernel
theorem test_meets_DebuggerSteps_record : ∃ g : Group, g.haltRecord = some (9, [(3, 8)]) ∧ [((3 : Nat), (8 : Word))].find? (fun e => e.1 == 3) = some (3, 8) ∧
    (groupOf base).haltRecord = none :=
  ⟨{ groupOf base with haltRecord := some (9, [(3, 8)]) }, rfl, rfl, by decide +kernel⟩
theorem test_meets_DebuggerSteps_data : (access8 store8).op = .store [1, 2, 3, 4, 5, 6, 7, 8] ∧ (access8 store8).queued = false := by decide

/-! #### Boot and plans -/

theorem test_meets_ClocksPowerHealth_noPlan : base.boot.booted = true ∧ ∀ p, base.boot.plans[5]? = some p → p.clocks = none :=
  ⟨by decide +kernel, fun p h => by rw [show base.boot.plans = [] from by decide +kernel] at h; cases h⟩
def devices2 : List (Nat × Device) := [(0, ⟨0x105, 1, true, true, 0, none, none⟩), (7, ⟨0xE005, 2, true, true, 0, none, none⟩)]
theorem test_meets_SecureBoot_inOrder : devices2.Pairwise (fun x y => x.1 ≤ y.1) ∧ ∀ e ∈ devices2, e.1 < 8 := by decide
theorem test_meets_SecureBoot_anyOrder : ∀ p, p < 8 → devices2.filter (fun e => e.1 == p) = devices2.reverse.filter (fun e => e.1 == p) := by decide

/-! #### Clause by clause -/

theorem test_meets_IntegerAddSubtract :
    (IsRow (Instr.iadd vForm) Op.iadd vForm.fields)
    ∧ (Op.iadd = Op.iadd ∨ Op.iadd = Op.isub ∨ Op.iadd = Op.ineg ∨ Op.iadd = Op.iabs)
    ∧ (intOut Op.iadd = some iaddOut)
    ∧ (unitRuns Op.iadd vForm.fields base = true) :=
  by and_intros <;> first | exact ⟨_, rfl, by decide⟩ | decide +kernel | rfl

theorem test_meets_IntegerCompareSelect :
    (IsRow (Instr.iclamp vForm) Op.iclamp vForm.fields)
    ∧ (Op.iclamp = Op.imin ∨ Op.iclamp = Op.imax ∨ Op.iclamp = Op.iclamp ∨ Op.iclamp = Op.icmp ∨ Op.iclamp = Op.isel)
    ∧ (intOut Op.iclamp = some iclampOut)
    ∧ (unitRuns Op.iclamp vForm.fields base = true) :=
  by and_intros <;> first | exact ⟨_, rfl, by decide⟩ | decide +kernel | rfl

theorem test_meets_IntegerMultiplyDot :
    (IsRow (Instr.imul vForm) Op.imul vForm.fields)
    ∧ (Op.imul = Op.imul ∨ Op.imul = Op.imad ∨ Op.imul = Op.isad ∨ Op.imul = Op.idot ∨ Op.imul = Op.icdot ∨ Op.imul = Op.iaddr)
    ∧ (intOut Op.imul = some imulOut)
    ∧ (unitRuns Op.imul vForm.fields base = true) :=
  by and_intros <;> first | exact ⟨_, rfl, by decide⟩ | decide +kernel | rfl

theorem test_meets_BitwiseLogic :
    (IsRow (Instr.tlog vForm) Op.tlog vForm.fields)
    ∧ (Op.tlog = Op.and ∨
      Op.tlog = Op.or ∨ Op.tlog = Op.xor ∨ Op.tlog = Op.andn ∨ Op.tlog = Op.orn ∨ Op.tlog = Op.not ∨ Op.tlog = Op.tlog)
    ∧ (logicOut Op.tlog = some tlogOut)
    ∧ (unitRuns Op.tlog vForm.fields base = true) :=
  by and_intros <;> first | exact ⟨_, rfl, by decide⟩ | decide +kernel | rfl

theorem test_meets_ShiftsAndFields :
    (IsRow (Instr.shl bForm) Op.shl bForm.fields)
    ∧ (Op.shl = Op.shl ∨ Op.shl = Op.shr ∨ Op.shl = Op.rot ∨ Op.shl = Op.bit ∨ Op.shl = Op.bfld)
    ∧ (logicOut Op.shl = some shlOut)
    ∧ (unitRuns Op.shl bForm.fields base = true) :=
  by and_intros <;> first | exact ⟨_, rfl, by decide⟩ | decide +kernel | rfl

theorem test_meets_MovesAndPredicates :
    (IsRow (Instr.plog pForm) Op.plog pForm.fields)
    ∧ (Op.plog = Op.mov ∨ Op.plog = Op.plog ∨ Op.plog = Op.pcvt)
    ∧ (logicOut Op.plog = some plogOut)
    ∧ (unitRuns Op.plog pForm.fields base = true) :=
  by and_intros <;> first | exact ⟨_, rfl, by decide⟩ | decide +kernel | rfl

theorem test_meets_ScalarResults :
    (IsRow (Instr.sadd sForm) Op.sadd sForm.fields)
    ∧ (scalarNew Op.sadd = some fun c => scalarSum c false)
    ∧ (groupRuns Op.sadd sForm.fields base = true) :=
  by and_intros <;> first | exact ⟨_, rfl, by decide⟩ | decide +kernel | rfl

theorem test_meets_FloatArithmetic :
    (IsRow (Instr.fadd fForm) Op.fadd fForm.fields)
    ∧ (arithVal Op.fadd = some fun c a b x => sumVal c a b)
    ∧ (unitRuns Op.fadd fForm.fields base = true) :=
  by and_intros <;> first | exact ⟨_, rfl, by decide⟩ | decide +kernel | rfl

theorem test_meets_FloatCompareAndSplit :
    (IsRow (Instr.fclass fForm) Op.fclass fForm.fields)
    ∧ (fltOut Op.fclass = some ((fltOut Op.fclass).getD fun x x_1 => { : VecOut }))
    ∧ (unitRuns Op.fclass fForm.fields base = true) :=
  by and_intros <;> first | exact ⟨_, rfl, by decide⟩ | decide +kernel | rfl

theorem test_meets_SpecialFunctions :
    (IsRow (Instr.fexp2 fForm) Op.fexp2 fForm.fields)
    ∧ (isSpecial Op.fexp2 = true)
    ∧ (unitRuns Op.fexp2 fForm.fields base = true) :=
  by and_intros <;> first | exact ⟨_, rfl, by decide⟩ | decide +kernel

theorem test_meets_SpecialFunctions_complete :
    (IsRow (Instr.frcp fForm) Op.frcp fForm.fields)
    ∧ (Op.frcp = Op.fexp2 ∨
      Op.frcp = Op.flog2 ∨
        Op.frcp = Op.fsin ∨
          Op.frcp = Op.fcos ∨ Op.frcp = Op.ftanh ∨ Op.frcp = Op.flogi ∨ Op.frcp = Op.frcp ∨ Op.frcp = Op.frsqrt)
    ∧ (unitRuns Op.frcp fForm.fields base = true) :=
  by and_intros <;> first | exact ⟨_, rfl, by decide⟩ | decide +kernel

theorem test_meets_Conversions_cvt :
    (IsRow (Instr.cvt cvtForm) Op.cvt cvtForm.fields)
    ∧ (unitRuns Op.cvt cvtForm.fields base = true)
    ∧ (everyGroup base cvtForm.fields cvtRuns = true) :=
  by and_intros <;> first | exact ⟨_, rfl, by decide⟩ | decide +kernel

theorem test_meets_Conversions_pack :
    (IsRow (Instr.pack packForm) Op.pack packForm.fields)
    ∧ (unitRuns Op.pack packForm.fields base = true)
    ∧ (everyGroup base packForm.fields packRuns = true) :=
  by and_intros <;> first | exact ⟨_, rfl, by decide⟩ | decide +kernel

theorem test_meets_Conversions_unpack :
    (IsRow (Instr.unpack packForm) Op.unpack packForm.fields)
    ∧ (unitRuns Op.unpack packForm.fields base = true) :=
  by and_intros <;> first | exact ⟨_, rfl, by decide⟩ | decide +kernel

theorem test_meets_Conversions_srseed :
    (IsRow (Instr.srseed vForm) Op.srseed vForm.fields)
    ∧ (unitRuns Op.srseed vForm.fields base = true) :=
  by and_intros <;> first | exact ⟨_, rfl, by decide⟩ | decide +kernel

theorem test_meets_BlockFormats_bquant :
    (IsRow (Instr.bquant bqForm) Op.bquant bqForm.fields)
    ∧ (unitRuns Op.bquant bqForm.fields slotted = true)
    ∧ (everyGroup slotted bqForm.fields bquantRuns = true) :=
  by and_intros <;> first | exact ⟨_, rfl, by decide⟩ | decide +kernel

theorem test_meets_BlockFormats_bdequant :
    (IsRow (Instr.bdequant bdForm) Op.bdequant bdForm.fields)
    ∧ (unitRuns Op.bdequant bdForm.fields slotted = true)
    ∧ (everyGroup slotted bdForm.fields bdequantRuns = true) :=
  by and_intros <;> first | exact ⟨_, rfl, by decide⟩ | decide +kernel

theorem test_meets_VotesAndWindow_vote :
    (IsRow (Instr.vote voteForm) Op.vote voteForm.fields)
    ∧ (trickOk base = true) :=
  by and_intros <;> first | exact ⟨_, rfl, by decide⟩ | decide +kernel

theorem test_meets_VotesAndWindow_cbase :
    (IsRow (Instr.cbase (litB (5 : BitVec 7))) Op.cbase (litB (5 : BitVec 7)).fields)
    ∧ (groupRuns Op.cbase (litB (5 : BitVec 7)).fields base = true) :=
  by and_intros <;> first | exact ⟨_, rfl, by decide⟩ | decide +kernel

theorem test_meets_Branches_land :
    (IsRow (Instr.land { d := (0 : BitVec 7), a := (0 : BitVec 7), b := V (0 : BitVec 7) : ShortF })
      Op.land
      ({ d := (0 : BitVec 7), a := (0 : BitVec 7), b := V (0 : BitVec 7) : ShortF }.fields
        (0 : BitVec 3) Ty.i32 DKind.vec (0 : BitVec 7)))
    ∧ (Op.land = Op.land ∨ Op.land = Op.nop)
    ∧ (trickOk base = true) :=
  by and_intros <;> first | exact ⟨_, rfl, by decide⟩ | decide +kernel

theorem test_meets_Branches_yield :
    (IsRow (Instr.yield bare) Op.yield bare.fields)
    ∧ (trickOk base = true) :=
  by and_intros <;> first | exact ⟨_, rfl, by decide⟩ | decide +kernel

theorem test_meets_Branches_bra :
    (IsRow (Instr.bra jumpTwo) Op.bra jumpTwo.fields)
    ∧ (oneGroup base jumpTwo.fields = some (theCtx base jumpTwo.fields))
    ∧ (base.issue.pfx.rep = none)
    ∧ (aimOk (theCtx base jumpTwo.fields) Op.bra JumpKind.branch false (braAim (theCtx base jumpTwo.fields)) = true) :=
  by and_intros <;> first | exact ⟨_, rfl, by decide⟩ | decide +kernel

theorem test_meets_Branches_brx :
    (IsRow (Instr.brx (form (0 : BitVec 7) (V (3 : BitVec 7)) (V (0 : BitVec 7)) (V (0 : BitVec 7))))
      Op.brx (form (0 : BitVec 7) (V (3 : BitVec 7)) (V (0 : BitVec 7)) (V (0 : BitVec 7))).fields)
    ∧ (oneGroup padded
        (form (0 : BitVec 7) (V (3 : BitVec 7)) (V (0 : BitVec 7)) (V (0 : BitVec 7))).fields =
      some
        (theCtx padded
          (form (0 : BitVec 7) (V (3 : BitVec 7)) (V (0 : BitVec 7)) (V (0 : BitVec 7))).fields))
    ∧ (padded.issue.pfx.rep = none)
    ∧ (aimOk
        (theCtx padded
          (form (0 : BitVec 7) (V (3 : BitVec 7)) (V (0 : BitVec 7)) (V (0 : BitVec 7))).fields)
        Op.brx JumpKind.branch true
        (brxAim
          (theCtx padded
            (form (0 : BitVec 7) (V (3 : BitVec 7)) (V (0 : BitVec 7))
                (V (0 : BitVec 7))).fields)) =
      true) :=
  by and_intros <;> first | exact ⟨_, rfl, by decide⟩ | decide +kernel

theorem test_meets_CallsAndReturns_call :
    (plainFields (Instr.call jumpTwo) jumpTwo.fields)
    ∧ (base.issue.pfx.inv = none)
    ∧ (oneGroup base jumpTwo.fields = some (theCtx base jumpTwo.fields))
    ∧ (base.issue.pfx.rep = none)
    ∧ (aimOk (theCtx base jumpTwo.fields) Op.call JumpKind.call false (callAim (theCtx base jumpTwo.fields)) = true) :=
  by and_intros <;> first | exact Or.inl ⟨_, rfl, by decide⟩ | decide +kernel

theorem test_meets_CallsAndReturns_callx :
    (IsRow
      (Instr.callx (form (0 : BitVec 7) (V (3 : BitVec 7)) (V (0 : BitVec 7)) (V (0 : BitVec 7))))
      Op.callx (form (0 : BitVec 7) (V (3 : BitVec 7)) (V (0 : BitVec 7)) (V (0 : BitVec 7))).fields)
    ∧ (oneGroup padded
        (form (0 : BitVec 7) (V (3 : BitVec 7)) (V (0 : BitVec 7)) (V (0 : BitVec 7))).fields =
      some
        (theCtx padded
          (form (0 : BitVec 7) (V (3 : BitVec 7)) (V (0 : BitVec 7)) (V (0 : BitVec 7))).fields))
    ∧ (padded.issue.pfx.rep = none)
    ∧ (aimOk
        (theCtx padded
          (form (0 : BitVec 7) (V (3 : BitVec 7)) (V (0 : BitVec 7)) (V (0 : BitVec 7))).fields)
        Op.callx JumpKind.call true
        (callxAim
          (theCtx padded
            (form (0 : BitVec 7) (V (3 : BitVec 7)) (V (0 : BitVec 7))
                (V (0 : BitVec 7))).fields)) =
      true) :=
  by and_intros <;> first | exact ⟨_, rfl, by decide⟩ | decide +kernel

theorem test_meets_CallsAndReturns_ret :
    (IsRow (Instr.ret bare) Op.ret bare.fields)
    ∧ (padded.evaluating = false)
    ∧ (oneGroup padded bare.fields = some (theCtx padded bare.fields))
    ∧ (padded.issue.pfx.rep = none)
    ∧ (aimOk (theCtx padded bare.fields) Op.ret JumpKind.ret false (retAim (theCtx padded bare.fields)) = true) :=
  by and_intros <;> first | exact ⟨_, rfl, by decide⟩ | decide +kernel

theorem test_meets_CallsAndReturns_deep :
    (IsRow
      (Instr.callx (form (0 : BitVec 7) (V (3 : BitVec 7)) (V (0 : BitVec 7)) (V (0 : BitVec 7))))
      Op.callx (form (0 : BitVec 7) (V (3 : BitVec 7)) (V (0 : BitVec 7)) (V (0 : BitVec 7))).fields)
    ∧ (oneGroup deep
        (form (0 : BitVec 7) (V (3 : BitVec 7)) (V (0 : BitVec 7)) (V (0 : BitVec 7))).fields =
      some
        (theCtx deep
          (form (0 : BitVec 7) (V (3 : BitVec 7)) (V (0 : BitVec 7)) (V (0 : BitVec 7))).fields))
    ∧ (deep.issue.pfx.rep = none)
    ∧ ((theCtx deep
          (form (0 : BitVec 7) (V (3 : BitVec 7)) (V (0 : BitVec 7))
              (V (0 : BitVec 7))).fields).exec =
      [3])
    ∧ (isOk
        ((theCtx deep
              (form (0 : BitVec 7) (V (3 : BitVec 7)) (V (0 : BitVec 7))
                  (V (0 : BitVec 7))).fields).precheck
          Op.callx 3) =
      true)
    ∧ (constOk
        (theCtx deep
          (form (0 : BitVec 7) (V (3 : BitVec 7)) (V (0 : BitVec 7)) (V (0 : BitVec 7))).fields)
        (theCtx deep
              (form (0 : BitVec 7) (V (3 : BitVec 7)) (V (0 : BitVec 7))
                  (V (0 : BitVec 7))).fields).f.a =
      true)
    ∧ (256 ≤
      ((theCtx deep
                (form (0 : BitVec 7) (V (3 : BitVec 7)) (V (0 : BitVec 7))
                    (V (0 : BitVec 7))).fields).th
            3).ret.length) :=
  by and_intros <;> first | exact ⟨_, rfl, by decide⟩ | decide +kernel

theorem test_meets_CallsAndReturns_shallow :
    (IsRow (Instr.ret bare) Op.ret bare.fields)
    ∧ ((onlyThree base).evaluating = false)
    ∧ (oneGroup (onlyThree base) bare.fields = some (theCtx (onlyThree base) bare.fields))
    ∧ ((onlyThree base).issue.pfx.rep = none)
    ∧ ((theCtx (onlyThree base) bare.fields).exec = [3])
    ∧ (isOk ((theCtx (onlyThree base) bare.fields).precheck Op.ret 3) = true)
    ∧ (((theCtx (onlyThree base) bare.fields).th 3).ret = []) :=
  by and_intros <;> first | exact ⟨_, rfl, by decide⟩ | decide +kernel

theorem test_meets_CallsAndReturns_far :
    (IsRow (Instr.braFar awayForm) Op.bra awayForm.fieldsFar)
    ∧ (oneGroup base awayForm.fieldsFar = some (theCtx base awayForm.fieldsFar))
    ∧ (base.issue.pfx.rep = none)
    ∧ (∀ t ∈ (theCtx base awayForm.fieldsFar).exec, isOk ((theCtx base awayForm.fieldsFar).precheck Op.bra t) = true)
    ∧ ((theCtx base awayForm.fieldsFar).exec ≠ [])
    ∧ ((braAim (theCtx base awayForm.fieldsFar) (nth (theCtx base awayForm.fieldsFar).exec 0 0)).taken = true)
    ∧ (¬((0 : ℤ) ≤ (braAim (theCtx base awayForm.fieldsFar) 0).target ∧
        (braAim (theCtx base awayForm.fieldsFar) 0).target < (2 : ℤ) ^ 32)) :=
  by and_intros <;> first | exact ⟨_, rfl, by decide⟩ | decide +kernel

theorem test_meets_JoinExitBarrier_join :
    (IsRow (Instr.join (litB (127 : BitVec 7))) Op.join (litB (127 : BitVec 7)).fields)
    ∧ (unitRuns Op.join (litB (127 : BitVec 7)).fields base = true) :=
  by and_intros <;> first | exact ⟨_, rfl, by decide⟩ | decide +kernel

theorem test_meets_JoinExitBarrier_exit :
    (IsRow (Instr.exit bare) Op.exit bare.fields)
    ∧ (trickOk base = true) :=
  by and_intros <;> first | exact ⟨_, rfl, by decide⟩ | decide +kernel

theorem test_meets_JoinExitBarrier_bar :
    (IsRow (Instr.bar (litB (15 : BitVec 7))) Op.bar (litB (15 : BitVec 7)).fields)
    ∧ (unitRuns Op.bar (litB (15 : BitVec 7)).fields base = true)
    ∧ ((everyGroup base (litB (15 : BitVec 7)).fields fun c =>
        c.exec.all fun t => decide (BitVec.toNat (got (c.raw LitKind.int 1 t c.f.b)) ≤ 15)) =
      true) :=
  by and_intros <;> first | exact ⟨_, rfl, by decide⟩ | decide +kernel

theorem test_meets_SoftwareTraps_trap :
    (IsRow (Instr.trap (litB (7 : BitVec 7))) Op.trap (litB (7 : BitVec 7)).fields)
    ∧ (oneGroup base (litB (7 : BitVec 7)).fields = some (theCtx base (litB (7 : BitVec 7)).fields))
    ∧ ((theCtx base (litB (7 : BitVec 7)).fields).exec ≠ [])
    ∧ (isOk
        ((theCtx base (litB (7 : BitVec 7)).fields).precheck Op.trap
          (nth (theCtx base (litB (7 : BitVec 7)).fields).exec 0 0)) =
      true)
    ∧ (constOk (theCtx base (litB (7 : BitVec 7)).fields) (theCtx base (litB (7 : BitVec 7)).fields).f.b = true)
    ∧ ((theCtx base (litB (7 : BitVec 7)).fields).f.v ≠ (1 : BitVec 3) ∨
      (theCtx base (litB (7 : BitVec 7)).fields).g.attached = false) :=
  by and_intros <;> first | exact ⟨_, rfl, by decide⟩ | decide +kernel

theorem test_meets_SoftwareTraps_attached :
    (IsRow
      (Instr.trap
        (form (0 : BitVec 7) (V (0 : BitVec 7)) (L (7 : BitVec 7)) (V (0 : BitVec 7))
          (1 : BitVec 3)))
      Op.trap
      (form (0 : BitVec 7) (V (0 : BitVec 7)) (L (7 : BitVec 7)) (V (0 : BitVec 7))
          (1 : BitVec 3)).fields)
    ∧ (oneGroup watched
        (form (0 : BitVec 7) (V (0 : BitVec 7)) (L (7 : BitVec 7)) (V (0 : BitVec 7))
            (1 : BitVec 3)).fields =
      some
        (theCtx watched
          (form (0 : BitVec 7) (V (0 : BitVec 7)) (L (7 : BitVec 7)) (V (0 : BitVec 7))
              (1 : BitVec 3)).fields))
    ∧ ((theCtx watched
          (form (0 : BitVec 7) (V (0 : BitVec 7)) (L (7 : BitVec 7)) (V (0 : BitVec 7))
              (1 : BitVec 3)).fields).exec ≠
      [])
    ∧ (isOk
        ((theCtx watched
              (form (0 : BitVec 7) (V (0 : BitVec 7)) (L (7 : BitVec 7)) (V (0 : BitVec 7))
                  (1 : BitVec 3)).fields).precheck
          Op.trap
          (nth
            (theCtx watched
                (form (0 : BitVec 7) (V (0 : BitVec 7)) (L (7 : BitVec 7)) (V (0 : BitVec 7))
                    (1 : BitVec 3)).fields).exec
            0 0)) =
      true)
    ∧ (constOk
        (theCtx watched
          (form (0 : BitVec 7) (V (0 : BitVec 7)) (L (7 : BitVec 7)) (V (0 : BitVec 7))
              (1 : BitVec 3)).fields)
        (theCtx watched
              (form (0 : BitVec 7) (V (0 : BitVec 7)) (L (7 : BitVec 7)) (V (0 : BitVec 7))
                  (1 : BitVec 3)).fields).f.b =
      true)
    ∧ ((theCtx watched
            (form (0 : BitVec 7) (V (0 : BitVec 7)) (L (7 : BitVec 7)) (V (0 : BitVec 7))
                (1 : BitVec 3)).fields).f.v =
      (1 : BitVec 3))
    ∧ ((theCtx watched
            (form (0 : BitVec 7) (V (0 : BitVec 7)) (L (7 : BitVec 7)) (V (0 : BitVec 7))
                (1 : BitVec 3)).fields).g.attached =
      true) :=
  by and_intros <;> first | exact ⟨_, rfl, by decide⟩ | decide +kernel

theorem test_meets_GuardsAndControlRegisters_gset :
    (IsRow (Instr.gset (litB (0 : BitVec 7) (3 : BitVec 7))) Op.gset
      (litB (0 : BitVec 7) (3 : BitVec 7)).fields)
    ∧ (oneGroup base (litB (0 : BitVec 7) (3 : BitVec 7)).fields =
      some (theCtx base (litB (0 : BitVec 7) (3 : BitVec 7)).fields))
    ∧ (isOk
        ((theCtx base (litB (0 : BitVec 7) (3 : BitVec 7)).fields).precheck Op.gset
          (nth (theCtx base (litB (0 : BitVec 7) (3 : BitVec 7)).fields).tids 0 0)) =
      true)
    ∧ (constOk (theCtx base (litB (0 : BitVec 7) (3 : BitVec 7)).fields)
        (theCtx base (litB (0 : BitVec 7) (3 : BitVec 7)).fields).f.b =
      true)
    ∧ ((base.quad (theCtx base (litB (0 : BitVec 7) (3 : BitVec 7)).fields).g.quadNo).cmds = [])
    ∧ (∀ t ∈ (theCtx base (litB (0 : BitVec 7) (3 : BitVec 7)).fields).g.threads,
      storeWaits t = false ∧ ∀ a ∈ t.ops, a.guard = none) :=
  by and_intros <;> first | exact ⟨_, rfl, by decide⟩ | decide +kernel

theorem test_meets_GuardsAndControlRegisters_gclr :
    (IsRow (Instr.gclr (litB (1 : BitVec 7) (3 : BitVec 7))) Op.gclr
      (litB (1 : BitVec 7) (3 : BitVec 7)).fields)
    ∧ (groupRuns Op.gclr (litB (1 : BitVec 7) (3 : BitVec 7)).fields base = true) :=
  by and_intros <;> first | exact ⟨_, rfl, by decide⟩ | decide +kernel

theorem test_meets_GuardsAndControlRegisters_csrRd :
    (IsRow
      (Instr.csrRd (form (9 : BitVec 7) (V (4 : BitVec 7)) (V (0 : BitVec 7)) (V (0 : BitVec 7))))
      Op.csrRd (form (9 : BitVec 7) (V (4 : BitVec 7)) (V (0 : BitVec 7)) (V (0 : BitVec 7))).fields)
    ∧ (groupRuns Op.csrRd
        (form (9 : BitVec 7) (V (4 : BitVec 7)) (V (0 : BitVec 7)) (V (0 : BitVec 7))).fields base =
      true) :=
  by and_intros <;> first | exact ⟨_, rfl, by decide⟩ | decide +kernel

theorem test_meets_GuardsAndControlRegisters_csrWr :
    (IsRow
      (Instr.csrWr
        (form (0 : BitVec 7) (V (2 : BitVec 7)) (L (5 : BitVec 7)) (V (0 : BitVec 7))
          (1 : BitVec 3)))
      Op.csrWr
      (form (0 : BitVec 7) (V (2 : BitVec 7)) (L (5 : BitVec 7)) (V (0 : BitVec 7))
          (1 : BitVec 3)).fields)
    ∧ (groupRuns Op.csrWr
        (form (0 : BitVec 7) (V (2 : BitVec 7)) (L (5 : BitVec 7)) (V (0 : BitVec 7))
            (1 : BitVec 3)).fields
        base =
      true) :=
  by and_intros <;> first | exact ⟨_, rfl, by decide⟩ | decide +kernel

theorem test_meets_GuardsAndControlRegisters_decides :
    (IsRow (Instr.gset (litB (0 : BitVec 7) (3 : BitVec 7))) Op.gset
      (litB (0 : BitVec 7) (3 : BitVec 7)).fields)
    ∧ (oneGroup heldBack (litB (0 : BitVec 7) (3 : BitVec 7)).fields =
      some (theCtx heldBack (litB (0 : BitVec 7) (3 : BitVec 7)).fields))
    ∧ (isOk
        ((theCtx heldBack (litB (0 : BitVec 7) (3 : BitVec 7)).fields).precheck Op.gset
          (nth (theCtx heldBack (litB (0 : BitVec 7) (3 : BitVec 7)).fields).tids 0 0)) =
      true)
    ∧ (constOk (theCtx heldBack (litB (0 : BitVec 7) (3 : BitVec 7)).fields)
        (theCtx heldBack (litB (0 : BitVec 7) (3 : BitVec 7)).fields).f.b =
      true)
    ∧ (distinct
        (List.map (fun x => x.cid)
          (heldBack.quad (theCtx heldBack (litB (0 : BitVec 7) (3 : BitVec 7)).fields).g.quadNo).cmds) =
      true)
    ∧ ((heldBack.quad (theCtx heldBack (litB (0 : BitVec 7) (3 : BitVec 7)).fields).g.quadNo).cmds.any
        waitingDraws =
      false)
    ∧ (∀ t ∈ (theCtx heldBack (litB (0 : BitVec 7) (3 : BitVec 7)).fields).g.threads,
      storeWaits t = false ∧ distinct (List.map (fun x => x.seq) t.ops) = true) :=
  by and_intros <;> first | exact ⟨_, rfl, by decide⟩ | decide +kernel

theorem test_meets_CallsAndReturns_spill :
    (plainFields (Instr.call jumpTwo) jumpTwo.fields)
    ∧ ((stacked 255).issue.pfx.inv = none)
    ∧ (oneGroup (stacked 255) jumpTwo.fields = some (theCtx (stacked 255) jumpTwo.fields))
    ∧ ((stacked 255).issue.pfx.rep = none)
    ∧ (aimOk (theCtx (stacked 255) jumpTwo.fields) Op.call JumpKind.call false
        (callAim (theCtx (stacked 255) jumpTwo.fields)) =
      true) :=
  by and_intros <;> first | exact Or.inl ⟨_, rfl, by decide⟩ | decide +kernel

theorem test_meets_CallsAndReturns_refill :
    (IsRow (Instr.ret bare) Op.ret bare.fields)
    ∧ ((stacked 256).evaluating = false)
    ∧ (oneGroup (stacked 256) bare.fields = some (theCtx (stacked 256) bare.fields))
    ∧ ((stacked 256).issue.pfx.rep = none)
    ∧ (aimOk (theCtx (stacked 256) bare.fields) Op.ret JumpKind.ret false
        (retAim (theCtx (stacked 256) bare.fields)) =
      true) :=
  by and_intros <;> first | exact ⟨_, rfl, by decide⟩ | decide +kernel

theorem test_meets_StackAndScratchpad_stack :
    (IsRow (Instr.ld ldStack) Op.ld ldStack.fields)
    ∧ (Op.ld = Op.ld ∨ Op.ld = Op.st)
    ∧ (requestsAre mapped Op.ld ldStack.fields toStack = true) :=
  by and_intros <;> first | exact ⟨_, rfl, by decide⟩ | decide +kernel

theorem test_meets_StackAndScratchpad_scratchpad :
    (IsRow (Instr.ld ldScr) Op.ld ldScr.fields)
    ∧ (isMem Op.ld = true)
    ∧ (Op.ld ≠ Op.marm)
    ∧ (requestsAre mapped Op.ld ldScr.fields toScr = true) :=
  by and_intros <;> first | exact ⟨_, rfl, by decide⟩ | decide +kernel

theorem test_meets_TeamMemoryAccesses_ld :
    (IsRow (Instr.ld ldTeam) Op.ld ldTeam.fields)
    ∧ (isMem Op.ld = true)
    ∧ (Op.ld ≠ Op.marm)
    ∧ ((onlyThree mapped).issue.pfx.guard = none)
    ∧ ((onlyThree mapped).issue.pfx.rep = none)
    ∧ (oneGroup (onlyThree mapped) ldTeam.fields = some (theCtx (onlyThree mapped) ldTeam.fields))
    ∧ ((theCtx (onlyThree mapped) ldTeam.fields).exec = [3])
    ∧ (request Op.ld (theCtx (onlyThree mapped) ldTeam.fields) 3 =
      some (req3 Op.ld (onlyThree mapped) ldTeam, Target.at (Place.team 1 0 8)))
    ∧ (idleThread ((theCtx (onlyThree mapped) ldTeam.fields).th 3) = true)
    ∧ ((onlyThree mapped).team? 1 = some (team1 mapped))
    ∧ (newIssue (onlyThree mapped) = true)
    ∧ ((onlyThree mapped).issue.core = (theCtx (onlyThree mapped) ldTeam.fields).g.coreNo)
    ∧ ((onlyThree mapped).away (theCtx (onlyThree mapped) ldTeam.fields).g = false) :=
  by and_intros <;> first | exact ⟨_, rfl, by decide⟩ | decide +kernel

theorem test_meets_TeamMemoryAccesses_atom :
    (IsRow (Instr.atom atomTeam) Op.atom atomTeam.fields)
    ∧ (isMem Op.atom = true)
    ∧ (Op.atom ≠ Op.marm)
    ∧ ((onlyThree mapped).issue.pfx.guard = none)
    ∧ ((onlyThree mapped).issue.pfx.rep = none)
    ∧ (oneGroup (onlyThree mapped) atomTeam.fields = some (theCtx (onlyThree mapped) atomTeam.fields))
    ∧ ((theCtx (onlyThree mapped) atomTeam.fields).exec = [3])
    ∧ (request Op.atom (theCtx (onlyThree mapped) atomTeam.fields) 3 =
      some (req3 Op.atom (onlyThree mapped) atomTeam, Target.at (Place.team 1 0 8)))
    ∧ (idleThread ((theCtx (onlyThree mapped) atomTeam.fields).th 3) = true)
    ∧ ((onlyThree mapped).team? 1 = some (team1 mapped))
    ∧ (newIssue (onlyThree mapped) = true)
    ∧ ((onlyThree mapped).issue.core = (theCtx (onlyThree mapped) atomTeam.fields).g.coreNo)
    ∧ ((onlyThree mapped).away (theCtx (onlyThree mapped) atomTeam.fields).g = false) :=
  by and_intros <;> first | exact ⟨_, rfl, by decide⟩ | decide +kernel

theorem test_meets_PeerAccessesIssued :
    (IsRow (Instr.ld ldPeer) Op.ld ldPeer.fields)
    ∧ (isMem Op.ld = true)
    ∧ (Op.ld ≠ Op.marm)
    ∧ ((onlyThree mapped).issue.pfx.guard = none)
    ∧ ((onlyThree mapped).issue.pfx.rep = none)
    ∧ (oneGroup (onlyThree mapped) ldPeer.fields = some (theCtx (onlyThree mapped) ldPeer.fields))
    ∧ ((theCtx (onlyThree mapped) ldPeer.fields).exec = [3])
    ∧ (newIssue (onlyThree mapped) = true)
    ∧ (request Op.ld (theCtx (onlyThree mapped) ldPeer.fields) 3 =
      some (req3 Op.ld (onlyThree mapped) ldPeer, Target.at (Place.peer 1 0 (0 : Dword) 0)))
    ∧ ((Place.peer 1 0 (0 : Dword) 0).isPeer = true)
    ∧ ((req3 Op.ld (onlyThree mapped) ldPeer).op.isStore = false ∨
      ((theCtx (onlyThree mapped) ldPeer.fields).th 3).shareUsed < 8) :=
  by and_intros <;> first | exact ⟨_, rfl, by decide⟩ | decide +kernel

theorem test_meets_FencesAndMonitors_fence :
    (IsRow
      (Instr.fence
        (form (0 : BitVec 7) (V (0 : BitVec 7)) (V (0 : BitVec 7)) (V (0 : BitVec 7))
          (4 : BitVec 3)))
      Op.fence
      (form (0 : BitVec 7) (V (0 : BitVec 7)) (V (0 : BitVec 7)) (V (0 : BitVec 7))
          (4 : BitVec 3)).fields)
    ∧ (trickOk base = true)
    ∧ (base.issue.pfx.rep = none) :=
  by and_intros <;> first | exact ⟨_, rfl, by decide⟩ | decide +kernel

theorem test_meets_FencesAndMonitors_marm :
    (IsRow (Instr.marm armScr) Op.marm armScr.fields)
    ∧ ((onlyThree mapped).issue.pfx.guard = none)
    ∧ ((onlyThree mapped).issue.pfx.rep = none)
    ∧ (oneGroup (onlyThree mapped) armScr.fields = some (theCtx (onlyThree mapped) armScr.fields))
    ∧ ((theCtx (onlyThree mapped) armScr.fields).exec = [3])
    ∧ (newIssue (onlyThree mapped) = true)
    ∧ (request Op.marm (theCtx (onlyThree mapped) armScr.fields) 3 =
      some (req3 Op.marm (onlyThree mapped) armScr, Target.at (Place.phys 8)))
    ∧ (idleThread ((theCtx (onlyThree mapped) armScr.fields).th 3) = true)
    ∧ ((List.filter (fun e => e.bank == bankNo 8) (onlyThree mapped).monitors).length < 64) :=
  by and_intros <;> first | exact ⟨_, rfl, by decide⟩ | decide +kernel

theorem test_meets_FencesAndMonitors_mwait :
    (IsRow (Instr.mwait bare) Op.mwait bare.fields)
    ∧ (trickOk base = true)
    ∧ (base.issue.trick ≠ [])
    ∧ (base.issue.pfx.rep = none) :=
  by and_intros <;> first | exact ⟨_, rfl, by decide⟩ | decide +kernel

theorem test_meets_ChutePopAndPush_pop :
    (IsRow (Instr.pop popForm) Op.pop popForm.fields)
    ∧ (oneGroup chuted popForm.fields = some (theCtx chuted popForm.fields))
    ∧ (chuted.issue.pfx.rep = none)
    ∧ (chuted.issue.core = (theCtx chuted popForm.fields).g.coreNo)
    ∧ (chuted.issue.lid = (theCtx chuted popForm.fields).g.lid)
    ∧ (together (theCtx chuted popForm.fields) = true)
    ∧ (((theCtx chuted popForm.fields).exec.all fun t => isOk ((theCtx chuted popForm.fields).precheck Op.pop t)) = true)
    ∧ ((chuted.core (theCtx chuted popForm.fields).g.coreNo).chuteFault (theCtx chuted popForm.fields).g.lid = none)
    ∧ (chuteIdle chuted (theCtx chuted popForm.fields).g.coreNo ((theCtx chuted popForm.fields).f.b.num % 4) = true)
    ∧ ((chuted.core (theCtx chuted popForm.fields).g.coreNo).chutes.length = 4)
    ∧ ((chuted.core (theCtx chuted popForm.fields).g.coreNo).chute ((theCtx chuted popForm.fields).f.b.num % 4) =
      [List.replicate 64 (7 : Word)]) :=
  by and_intros <;> first | exact ⟨_, rfl, by decide⟩ | decide +kernel

theorem test_meets_ChutePopAndPush_push :
    (IsRow (Instr.push pushForm) Op.push pushForm.fields)
    ∧ (oneGroup chuted pushForm.fields = some (theCtx chuted pushForm.fields))
    ∧ (chuted.issue.pfx.rep = none)
    ∧ (chuted.issue.core = (theCtx chuted pushForm.fields).g.coreNo)
    ∧ (chuted.issue.lid = (theCtx chuted pushForm.fields).g.lid)
    ∧ (together (theCtx chuted pushForm.fields) = true)
    ∧ (((theCtx chuted pushForm.fields).exec.all fun t =>
        isOk ((theCtx chuted pushForm.fields).precheck Op.push t) &&
          constOk (theCtx chuted pushForm.fields) (theCtx chuted pushForm.fields).f.a) =
      true)
    ∧ ((chuted.core (theCtx chuted pushForm.fields).g.coreNo).chuteFault (theCtx chuted pushForm.fields).g.lid = none)
    ∧ (chuteIdle chuted (theCtx chuted pushForm.fields).g.coreNo ((theCtx chuted pushForm.fields).f.d % 4) = true)
    ∧ ((chuted.core (theCtx chuted pushForm.fields).g.coreNo).chutes.length = 4)
    ∧ (List.length
        ((chuted.core (theCtx chuted pushForm.fields).g.coreNo).chute ((theCtx chuted pushForm.fields).f.d % 4)) <
      64) :=
  by and_intros <;> first | exact ⟨_, rfl, by decide⟩ | decide +kernel

theorem test_meets_ClaimsReleasesClears_oclaim :
    (IsRow (Instr.oclaim claimO) Op.oclaim (fieldsOf (Instr.oclaim claimO)))
    ∧ (matReady Op.oclaim (fieldsOf (Instr.oclaim claimO)) quadded = some (theCtx quadded (fieldsOf (Instr.oclaim claimO))))
    ∧ ((quadOf (theCtx quadded (fieldsOf (Instr.oclaim claimO)))).cmds = [])
    ∧ (quadded.issue.pfx.guard = none) :=
  by and_intros <;> first | exact ⟨_, rfl, by decide⟩ | decide +kernel

theorem test_meets_ClaimsReleasesClears_aclaim :
    (IsRow (Instr.aclaim claimA) Op.aclaim (fieldsOf (Instr.aclaim claimA)))
    ∧ (matReady Op.aclaim (fieldsOf (Instr.aclaim claimA)) quadded = some (theCtx quadded (fieldsOf (Instr.aclaim claimA))))
    ∧ ((quadOf (theCtx quadded (fieldsOf (Instr.aclaim claimA)))).cmds = [])
    ∧ (quadded.issue.pfx.guard = none)
    ∧ (constOk (theCtx quadded (fieldsOf (Instr.aclaim claimA))) (theCtx quadded (fieldsOf (Instr.aclaim claimA))).f.b = true)
    ∧ (8 ≤ BitVec.toNat (got ((theCtx quadded (fieldsOf (Instr.aclaim claimA))).sB LitKind.int 1)))
    ∧ (BitVec.toNat (got ((theCtx quadded (fieldsOf (Instr.aclaim claimA))).sB LitKind.int 1)) ≤ 64)
    ∧ (((quadOf (theCtx quadded (fieldsOf (Instr.aclaim claimA)))).tile
            (theCtx quadded (fieldsOf (Instr.aclaim claimA))).f.a.num).holder =
        some (theCtx quadded (fieldsOf (Instr.aclaim claimA))).g.gid →
      ((quadOf (theCtx quadded (fieldsOf (Instr.aclaim claimA)))).tile
            (theCtx quadded (fieldsOf (Instr.aclaim claimA))).f.a.num).n =
        BitVec.toNat (got ((theCtx quadded (fieldsOf (Instr.aclaim claimA))).sB LitKind.int 1))) :=
  by and_intros <;> first | exact ⟨_, rfl, by decide⟩ | decide +kernel

theorem test_meets_ClaimsReleasesClears_orelease :
    (IsRow (Instr.orelease handle0) Op.orelease (fieldsOf (Instr.orelease handle0)))
    ∧ (matReady Op.orelease (fieldsOf (Instr.orelease handle0)) quadded =
      some (theCtx quadded (fieldsOf (Instr.orelease handle0))))
    ∧ ((quadOf (theCtx quadded (fieldsOf (Instr.orelease handle0)))).cmds = [])
    ∧ (quadded.issue.pfx.guard = none)
    ∧ ((theCtx quadded (fieldsOf (Instr.orelease handle0))).f.a.num < 64)
    ∧ (((quadOf (theCtx quadded (fieldsOf (Instr.orelease handle0)))).slot
          (theCtx quadded (fieldsOf (Instr.orelease handle0))).f.a.num).holder =
      some (theCtx quadded (fieldsOf (Instr.orelease handle0))).g.gid) :=
  by and_intros <;> first | exact ⟨_, rfl, by decide⟩ | decide +kernel

theorem test_meets_ClaimsReleasesClears_arelease :
    (IsRow (Instr.arelease handle0) Op.arelease (fieldsOf (Instr.arelease handle0)))
    ∧ (matReady Op.arelease (fieldsOf (Instr.arelease handle0)) quadded =
      some (theCtx quadded (fieldsOf (Instr.arelease handle0))))
    ∧ ((quadOf (theCtx quadded (fieldsOf (Instr.arelease handle0)))).cmds = [])
    ∧ (quadded.issue.pfx.guard = none)
    ∧ (((quadOf (theCtx quadded (fieldsOf (Instr.arelease handle0)))).tile
          (theCtx quadded (fieldsOf (Instr.arelease handle0))).f.a.num).holder =
      some (theCtx quadded (fieldsOf (Instr.arelease handle0))).g.gid) :=
  by and_intros <;> first | exact ⟨_, rfl, by decide⟩ | decide +kernel

theorem test_meets_ClaimsReleasesClears_aclear :
    (IsRow (Instr.aclear clear0) Op.aclear (fieldsOf (Instr.aclear clear0)))
    ∧ (matReady Op.aclear (fieldsOf (Instr.aclear clear0)) quadded = some (theCtx quadded (fieldsOf (Instr.aclear clear0))))
    ∧ ((quadOf (theCtx quadded (fieldsOf (Instr.aclear clear0)))).cmds = [])
    ∧ (quadded.issue.pfx.guard = none)
    ∧ (((quadOf (theCtx quadded (fieldsOf (Instr.aclear clear0)))).tile
          (theCtx quadded (fieldsOf (Instr.aclear clear0))).f.a.num).holder =
      some (theCtx quadded (fieldsOf (Instr.aclear clear0))).g.gid)
    ∧ ((theCtx quadded (fieldsOf (Instr.aclear clear0))).f.b.num = 127 ∨
      isFloatFmt
          (slotFmt
            ((theCtx quadded (fieldsOf (Instr.aclear clear0))).slotImg
              (theCtx quadded (fieldsOf (Instr.aclear clear0))).f.b.num)) =
        true) :=
  by and_intros <;> first | exact ⟨_, rfl, by decide⟩ | decide +kernel

theorem test_meets_MatrixCommandsQueued_mma :
    (IsRow (Instr.mma pass01) Op.mma pass01.fields)
    ∧ (matReady Op.mma pass01.fields quadded = some (theCtx quadded pass01.fields))
    ∧ (noneLeft (theCtx quadded pass01.fields) = true)
    ∧ ((theCtx quadded pass01.fields).exec ≠ [])
    ∧ ((quadOf (theCtx quadded pass01.fields)).entries < 32)
    ∧ (mmaOk (theCtx quadded pass01.fields) = true) :=
  by and_intros <;> first | exact ⟨_, rfl, by decide⟩ | decide +kernel

theorem test_meets_MatrixCommandsQueued_cmma :
    (IsRow (Instr.cmma pass22) Op.cmma pass22.fields)
    ∧ (matReady Op.cmma pass22.fields quadded = some (theCtx quadded pass22.fields))
    ∧ (noneLeft (theCtx quadded pass22.fields) = true)
    ∧ ((theCtx quadded pass22.fields).exec ≠ [])
    ∧ ((quadOf (theCtx quadded pass22.fields)).entries < 32)
    ∧ (cmmaOk (theCtx quadded pass22.fields) = true) :=
  by and_intros <;> first | exact ⟨_, rfl, by decide⟩ | decide +kernel

theorem test_meets_MatrixCommandsQueued_mzpc :
    (IsRow (Instr.mzpc zp0) Op.mzpc zp0.fields)
    ∧ (matReady Op.mzpc zp0.fields quadded = some (theCtx quadded zp0.fields))
    ∧ (noneLeft (theCtx quadded zp0.fields) = true)
    ∧ ((theCtx quadded zp0.fields).exec ≠ [])
    ∧ ((quadOf (theCtx quadded zp0.fields)).entries < 32)
    ∧ (mzpcOk (theCtx quadded zp0.fields) = true) :=
  by and_intros <;> first | exact ⟨_, rfl, by decide⟩ | decide +kernel

theorem test_meets_MatrixCommandsQueued_oload :
    (IsRow (Instr.oload oload0) Op.oload oload0.fields)
    ∧ (matReady Op.oload oload0.fields quadded = some (theCtx quadded oload0.fields))
    ∧ (noneLeft (theCtx quadded oload0.fields) = true)
    ∧ ((theCtx quadded oload0.fields).exec ≠ [])
    ∧ (oloadOk (theCtx quadded oload0.fields) = true)
    ∧ ((theCtx quadded oload0.fields).fetch quadded (theCtx quadded oload0.fields).exec
        (if (theCtx quadded oload0.fields).f.x = (0 : BitVec 7) then 1 else 2)
        (oloadPieces (theCtx quadded oload0.fields)) =
      Except.ok rows0)
    ∧ ((theCtx quadded oload0.fields).fetch quadded (theCtx quadded oload0.fields).exec 2
        (divisorPieces (theCtx quadded oload0.fields)) =
      Except.ok []) :=
  by and_intros <;> first | exact ⟨_, rfl, by decide⟩ | decide +kernel

theorem test_meets_MatrixCommandsQueued_aload :
    (IsRow (Instr.aload aload0) Op.aload aload0.fields)
    ∧ (matReady Op.aload aload0.fields quadded = some (theCtx quadded aload0.fields))
    ∧ (noneLeft (theCtx quadded aload0.fields) = true)
    ∧ ((theCtx quadded aload0.fields).exec ≠ [])
    ∧ ((seen (theCtx quadded aload0.fields)).heldTile (theCtx quadded aload0.fields).g.gid (theCtx quadded aload0.fields).f.d =
      true)
    ∧ (((seen (theCtx quadded aload0.fields)).tile (theCtx quadded aload0.fields).f.d).mode ≠ (0 : BitVec 2))
    ∧ (collectEach
        (List.map (fun t => (t, (theCtx quadded aload0.fields).aloadAt (theCtx quadded aload0.fields).f.d t))
          (theCtx quadded aload0.fields).exec) =
      Except.ok ads0)
    ∧ (rowsOf
        (List.map
          (fun e =>
            (e.1,
              (theCtx quadded aload0.fields).aloadRow quadded e.2
                ((seen (theCtx quadded aload0.fields)).tile (theCtx quadded aload0.fields).f.d).n e.1))
          ads0) =
      Except.ok adRows) :=
  by and_intros <;> first | exact ⟨_, rfl, by decide⟩ | decide +kernel

theorem test_meets_MatrixCommandsQueued_aread :
    (IsRow (Instr.aread aread0) Op.aread aread0.fields)
    ∧ (matReady Op.aread aread0.fields quadded = some (theCtx quadded aread0.fields))
    ∧ (noneLeft (theCtx quadded aread0.fields) = true)
    ∧ ((theCtx quadded aread0.fields).exec ≠ [])
    ∧ ((seen (theCtx quadded aread0.fields)).heldTile (theCtx quadded aread0.fields).g.gid
        (theCtx quadded aread0.fields).f.a.num =
      true)
    ∧ (((seen (theCtx quadded aread0.fields)).tile (theCtx quadded aread0.fields).f.a.num).mode ≠ (0 : BitVec 2))
    ∧ (colsOk (theCtx quadded aread0.fields)
        ((seen (theCtx quadded aread0.fields)).tile (theCtx quadded aread0.fields).f.a.num).n =
      true) :=
  by and_intros <;> first | exact ⟨_, rfl, by decide⟩ | decide +kernel

theorem test_meets_MatrixCommandsQueued_adrain :
    (IsRow (Instr.adrain adrain0) Op.adrain adrain0.fields)
    ∧ (matReady Op.adrain adrain0.fields quadded = some (theCtx quadded adrain0.fields))
    ∧ (noneLeft (theCtx quadded adrain0.fields) = true)
    ∧ ((theCtx quadded adrain0.fields).exec ≠ [])
    ∧ (if (theCtx quadded adrain0.fields).f.v = (0 : BitVec 3) then ([] : List (List Byte)) = []
    else
      (theCtx quadded adrain0.fields).fetch quadded (theCtx quadded adrain0.fields).exec 1
          (drainPieces (theCtx quadded adrain0.fields)) =
        Except.ok [])
    ∧ (drainOk (theCtx quadded adrain0.fields) (drainWords []) = true) :=
  by and_intros <;> first | exact ⟨_, rfl, by decide⟩ | decide +kernel

theorem test_meets_AccumulatorsAndWaits_awrite :
    (IsRow (Instr.awrite awrite0) Op.awrite awrite0.fields)
    ∧ (matReady Op.awrite awrite0.fields quadded = some (theCtx quadded awrite0.fields))
    ∧ ((quadOf (theCtx quadded awrite0.fields)).cmds = [])
    ∧ (quadded.issue.pfx.guard = none)
    ∧ ((theCtx quadded awrite0.fields).exec ≠ [])
    ∧ (((quadOf (theCtx quadded awrite0.fields)).tile (theCtx quadded awrite0.fields).f.d).holder =
      some (theCtx quadded awrite0.fields).g.gid)
    ∧ (((quadOf (theCtx quadded awrite0.fields)).tile (theCtx quadded awrite0.fields).f.d).mode ≠ (0 : BitVec 2))
    ∧ (((quadOf (theCtx quadded awrite0.fields)).tile (theCtx quadded awrite0.fields).f.d).mode = (1 : BitVec 2) →
      partOf (theCtx quadded awrite0.fields).f.v = CellPart.lo ∨ partOf (theCtx quadded awrite0.fields).f.v = CellPart.flg)
    ∧ (((quadOf (theCtx quadded awrite0.fields)).tile (theCtx quadded awrite0.fields).f.d).n ≤ 64)
    ∧ (colsOk (theCtx quadded awrite0.fields)
        ((quadOf (theCtx quadded awrite0.fields)).tile (theCtx quadded awrite0.fields).f.d).n =
      true)
    ∧ (constOk (theCtx quadded awrite0.fields) (theCtx quadded awrite0.fields).f.a = true) :=
  by and_intros <;> first | exact ⟨_, rfl, by decide⟩ | decide +kernel

theorem test_meets_AccumulatorsAndWaits_mwaitq :
    (IsRow (Instr.mwaitq allHandles) Op.mwaitq (fieldsOf (Instr.mwaitq allHandles)))
    ∧ (oneGroup (working passOp [64, 0, 1] none) (fieldsOf (Instr.mwaitq allHandles)) =
      some (theCtx (working passOp [64, 0, 1] none) (fieldsOf (Instr.mwaitq allHandles))))
    ∧ ((working passOp [64, 0, 1] none).issue.pfx.rep = none) :=
  by and_intros <;> first | exact ⟨_, rfl, by decide⟩ | decide +kernel

theorem test_meets_AccumulatorsAndWaits_mstat :
    (IsRow (Instr.mstat stat0) Op.mstat (fieldsOf (Instr.mstat stat0)))
    ∧ (matReady Op.mstat (fieldsOf (Instr.mstat stat0)) quadded = some (theCtx quadded (fieldsOf (Instr.mstat stat0)))) :=
  by and_intros <;> first | exact ⟨_, rfl, by decide⟩ | decide +kernel

theorem test_meets_PassArithmetic :
    ([0, 1].Nodup)
    ∧ (tileI.n ≤ 64)
    ∧ ((∃ a b, PassKind.int false = PassKind.cplx a b) → tileI.n % 2 = 0) :=
  by and_intros <;> decide +kernel

theorem test_meets_MatrixEngineSteps_grant :
    (((working passOp [64, 0, 1] none).quad 0).winner =
      some (cmd passOp [64, 0, 1] none)) :=
  by decide +kernel

theorem test_meets_MatrixEngineSteps_complete :
    (((working passOp [64, 0, 1] (some 5)).quad 0).firstGranted =
      some (cmd passOp [64, 0, 1] (some 5))) :=
  by decide +kernel

theorem test_meets_MatrixEngineSteps_oload :
    (((working loadOp [0] none).quad 0).ready? 7 MatOp.isOload = some (cmd loadOp [0] none)) :=
  by decide +kernel

theorem test_meets_MatrixEngineSteps_aload :
    (((working (MatOp.aload 0 []) [64] none).quad 0).ready? 7 MatOp.isAload =
      some (cmd (MatOp.aload 0 []) [64] none)) :=
  by decide +kernel

theorem test_meets_MatrixEngineSteps_aread :
    (((working readOp [64] none).quad 0).ready? 7 MatOp.isAread = some (cmd readOp [64] none))
    ∧ ((cmd readOp [64] none).op = MatOp.aread 0 CellPart.lo [(0, 3), (1, 3)] 2) :=
  by and_intros <;> decide +kernel

theorem test_meets_MatrixEngineSteps_drain :
    (((working drainOp [64] none).quad 0).ready? 7 MatOp.isDrain = some (cmd drainOp [64] none))
    ∧ ((cmd drainOp [64] none).op = MatOp.drain 0 8 spec0)
    ∧ (List.map
        (fun i =>
          (((working drainOp [64] none).quad 0).tile 0).drainRow spec0 i spec0.cols 0
            (match List.find? (fun e => e.1 == i) spec0.seeds with
            | some e => e.2
            | none => (0 : Word)))
        (cmd drainOp [64] none).tids =
      List.map (fun e => Except.ok e) [List.replicate 16 0, List.replicate 16 0]) :=
  by and_intros <;> decide +kernel

theorem test_meets_SemaphoreUnits_semsig :
    (IsRow (Instr.semsig semForm) Op.semsig semForm.fields)
    ∧ (syncReady Op.semsig semForm.fields (onlyThree base) = some (theCtx (onlyThree base) semForm.fields))
    ∧ ((theCtx (onlyThree base) semForm.fields).exec = [3])
    ∧ ((theCtx (onlyThree base) semForm.fields).semArgs 3 = Except.ok (3, (2 : Word))) :=
  by and_intros <;> first | exact ⟨_, rfl, by decide⟩ | decide +kernel

theorem test_meets_SemaphoreUnits_semwait :
    (IsRow (Instr.semwait semForm) Op.semwait semForm.fields)
    ∧ (syncReady Op.semwait semForm.fields base = some (theCtx base semForm.fields))
    ∧ (((theCtx base semForm.fields).exec.all fun t => isOk ((theCtx base semForm.fields).semArgs t)) = true) :=
  by and_intros <;> first | exact ⟨_, rfl, by decide⟩ | decide +kernel

theorem test_meets_SemaphoreUnits_semrd :
    (IsRow (Instr.semrd semRead) Op.semrd semRead.fields)
    ∧ (syncReady Op.semrd semRead.fields base = some (theCtx base semRead.fields))
    ∧ (((theCtx base semRead.fields).exec.all fun t => isOk ((theCtx base semRead.fields).semNo t)) = true) :=
  by and_intros <;> first | exact ⟨_, rfl, by decide⟩ | decide +kernel

theorem test_meets_PostAndCollect_post :
    (IsRow (Instr.post postForm) Op.post postForm.fields)
    ∧ (syncReady Op.post postForm.fields (pigeon []) = some (theCtx (pigeon []) postForm.fields))
    ∧ (((theCtx (pigeon []) postForm.fields).exec.all fun t => isOk ((theCtx (pigeon []) postForm.fields).postArgs t)) = true) :=
  by and_intros <;> first | exact ⟨_, rfl, by decide⟩ | decide +kernel

theorem test_meets_PostAndCollect_collect :
    (IsRow (Instr.collect collectForm) Op.collect collectForm.fields)
    ∧ (syncReady Op.collect collectForm.fields (pigeon [(7 : Dword), (9 : Dword)]) =
      some (theCtx (pigeon [(7 : Dword), (9 : Dword)]) collectForm.fields))
    ∧ (((theCtx (pigeon [(7 : Dword), (9 : Dword)]) collectForm.fields).exec.all fun t =>
        isOk ((theCtx (pigeon [(7 : Dword), (9 : Dword)]) collectForm.fields).collectArgs t)) =
      true)
    ∧ ((pigeon [(7 : Dword), (9 : Dword)]).issue.lid = (theCtx (pigeon [(7 : Dword), (9 : Dword)]) collectForm.fields).g.lid) :=
  by and_intros <;> first | exact ⟨_, rfl, by decide⟩ | decide +kernel

theorem test_meets_PostAndCollect_give :
    (collecting.launch? (launchOf collecting).lid = some (launchOf collecting))
    ∧ (((launchOf collecting).hole 0).items = [(7 : Dword), (9 : Dword)])
    ∧ (0 < (launchOf collecting).holes.length)
    ∧ (collecting.collectors (launchOf collecting).lid 0 = [(3, 1, 3)])
    ∧ (collecting.group? 1 = some (groupOf collecting))
    ∧ (collecting.thread? 1 3 = some (thread3 collecting))
    ∧ ((thread3 collecting).status = Status.blocked (Wait.collect 0 2 3 7) (8 : Word)) :=
  by and_intros <;> decide +kernel

theorem test_meets_MessagesAndCollectives_amsend :
    (IsRow (Instr.amsend sendForm) Op.amsend sendForm.fields)
    ∧ (oneGroup base sendForm.fields = some (theCtx base sendForm.fields))
    ∧ (base.issue.pfx.rep = none)
    ∧ (((theCtx base sendForm.fields).exec.all fun t =>
        isOk ((theCtx base sendForm.fields).precheck Op.amsend t) && isOk ((theCtx base sendForm.fields).message t)) =
      true) :=
  by and_intros <;> first | exact ⟨_, rfl, by decide⟩ | decide +kernel

theorem test_meets_MessagesAndCollectives_coll :
    (IsRow (Instr.coll collForm) Op.coll collForm.fields)
    ∧ (oneGroup described collForm.fields = some (theCtx described collForm.fields))
    ∧ (described.issue.pfx.rep = none)
    ∧ ((theCtx described collForm.fields).exec ≠ [])
    ∧ (isOk
        ((theCtx described collForm.fields).precheck Op.coll
          (nth (theCtx described collForm.fields).exec 0 0)) =
      true)
    ∧ (constOk (theCtx described collForm.fields) (theCtx described collForm.fields).f.a = true)
    ∧ (BitVec.toNat (got ((theCtx described collForm.fields).sA LitKind.int 2)) % 64 = 0)
    ∧ ((theCtx described collForm.fields).fetch described [nth (theCtx described collForm.fields).exec 0 0] 2
        [(BitVec.toNat (got ((theCtx described collForm.fields).sA LitKind.int 2)), 64)] =
      Except.ok [descriptor])
    ∧ (collectiveOk described.boot.position [descriptor].flatten = true) :=
  by and_intros <;> first | exact ⟨_, rfl, by decide⟩ | decide +kernel

theorem test_meets_MessagesAndCollectives_accepted :
    (IsRow (Instr.amsend sendForm) Op.amsend sendForm.fields)
    ∧ (oneGroup (onlyThree base) sendForm.fields = some (theCtx (onlyThree base) sendForm.fields))
    ∧ ((onlyThree base).issue.pfx.rep = none)
    ∧ ((theCtx (onlyThree base) sendForm.fields).exec = [3])
    ∧ (isOk ((theCtx (onlyThree base) sendForm.fields).precheck Op.amsend 3) = true)
    ∧ ((theCtx (onlyThree base) sendForm.fields).message 3 = Except.ok ((okMsg 3).1, (okMsg 3).2))
    ∧ ((onlyThree base).canSend (okMsg 3).1 (okMsg 3).2 = true)
    ∧ (((theCtx (onlyThree base) sendForm.fields).th 3).holds = [])
    ∧ ((onlyThree base).senders = 0) :=
  by and_intros <;> first | exact ⟨_, rfl, by decide⟩ | decide +kernel

theorem test_meets_MessagesAndCollectives_started :
    (IsRow (Instr.coll collForm) Op.coll collForm.fields)
    ∧ (oneGroup described collForm.fields = some (theCtx described collForm.fields))
    ∧ (described.issue.pfx.rep = none)
    ∧ (described.issue.only = none)
    ∧ ((theCtx described collForm.fields).exec ≠ [])
    ∧ (isOk
        ((theCtx described collForm.fields).precheck Op.coll
          (nth (theCtx described collForm.fields).exec 0 0)) =
      true)
    ∧ (constOk (theCtx described collForm.fields) (theCtx described collForm.fields).f.a = true)
    ∧ (BitVec.toNat (got ((theCtx described collForm.fields).sA LitKind.int 2)) % 64 = 0)
    ∧ ((theCtx described collForm.fields).fetch described [nth (theCtx described collForm.fields).exec 0 0] 2
        [(BitVec.toNat (got ((theCtx described collForm.fields).sA LitKind.int 2)), 64)] =
      Except.ok [descriptor])
    ∧ (collectiveOk described.boot.position [descriptor].flatten = true) :=
  by and_intros <;> first | exact ⟨_, rfl, by decide⟩ | decide +kernel

theorem test_meets_Bisection_call :
    (bisecting.issue.pfx.inv = some invP)
    ∧ (oneGroup bisecting farForm.fieldsFar = some (theCtx bisecting farForm.fieldsFar))
    ∧ (bisecting.issue.pfx.rep = none)
    ∧ (∀ t ∈ (theCtx bisecting farForm.fieldsFar).tids,
      ∃ e y,
        (theCtx bisecting farForm.fieldsFar).invEntry invP t = Except.ok (e, y) ∧
          ((theCtx bisecting farForm.fieldsFar).th t).invBegin e y = (started7, none)) :=
  by
    have h3 :
      ∀ t ∈ (theCtx bisecting farForm.fieldsFar).tids,
        ∃ e y,
          (theCtx bisecting farForm.fieldsFar).invEntry invP t = Except.ok (e, y) ∧
            ((theCtx bisecting farForm.fieldsFar).th t).invBegin e y = (started7, none) := fun t ht => by
      have e : t = 3 := by
        have k : (theCtx bisecting farForm.fieldsFar).tids = [3] := by decide +kernel
        simpa [k] using ht
      subst e
      exact ⟨evalEntry, 0, by decide +kernel, by decide +kernel⟩
    and_intros <;> first | exact h3 | decide +kernel

theorem test_meets_Bisection_ret :
    (IsRow (Instr.ret bare) Op.ret bare.fields)
    ∧ (evaluating.issue.trick ≠ [])
    ∧ (∀ e ∈ evaluating.issue.trick, e.2 ≠ [] ∧ ∀ t ∈ e.2, evaluating.inEval e.1 t = true)
    ∧ (trickOk evaluating = true)
    ∧ (evaluating.issue.pfx.rep = none) :=
  by and_intros <;> first | exact ⟨_, rfl, by decide⟩ | decide +kernel

theorem test_meets_Bisection_iteration :
    (doneState.group? 1 = some (groupOf doneState))
    ∧ ((groupOf doneState).threads[3]? = some (thread3 doneState))
    ∧ ((thread3 doneState).inv = some evalDone)
    ∧ (evalDone.done = true)
    ∧ ((groupOf doneState).evalOf evalDone.id = [(3, thread3 doneState, evalDone)])
    ∧ ((thread3 doneState).invReturn evalDone (doneState.stopsAt (groupOf doneState) (thread3 doneState)) = (returned, none))
    ∧ (returned.inv ≠ none) :=
  by and_intros <;> decide +kernel

theorem test_meets_Bisection_finish :
    (lastState.group? 1 = some (groupOf lastState))
    ∧ ((groupOf lastState).threads[3]? = some (thread3 lastState))
    ∧ ((thread3 lastState).inv = some evalLast)
    ∧ (evalLast.done = true)
    ∧ ((groupOf lastState).evalOf evalLast.id = [(3, thread3 lastState, evalLast)])
    ∧ ((thread3 lastState).invReturn evalLast (lastState.stopsAt (groupOf lastState) (thread3 lastState)) = (finished, none))
    ∧ (finished.inv = none) :=
  by and_intros <;> decide +kernel

theorem test_meets_PreciseTraps_vector :
    (IsRow (Instr.iadd rangeForm) Op.iadd rangeForm.fields)
    ∧ (Op.iadd ∈ vecOps)
    ∧ (oneGroup (guarded 8) rangeForm.fields = some (theCtx (guarded 8) rangeForm.fields))
    ∧ ((theCtx (guarded 8) rangeForm.fields).exec = [3])
    ∧ ((theCtx (guarded 8) rangeForm.fields).precheck Op.iadd 3 =
      Except.error (errOf ((theCtx (guarded 8) rangeForm.fields).precheck Op.iadd 3)))
    ∧ (trapReady (guarded 8) (theCtx (guarded 8) rangeForm.fields).g [3] = true) :=
  by and_intros <;> first | exact ⟨_, rfl, by decide⟩ | decide +kernel

theorem test_meets_PreciseTraps_memory :
    (IsRow (Instr.ld ldTeam) Op.ld ldTeam.fields)
    ∧ (isMem Op.ld = true)
    ∧ (newIssue (guarded 9) = true)
    ∧ (oneGroup (guarded 9) ldTeam.fields = some (theCtx (guarded 9) ldTeam.fields))
    ∧ ((theCtx (guarded 9) ldTeam.fields).exec = [3])
    ∧ ((theCtx (guarded 9) ldTeam.fields).resolved Op.ld (formOf Op.ld) 3 =
      Except.error (errOf ((theCtx (guarded 9) ldTeam.fields).resolved Op.ld (formOf Op.ld) 3)))
    ∧ ((errOf ((theCtx (guarded 9) ldTeam.fields).resolved Op.ld (formOf Op.ld) 3)).cause =
        (68 : BitVec 16) →
      (errOf ((theCtx (guarded 9) ldTeam.fields).resolved Op.ld (formOf Op.ld) 3)).reason ≠ (4 : BitVec 8))
    ∧ (trapReady (guarded 9) (theCtx (guarded 9) ldTeam.fields).g [3] = true) :=
  by and_intros <;> first | exact ⟨_, rfl, by decide⟩ | decide +kernel

theorem test_meets_PreciseTraps_range :
    (shape Op.iadd (theCtx (guarded 8) rangeForm.fields).f = some (shapeOf Op.iadd rangeForm.fields))
    ∧ ((theCtx (guarded 8) rangeForm.fields).rangeOk (shapeOf Op.iadd rangeForm.fields) = false) :=
  by and_intros <;> decide +kernel

theorem test_meets_PreciseTraps_align :
    ((theCtx (guarded 9) ldTeam.fields).precheck Op.ld 3 = Except.ok ())
    ∧ (Op.ld = Op.ld ∨ Op.ld = Op.lda)
    ∧ ((theCtx (guarded 9) ldTeam.fields).loadAddr (theCtx (guarded 9) ldTeam.fields).f.v.toNat 3 =
      Except.ok (9 : Dword))
    ∧ (BitVec.toNat (9 : Dword) % memBytes (theCtx (guarded 9) ldTeam.fields).f.ty ≠ 0) :=
  by and_intros <;> decide +kernel

theorem test_meets_TrapEntryAndReturn_entry :
    ((guarded 8).group? (groupOf (guarded 8)).gid = some (groupOf (guarded 8)))
    ∧ (trapOf3.threads ≠ [])
    ∧ (trapReady (guarded 8) (groupOf (guarded 8)) (List.map (fun x => x.tid) trapOf3.threads) = true) :=
  by and_intros <;> decide +kernel

theorem test_meets_TrapEntryAndReturn_tret :
    (IsRow (Instr.tret bare) Op.tret bare.fields)
    ∧ (oneGroup handling bare.fields = some (theCtx handling bare.fields))
    ∧ ((theCtx handling bare.fields).g.handler = true) :=
  by and_intros <;> first | exact ⟨_, rfl, by decide⟩ | decide +kernel

theorem test_meets_TrapEntryAndReturn_illegal :
    (IsRow (Instr.tret bare) Op.tret bare.fields)
    ∧ (oneGroup (guarded 8) bare.fields = some (theCtx (guarded 8) bare.fields))
    ∧ ((theCtx (guarded 8) bare.fields).g.handler = false) :=
  by and_intros <;> first | exact ⟨_, rfl, by decide⟩ | decide +kernel

theorem test_meets_TrapEntryAndReturn_release :
    (returning.group? (groupOf returning).gid = some (groupOf returning))
    ∧ (returning.launch? (groupOf returning).lid = some (launchOf returning))
    ∧ (allReturn (groupOf returning) = true)
    ∧ ((groupOf returning).heldTraps = [])
    ∧ (∀ (t : ℕ),
      (groupOf returning).tretWaiting t = true →
        returning.targetCause (launchOf returning) (State.resumeOff (groupOf returning) t) false = none) :=
  by
    have h4 :
      ∀ (t : ℕ),
        (groupOf returning).tretWaiting t = true →
          returning.targetCause (launchOf returning) (State.resumeOff (groupOf returning) t) false = none := fun t ht => by
      have e : t < 8 := by
        by_contra c
        have k : (groupOf returning).threads[t]? = none := by
          rw [List.getElem?_eq_none_iff, show (groupOf returning).threads.length = 8 from by decide +kernel]
          omega
        simp [Group.tretWaiting, k] at ht
      revert ht
      exact (by decide +kernel : ∀ t < 8, (groupOf returning).tretWaiting t = true →
        returning.targetCause (launchOf returning) (State.resumeOff (groupOf returning) t) false = none) t e
    and_intros <;> first | exact h4 | decide +kernel

theorem test_meets_Repetitions_last :
    ((repeating 3).issue.pfx.rep = some repP)
    ∧ (trickOk (repeating 3) = true)
    ∧ ((repeating 3).issue.rep = repP.cnt.toNat) :=
  by and_intros <;> decide +kernel

theorem test_meets_Repetitions_next :
    ((repeating 1).issue.pfx.rep = some repP)
    ∧ (trickOk (repeating 1) = true)
    ∧ ((repeating 1).issue.rep < repP.cnt.toNat) :=
  by and_intros <;> decide +kernel

theorem test_meets_AccessesPerformed_store :
    (alone (accessing storeOp) (groupOf (accessing storeOp)) 3 (thread3 (accessing storeOp)) (access8 storeOp) = true)
    ∧ ((access8 storeOp).place = Place.phys 8)
    ∧ ((access8 storeOp).op.isStore = true)
    ∧ (isAperture 8 = false)
    ∧ ((accessing storeOp).isTail (access8 storeOp) = false)
    ∧ ((access8 storeOp).guard = none) :=
  by and_intros <;> decide +kernel

theorem test_meets_AccessesPerformed_load :
    (alone (accessing loadReg2) (groupOf (accessing loadReg2)) 3 (thread3 (accessing loadReg2)) (access8 loadReg2) =
      true)
    ∧ ((access8 loadReg2).place = Place.phys 8)
    ∧ ((access8 loadReg2).op.isStore = false) :=
  by and_intros <;> decide +kernel

theorem test_meets_AccessesPerformed_bytes :
    ((accessing storeOp).group? (groupOf (accessing storeOp)).gid = some (groupOf (accessing storeOp)))
    ∧ ((groupOf (accessing storeOp)).threads[3]? = some (thread3 (accessing storeOp)))
    ∧ ((thread3 (accessing storeOp)).ops = [access8 storeOp])
    ∧ ((access8 storeOp).place = Place.phys 8)
    ∧ (((access8 storeOp).op.isStore || (access8 storeOp).reads) = true)
    ∧ ((access8 storeOp).reads = true → (accessing storeOp).badAt 8 (access8 storeOp).size = false) :=
  by and_intros <;> decide +kernel

theorem test_meets_ThreadSteps_join :
    (joining.group? (groupOf joining).gid = some (groupOf joining))
    ∧ ((groupOf joining).joinReady (0 : Word) = true) :=
  by and_intros <;> decide +kernel

theorem test_meets_ThreadSteps_spin :
    (spinning.group? (groupOf spinning).gid = some (groupOf spinning))
    ∧ ((groupOf spinning).threads[3]? = some (thread3 spinning))
    ∧ ((thread3 spinning).spin = 8)
    ∧ ((thread3 spinning).forced = none)
    ∧ ((thread3 spinning).exited = false) :=
  by and_intros <;> decide +kernel

theorem test_meets_ThreadSteps_yield :
    (yielding.group? (groupOf yielding).gid = some (groupOf yielding))
    ∧ ((groupOf yielding).threads[3]? = some (thread3 yielding))
    ∧ ((thread3 yielding).yieldUntil = some 32) :=
  by and_intros <;> decide +kernel

theorem test_meets_ThreadSteps_tail :
    (alone belled (groupOf belled) 3 (thread3 belled) (access8 storeOp) = true)
    ∧ ((access8 storeOp).place = Place.phys 8)
    ∧ ((access8 storeOp).op = AccOp.store [(1 : Byte), (2 : Byte), (3 : Byte), (4 : Byte)])
    ∧ (belled.doorbell? 8 (access8 storeOp).size = some bell) :=
  by and_intros <;> decide +kernel

theorem test_meets_ThreadSteps_item :
    (sending.launch? (launchOf sending).lid = some (launchOf sending))
    ∧ (List.filter Posted.free (firstInTrick (sending.postsOut (launchOf sending).lid 0)) =
      [{ lane := 3, gid := 1, tid := 3, trick := 7, item := (9 : Dword), seq := some 0,
          free := true : Posted }])
    ∧ (((launchOf sending).hole 0).items.length < 2 ^ ((launchOf sending).hole 0).cap) :=
  by and_intros <;> decide +kernel

theorem test_meets_ThreadSteps_illegal :
    ((guarded 8).issue.trick = [((groupOf (guarded 8)).gid, [3])])
    ∧ ((guarded 8).group? (groupOf (guarded 8)).gid = some (groupOf (guarded 8)))
    ∧ ([3] ≠ [])
    ∧ (trapReady (guarded 8) (groupOf (guarded 8)) [3] = true) :=
  by and_intros <;> decide +kernel

theorem test_meets_TeamsAndMessages_free :
    (Sys2Proof.Tests.ended.thread? 1 3 = some (thread3 Sys2Proof.Tests.ended))
    ∧ ((thread3 Sys2Proof.Tests.ended).exited = true)
    ∧ ((thread3 Sys2Proof.Tests.ended).freed = false)
    ∧ ((thread3 Sys2Proof.Tests.ended).unacked = 0) :=
  by and_intros <;> decide +kernel

theorem test_meets_TeamsAndMessages_retire :
    (allEnded.group? (groupOf allEnded).gid = some (groupOf allEnded))
    ∧ ((groupOf allEnded).retired = false)
    ∧ ((groupOf allEnded).threads.all Thread.exited = true)
    ∧ (allEnded.granted (groupOf allEnded) = false) :=
  by and_intros <;> decide +kernel

theorem test_meets_TeamsAndMessages_complete :
    (idleLaunch.launch? (launchOf idleLaunch).lid = some (launchOf idleLaunch))
    ∧ (idleLaunch.launchIdle (launchOf idleLaunch) = true)
    ∧ (∀ h < (launchOf idleLaunch).holes.length, ((launchOf idleLaunch).hole h).items = []) :=
  by and_intros <;> decide +kernel

theorem test_meets_TeamsAndMessages_admit :
    (waiting.launch? (launchOf waiting).lid = some (launchOf waiting))
    ∧ (waiting.admitsNow (launchOf waiting) = true)
    ∧ ((waiting.roomFor (launchOf waiting)).isSome = true)
    ∧ (waiting.carveHoles (launchOf waiting) = some carved) :=
  by and_intros <;> decide +kernel

theorem test_meets_TeamsAndMessages_limit :
    (waiting.launch? (launchOf waiting).lid = some (launchOf waiting))
    ∧ (waiting.mayPlace (launchOf waiting) = true)
    ∧ ((launchOf waiting).pressing = false) :=
  by and_intros <;> decide +kernel

theorem test_meets_TeamsAndMessages_message :
    (List.find? (fun e => e.m == theMsg) (landsNext arriving.boot.position [] arriving.messagesOut) =
      some { module := 0, gid := 1, tid := 3, m := theMsg : Outgoing })
    ∧ ((arriving.die theMsg.die).messages.length < 256)
    ∧ (arriving.messageFault theMsg = none) :=
  by and_intros <;> decide +kernel

theorem test_meets_TeamsAndMessages_handler :
    ((arrived.die 0).messages = [theMsg])
    ∧ (arrived.messageFault theMsg = none)
    ∧ (arrived.launch? theMsg.lid.toNat = some (launchOf arrived))
    ∧ ((launchOf arrived).kernel.handler theMsg.handler = some theHandler)
    ∧ ((arrived.handlerCore (launchOf arrived) 0 ((launchOf arrived).handlerWant theHandler)).isSome = true)
    ∧ ((launchOf arrived).kernel.teams ≤ (launchOf arrived).nextTeam) :=
  by and_intros <;> decide +kernel

theorem test_meets_TeamsAndMessages_start :
    ([(5 : Word), (6 : Word)].length ≤ 32)
    ∧ ((Group.start 1 1 0 0 (0 : Word) 8 32 0 0 0 0 true (8 : Word)
            [(5 : Word), (6 : Word)] (0 : Dword) (0 : Dword) 0 9).threads[3]? =
      some (nth startedGroup.threads 3 deadThread)) :=
  by and_intros <;> decide +kernel

theorem test_meets_PagesAndTables_reserve :
    (0 < space1.asid)
    ∧ (space1.asid < 4096)
    ∧ (mapped.space? space1.asid = some space1) :=
  by and_intros <;> decide +kernel

theorem test_meets_PagesAndTables_token :
    (0 < space1.asid)
    ∧ (space1.asid < 4096)
    ∧ (mapped.space? space1.asid = some space1)
    ∧ (4095 < 4096) :=
  by and_intros <;> decide +kernel

theorem test_meets_PagesAndTables_entry :
    (0 < space1.asid)
    ∧ (space1.asid < 4096)
    ∧ (mapped.space? space1.asid = some space1)
    ∧ (3 ≤ 3)
    ∧ (mapped.usesPage space1.asid 3 (65536 : Dword) = false)
    ∧ (mapped.pinnedIn space1.asid (levelBase 3 (65536 : Dword)) (levelSpan 3) = false)
    ∧ ((mapped.shootdowns.all fun d => !d.meets space1.asid 3 (65536 : Dword)) = true)
    ∧ (BitVec.getLsbD (mapped.entryNow space1 3 (65536 : Dword)) 0 = true → mapped.boundTo space1.asid = [])
    ∧ (mapped.mapAt (BitVec.toNat (65536 : Dword)) (31 : Dword) 3 4 0 space1.root = some entered1) :=
  by and_intros <;> decide +kernel

theorem test_meets_TeamsAndMessages_left :
    (idleHoles.launch? (launchOf idleHoles).lid = some (launchOf idleHoles))
    ∧ (idleHoles.launchIdle (launchOf idleHoles) = true)
    ∧ (List.filter (fun h => !((launchOf idleHoles).hole h).items.isEmpty) (List.range (launchOf idleHoles).holes.length) ≠ []) :=
  by and_intros <;> decide +kernel

theorem test_meets_TeamsAndMessages_fails :
    (going.run? (launchOf going).run = some (going8 [])) :=
  by decide +kernel

theorem test_meets_TeamsAndMessages_node :
    (going.run? (launchOf going).run = some (going8 []))
    ∧ (nodeOf (going.graphOf (going8 [])) (launchOf going).node = some node0) :=
  by and_intros <;> decide +kernel

theorem test_meets_TeamsAndMessages_counter :
    (going.run? (going8 []).inst = some (going8 []))
    ∧ (nodeOf (going.graphOf (going8 [])) 1 = some node1) :=
  by and_intros <;> decide +kernel

theorem test_meets_TeamsAndMessages_launch :
    (going.object? (going8 []).handle = some graphed)
    ∧ (graphed.kernels[node1.kernel]? = some (fetchKernel fetchBase)) :=
  by and_intros <;> decide +kernel

theorem test_meets_TeamsAndMessages_runStays :
    ((alone8 (going8 [])).run? (going8 []).inst = some (going8 []))
    ∧ ((going8 []).begun = true)
    ∧ (((alone8 (going8 [])).launches.all fun l => l.run != (going8 []).inst) = true) :=
  by and_intros <;> decide +kernel

theorem test_meets_TeamsAndMessages_runDone :
    ((alone8 (going8 [0, 1])).run? (going8 [0, 1]).inst = some (going8 [0, 1]))
    ∧ ((going8 [0, 1]).begun = true)
    ∧ (((alone8 (going8 [0, 1])).launches.all fun l => l.run != (going8 [0, 1]).inst) = true) :=
  by and_intros <;> decide +kernel

theorem test_meets_TeamsAndMessages_runFailed :
    ((alone8 failed8).run? failed8.inst = some failed8)
    ∧ (failed8.begun = true)
    ∧ (((alone8 failed8).launches.all fun l => l.run != failed8.inst) = true) :=
  by and_intros <;> decide +kernel

theorem test_meets_TeamsAndMessages_runs :
    (going.run? (going8 []).inst = some (going8 []))
    ∧ (launchOf going ∈ going.launches)
    ∧ ((launchOf going).run = (going8 []).inst) :=
  by and_intros <;> decide +kernel

theorem test_meets_CopySteps_accept :
    ((starting 0).startStore 1 3 0 false =
      some
        (groupOf (starting 0), thread3 (starting 0), startAcc 0, apertureBase + 5 * 4096,
          startBytes 0))
    ∧ ((starting 0).launch? (groupOf (starting 0)).lid = some (launchOf (starting 0)))
    ∧ ((((starting 0).die (apertureChannel (apertureBase + 5 * 4096)).1).channel
            (apertureChannel (apertureBase + 5 * 4096)).2).queue.length <
      16) :=
  by and_intros <;> decide +kernel

theorem test_meets_CopySteps_begin :
    (beginsAt (copying 0 CopyPhase.queued) 0 5 (theCopy 0 CopyPhase.queued) (launchOf templated))
    ∧ (((copying 0 CopyPhase.queued).modCopy 0 5 (theCopy 0 CopyPhase.queued).cid fun x =>
            begun (copying 0 CopyPhase.queued) (theCopy 0 CopyPhase.queued) (launchOf templated)).copyPlan
        (launchOf templated) 0
        (begun (copying 0 CopyPhase.queued) (theCopy 0 CopyPhase.queued) (launchOf templated)) =
      Except.ok
        (okPlan
          ((begunState 0).copyPlan (launchOf templated) 0
            (begun (copying 0 CopyPhase.queued) (theCopy 0 CopyPhase.queued) (launchOf templated)))))
    ∧ (((copying 0 CopyPhase.queued).modCopy 0 5 (theCopy 0 CopyPhase.queued).cid fun x =>
            begun (copying 0 CopyPhase.queued) (theCopy 0 CopyPhase.queued) (launchOf templated)).mustWait
        (launchOf templated) 0 5
        (begun (copying 0 CopyPhase.queued) (theCopy 0 CopyPhase.queued) (launchOf templated)) =
      false) :=
  by and_intros <;> decide +kernel

theorem test_meets_CopySteps_stop :
    (beginsAt (copying 2 CopyPhase.queued) 0 5 (theCopy 2 CopyPhase.queued) (launchOf templated))
    ∧ (((copying 2 CopyPhase.queued).modCopy 0 5 (theCopy 2 CopyPhase.queued).cid fun x =>
            begun (copying 2 CopyPhase.queued) (theCopy 2 CopyPhase.queued) (launchOf templated)).copyPlan
        (launchOf templated) 0
        (begun (copying 2 CopyPhase.queued) (theCopy 2 CopyPhase.queued) (launchOf templated)) =
      Except.error (EngStop.fail 1)) :=
  by and_intros <;> decide +kernel

theorem test_meets_CopySteps_noRecord :
    (copyAt (copying 0 (CopyPhase.payload (0 : BitVec 8))) 0 5
      (theCopy 0 (CopyPhase.payload (0 : BitVec 8))) (CopyPhase.payload (0 : BitVec 8)))
    ∧ ((0 : BitVec 8) ≠ (0 : BitVec 8) ∨
      (theCopy 0 (CopyPhase.payload (0 : BitVec 8))).tmpl.crc = false) :=
  by and_intros <;> decide +kernel

theorem test_meets_CopySteps_record :
    (copyAt (copying 1 (CopyPhase.payload (0 : BitVec 8))) 0 5
      (theCopy 1 (CopyPhase.payload (0 : BitVec 8))) (CopyPhase.payload (0 : BitVec 8)))
    ∧ ((theCopy 1 (CopyPhase.payload (0 : BitVec 8))).tmpl.crc = true)
    ∧ ((copying 1 (CopyPhase.payload (0 : BitVec 8))).markWrite 0 5
        (theCopy 1 (CopyPhase.payload (0 : BitVec 8)))
        (theCopy 1 (CopyPhase.payload (0 : BitVec 8))).tmpl
        ((theCopy 1 (CopyPhase.payload (0 : BitVec 8))).tmpl.mark - 8)
        (leBytes 4 (BitVec.toNat (theCopy 1 (CopyPhase.payload (0 : BitVec 8))).crc) ++
          leBytes 4 ((theCopy 1 (CopyPhase.payload (0 : BitVec 8))).count % 2 ^ 32)) =
      Except.ok
        (marked 1 (CopyPhase.payload (0 : BitVec 8))
          ((theCopy 1 (CopyPhase.payload (0 : BitVec 8))).tmpl.mark - 8)
          (leBytes 4 0 ++ leBytes 4 4))) :=
  by and_intros <;> decide +kernel

theorem test_meets_CopySteps_noMark :
    (copyAt (copying 0 (CopyPhase.record (0 : BitVec 8))) 0 5
      (theCopy 0 (CopyPhase.record (0 : BitVec 8))) (CopyPhase.record (0 : BitVec 8)))
    ∧ ((theCopy 0 (CopyPhase.record (0 : BitVec 8))).tmpl.mark = 0 ∨
      (theCopy 0 (CopyPhase.record (0 : BitVec 8))).flags.getLsbD 0 = true) :=
  by and_intros <;> decide +kernel

theorem test_meets_CopySteps_mark :
    (copyAt (copying 1 (CopyPhase.record (0 : BitVec 8))) 0 5
      (theCopy 1 (CopyPhase.record (0 : BitVec 8))) (CopyPhase.record (0 : BitVec 8)))
    ∧ ((theCopy 1 (CopyPhase.record (0 : BitVec 8))).tmpl.mark ≠ 0)
    ∧ ((theCopy 1 (CopyPhase.record (0 : BitVec 8))).flags.getLsbD 0 = false)
    ∧ ((copying 1 (CopyPhase.record (0 : BitVec 8))).markWaits 0 5
        (theCopy 1 (CopyPhase.record (0 : BitVec 8))) =
      false)
    ∧ ((copying 1 (CopyPhase.record (0 : BitVec 8))).markWrite 0 5
        (theCopy 1 (CopyPhase.record (0 : BitVec 8)))
        (theCopy 1 (CopyPhase.record (0 : BitVec 8))).tmpl
        (theCopy 1 (CopyPhase.record (0 : BitVec 8))).tmpl.mark
        (leBytes 8
          (((theCopy 1 (CopyPhase.record (0 : BitVec 8))).number.getD (0 : BitVec 48)).toNat +
              BitVec.toNat (0 : BitVec 8) * 2 ^ 48 +
            5 * 2 ^ 56)) =
      Except.ok
        (marked 1 (CopyPhase.record (0 : BitVec 8))
          (theCopy 1 (CopyPhase.record (0 : BitVec 8))).tmpl.mark
          (leBytes 8 (1 + 5 * 2 ^ 56)))) :=
  by and_intros <;> decide +kernel

theorem test_meets_CopySteps_increment :
    (copyAt (copying 1 (CopyPhase.mark (0 : BitVec 8))) 0 5
      (theCopy 1 (CopyPhase.mark (0 : BitVec 8))) (CopyPhase.mark (0 : BitVec 8))) :=
  by and_intros <;> decide +kernel

theorem test_meets_CopySteps_limit :
    (draining.team? (team1 draining).tuid = some (team1 draining))
    ∧ ((team1 draining).drainBy = some 20000) :=
  by and_intros <;> decide +kernel

theorem test_meets_CopySteps_markFails :
    (copyAt (copying 3 (CopyPhase.record (0 : BitVec 8))) 0 5
      (theCopy 3 (CopyPhase.record (0 : BitVec 8))) (CopyPhase.record (0 : BitVec 8)))
    ∧ ((theCopy 3 (CopyPhase.record (0 : BitVec 8))).tmpl.mark ≠ 0)
    ∧ ((theCopy 3 (CopyPhase.record (0 : BitVec 8))).flags.getLsbD 0 = false)
    ∧ ((copying 3 (CopyPhase.record (0 : BitVec 8))).markWaits 0 5
        (theCopy 3 (CopyPhase.record (0 : BitVec 8))) =
      false)
    ∧ ((copying 3 (CopyPhase.record (0 : BitVec 8))).markWrite 0 5
        (theCopy 3 (CopyPhase.record (0 : BitVec 8)))
        (theCopy 3 (CopyPhase.record (0 : BitVec 8))).tmpl
        (theCopy 3 (CopyPhase.record (0 : BitVec 8))).tmpl.mark
        (leBytes 8
          (((theCopy 3 (CopyPhase.record (0 : BitVec 8))).number.getD (0 : BitVec 48)).toNat +
              BitVec.toNat (0 : BitVec 8) * 2 ^ 48 +
            5 * 2 ^ 56)) =
      Except.error (EngStop.fail 4)) :=
  by and_intros <;> decide +kernel

theorem test_meets_CopySteps_stopped :
    (copyAt (copying 1 (CopyPhase.mark (7 : BitVec 8))) 0 5
      (theCopy 1 (CopyPhase.mark (7 : BitVec 8))) (CopyPhase.mark (7 : BitVec 8)))
    ∧ ((7 : BitVec 8) ≠ (0 : BitVec 8)) :=
  by and_intros <;> decide +kernel

theorem test_meets_DealerOperations_start :
    ((starting 524288).startStore 1 3 0 true =
      some
        (groupOf (starting 524288), thread3 (starting 524288), startAcc 524288,
          apertureBase + 5 * 4096, startBytes 524288))
    ∧ (((starting 524288).core (groupOf (starting 524288)).coreNo).takes (groupOf (starting 524288)).lid =
      true)
    ∧ ((startAcc 524288).guard = none) :=
  by and_intros <;> decide +kernel

theorem test_meets_DealerOperations_halt :
    (dealerAt (dealing (mopWord 0 0 0 0 0) 0) 0
      (launchOf (dealing (mopWord 0 0 0 0 0) 0))
      (mopOf (mopWord 0 0 0 0 0) 0) 0) :=
  by and_intros <;> decide +kernel

theorem test_meets_DealerOperations_fault :
    ((dealing (mopWord 63 0 0 0 0) 0).launch?
        ((dealing (mopWord 63 0 0 0 0) 0).core 0).dealer.lid =
      some (launchOf (dealing (mopWord 63 0 0 0 0) 0)))
    ∧ (((dealing (mopWord 63 0 0 0 0) 0).core 0).dealer.running = true)
    ∧ ((dealing (mopWord 63 0 0 0 0) 0).microOp
        (launchOf (dealing (mopWord 63 0 0 0 0) 0))
        ((dealing (mopWord 63 0 0 0 0) 0).core 0).dealer =
      Except.error 1) :=
  by and_intros <;> decide +kernel

theorem test_meets_DealerOperations_get :
    (dealerAt (dealing (mopWord 1 1 0 1 0) 0) 0
      (launchOf (dealing (mopWord 1 1 0 1 0) 0))
      (mopOf (mopWord 1 1 0 1 0) 0) 1)
    ∧ ((dealing (mopWord 1 1 0 1 0) 0).dealerRead
        (launchOf (dealing (mopWord 1 1 0 1 0) 0)).asid (0 / 64 : ℕ)
        ((dealing (mopWord 1 1 0 1 0) 0).core 0).dealer
        (mopOf (mopWord 1 1 0 1 0) 0).f
        (((dealing (mopWord 1 1 0 1 0) 0).core 0).dealer.addr
          (mopOf (mopWord 1 1 0 1 0) 0))
        256 =
      Except.ok (readOf (mopWord 1 1 0 1 0) 0)) :=
  by and_intros <;> decide +kernel

theorem test_meets_DealerOperations_gets :
    (dealerAt (dealing (mopWord 2 1 0 1 0) 8) 0
      (launchOf (dealing (mopWord 2 1 0 1 0) 8))
      (mopOf (mopWord 2 1 0 1 0) 8) 2)
    ∧ ((dealing (mopWord 2 1 0 1 0) 8).dealerGather
        (launchOf (dealing (mopWord 2 1 0 1 0) 8)).asid (0 / 64 : ℕ)
        ((dealing (mopWord 2 1 0 1 0) 8).core 0).dealer
        (mopOf (mopWord 2 1 0 1 0) 8) =
      Except.ok (gatherOf (mopWord 2 1 0 1 0) 8)) :=
  by and_intros <;> decide +kernel

theorem test_meets_DealerOperations_putm :
    (dealerAt (dealing (mopWord 3 1 0 1 0) 256) 0
      (launchOf (dealing (mopWord 3 1 0 1 0) 256))
      (mopOf (mopWord 3 1 0 1 0) 256) 3)
    ∧ ((dealing (mopWord 3 1 0 1 0) 256).engPlaces
        (launchOf (dealing (mopWord 3 1 0 1 0) 256)).asid (0 / 64 : ℕ) 0
        (((dealing (mopWord 3 1 0 1 0) 256).core 0).dealer.addr
          (mopOf (mopWord 3 1 0 1 0) 256))
        256 3 true =
      Except.ok (placesOf (mopWord 3 1 0 1 0) 256)) :=
  by and_intros <;> decide +kernel

theorem test_meets_DealerOperations_put :
    (dealerAt (dealing (mopWord 4 1 0 0 2) 0) 0
      (launchOf (dealing (mopWord 4 1 0 0 2) 0))
      (mopOf (mopWord 4 1 0 0 2) 0) 4)
    ∧ (List.length
        (((dealing (mopWord 4 1 0 0 2) 0).core 0).chute
          (mopOf (mopWord 4 1 0 0 2) 0).f) <
      64) :=
  by and_intros <;> decide +kernel

theorem test_meets_DealerOperations_expand :
    (dealerAt (dealing (mopWord 5 1 2 2 0) 0) 0
      (launchOf (dealing (mopWord 5 1 2 2 0) 0))
      (mopOf (mopWord 5 1 2 2 0) 0) 5)
    ∧ (expandTwo
        (bytesOfWords
          (((dealing (mopWord 5 1 2 2 0) 0).core 0).dealer.buf
            (mopOf (mopWord 5 1 2 2 0) 0).y)) =
      some
        ((expanded (mopWord 5 1 2 2 0) 0).1,
          (expanded (mopWord 5 1 2 2 0) 0).2)) :=
  by and_intros <;> decide +kernel

theorem test_meets_DealerOperations_cvtn :
    (dealerAt (dealing (mopWord 6 1 2 0 0) 0) 0
      (launchOf (dealing (mopWord 6 1 2 0 0) 0))
      (mopOf (mopWord 6 1 2 0 0) 0) 6)
    ∧ (narrowBuf
        (nth (launchOf (dealing (mopWord 6 1 2 0 0) 0)).kernel.slots
          (mopOf (mopWord 6 1 2 0 0) 0).f (0 : BitVec 128))
        (((dealing (mopWord 6 1 2 0 0) 0).core 0).dealer.buf
          (mopOf (mopWord 6 1 2 0 0) 0).y) =
      some (narrowed (mopWord 6 1 2 0 0) 0)) :=
  by and_intros <;> decide +kernel

theorem test_meets_DealerOperations_cvtw :
    (dealerAt (dealing (mopWord 7 1 2 0 0) 0) 0
      (launchOf (dealing (mopWord 7 1 2 0 0) 0))
      (mopOf (mopWord 7 1 2 0 0) 0) 7)
    ∧ (widenBuf
        (nth (launchOf (dealing (mopWord 7 1 2 0 0) 0)).kernel.slots
          (mopOf (mopWord 7 1 2 0 0) 0).f (0 : BitVec 128))
        (((dealing (mopWord 7 1 2 0 0) 0).core 0).dealer.buf
          (mopOf (mopWord 7 1 2 0 0) 0).y) =
      some (widened (mopWord 7 1 2 0 0) 0)) :=
  by and_intros <;> decide +kernel

theorem test_meets_DealerOperations_tr8 :
    (dealerAt (dealing (mopWord 8 1 2 0 0) 0) 0
      (launchOf (dealing (mopWord 8 1 2 0 0) 0))
      (mopOf (mopWord 8 1 2 0 0) 0) 8) :=
  by and_intros <;> decide +kernel

theorem test_meets_DealerOperations_copy :
    (dealerAt (dealing (mopWord 9 1 2 0 0) 0) 0
      (launchOf (dealing (mopWord 9 1 2 0 0) 0))
      (mopOf (mopWord 9 1 2 0 0) 0) 9) :=
  by and_intros <;> decide +kernel

theorem test_meets_DealerOperations_movi :
    (dealerAt (dealing (mopWord 10 0 0 3 0) 2147483648) 0
      (launchOf (dealing (mopWord 10 0 0 3 0) 2147483648))
      (mopOf (mopWord 10 0 0 3 0) 2147483648) 10) :=
  by and_intros <;> decide +kernel

theorem test_meets_DealerOperations_addi :
    (dealerAt (dealing (mopWord 11 0 0 3 0) 4294967295) 0
      (launchOf (dealing (mopWord 11 0 0 3 0) 4294967295))
      (mopOf (mopWord 11 0 0 3 0) 4294967295) 11) :=
  by and_intros <;> decide +kernel

theorem test_meets_DealerOperations_ldk :
    (dealerAt (dealing (mopWord 12 0 0 3 0) 6) 0
      (launchOf (dealing (mopWord 12 0 0 3 0) 6))
      (mopOf (mopWord 12 0 0 3 0) 6) 12)
    ∧ (BitVec.toNat (mopOf (mopWord 12 0 0 3 0) 6).imm + 1 <
      (launchOf (dealing (mopWord 12 0 0 3 0) 6)).kernel.constCount)
    ∧ ((dealing (mopWord 12 0 0 3 0) 6).constBad
        (launchOf (dealing (mopWord 12 0 0 3 0) 6))
        (BitVec.toNat (mopOf (mopWord 12 0 0 3 0) 6).imm) =
      false)
    ∧ ((dealing (mopWord 12 0 0 3 0) 6).constBad
        (launchOf (dealing (mopWord 12 0 0 3 0) 6))
        (BitVec.toNat (mopOf (mopWord 12 0 0 3 0) 6).imm + 1) =
      false) :=
  by and_intros <;> decide +kernel

theorem test_meets_DealerOperations_loop :
    (dealerAt (dealing (mopWord 13 0 0 2 0) 0) 0
      (launchOf (dealing (mopWord 13 0 0 2 0) 0))
      (mopOf (mopWord 13 0 0 2 0) 0) 13) :=
  by and_intros <;> decide +kernel

theorem test_meets_DealerOperations_jmp :
    (dealerAt (dealing (mopWord 14 0 0 0 0) 0) 0
      (launchOf (dealing (mopWord 14 0 0 0 0) 0))
      (mopOf (mopWord 14 0 0 0 0) 0) 14) :=
  by and_intros <;> decide +kernel

theorem test_meets_DealerOperations_semw :
    (dealerAt (dealing (mopWord 15 0 0 0 0) 4095) 0
      (launchOf (dealing (mopWord 15 0 0 0 0) 4095))
      (mopOf (mopWord 15 0 0 0 0) 4095) 15) :=
  by and_intros <;> decide +kernel

theorem test_meets_DealerOperations_sig :
    (dealerAt (dealing (mopWord 16 0 0 0 0) 4095) 0
      (launchOf (dealing (mopWord 16 0 0 0 0) 4095))
      (mopOf (mopWord 16 0 0 0 0) 4095) 16) :=
  by and_intros <;> decide +kernel

theorem test_meets_DealerOperations_fence :
    (dealerAt (dealing (mopWord 17 0 0 0 0) 0) 0
      (launchOf (dealing (mopWord 17 0 0 0 0) 0))
      (mopOf (mopWord 17 0 0 0 0) 0) 17) :=
  by and_intros <;> decide +kernel

theorem test_meets_CopySteps_waits :
    (copyAt twoCopies 0 5 (theCopy 1 (CopyPhase.record (0 : BitVec 8)))
      (CopyPhase.record (0 : BitVec 8)))
    ∧ ((theCopy 1 (CopyPhase.record (0 : BitVec 8))).tmpl.mark ≠ 0)
    ∧ ((theCopy 1 (CopyPhase.record (0 : BitVec 8))).flags.getLsbD 0 = false)
    ∧ (twoCopies.markWaits 0 5 (theCopy 1 (CopyPhase.record (0 : BitVec 8))) = true) :=
  by and_intros <;> decide +kernel

theorem test_meets_CopySteps_header :
    (blocks.engRead 1 0 0 268435459 1 3 5 [] = Except.ok (header8 268435459)) :=
  by decide +kernel

theorem test_meets_CopySteps_badHeader :
    (blocks.engRead 1 0 0 268435456 1 3 5 [] = Except.ok (header8 268435456)) :=
  by decide +kernel

theorem test_meets_CopySteps_written :
    ((copying 0 CopyPhase.queued).copy? 0 5 (theCopy 0 CopyPhase.queued).cid =
      some (theCopy 0 CopyPhase.queued))
    ∧ (∀ e ∈ plan0c.places, ∃ pa n, e = [(Place.phys pa, n)] ∧ (copying 0 CopyPhase.queued).bridgeAt pa = none) :=
  by
    have h1 :
      ∀ e ∈ plan0c.places, ∃ pa n, e = [(Place.phys pa, n)] ∧ (copying 0 CopyPhase.queued).bridgeAt pa = none := fun e he => by
      have k : (plan0c.places.all fun e => match e with
        | [(.phys pa, _)] => ((copying 0 CopyPhase.queued).bridgeAt pa).isNone
        | _ => false) = true := by decide +kernel
      have := List.all_eq_true.mp k e he
      split at this
      · exact ⟨_, _, rfl, by simpa using this⟩
      · cases this
    and_intros <;> first | exact h1 | decide +kernel

theorem test_meets_FabricLinks_train :
    (base.boot.booted = true)
    ∧ (wired base.boot.n 0 1 0) :=
  by and_intros <;> decide +kernel

theorem test_meets_FabricLinks_miswired :
    (base.boot.booted = true)
    ∧ (wired base.boot.n 0 1 0)
    ∧ (5 ≠ (base.boot.position + 1) % base.boot.n ∨
      0 ≠ 48 / (base.boot.n - 1) * (base.boot.n - 1 - 1) + 0) :=
  by and_intros <;> decide +kernel

theorem test_meets_FabricLinks_spare :
    (base.boot.booted = false ∨ 48 / (base.boot.n - 1) * (base.boot.n - 1) ≤ 48) :=
  by decide +kernel

theorem test_meets_FabricLinks_replay :
    ((acked.port 0).trained = true)
    ∧ ((acked.port 0).replay =
      [] ++ [{ seq := (0 : BitVec 12), body := FlitBody.control, first := 0, dest := 1 : SentFlit }])
    ∧ ({ seq := (0 : BitVec 12), body := FlitBody.control, first := 0, dest := 1 : SentFlit }.seq =
      BitVec.ofNat 12 0)
    ∧ (∀ x ∈ ([] : List SentFlit), x.seq ≠ BitVec.ofNat 12 0)
    ∧ ((acked.port 0).count + (([] : List SentFlit).length + 1) ≤ 2 ^ 64 - 1) :=
  by and_intros <;> decide +kernel

theorem test_meets_FabricLinks_timeout :
    ((acked.port 0).trained = true)
    ∧ ((acked.port 0).replay =
      [{ seq := (0 : BitVec 12), body := FlitBody.control, first := 0, dest := 1 : SentFlit }]) :=
  by and_intros <;> decide +kernel

theorem test_meets_FabricLinks_exhausted :
    ((spent.port 0).trained = true)
    ∧ ((spent.port 0).count = 2 ^ 64 - 1) :=
  by and_intros <;> decide +kernel

theorem test_meets_FabricLinks_switches :
    ((nearSpent.port 0).trained = true)
    ∧ ((nearSpent.port 0).count ≤ 2 ^ 64 - 2)
    ∧ ((nearSpent.port 0).gen ≠ (65535 : BitVec 16)) :=
  by and_intros <;> decide +kernel

theorem test_meets_FabricLinks_detour :
    (2 ≠ (portUp id).boot.position)
    ∧ (2 < (portUp id).boot.n)
    ∧ ((portUp id).portsTo 2 = [])
    ∧ (1 < (portUp id).boot.n)
    ∧ (∀ q ≤ 1,
      q ≠ (portUp id).boot.position ∧
          q ≠ 2 ∧ (portUp id).portsTo q ≠ [] ∧ BitVec.getLsbD (2 : BitVec 16) q = true ↔
        q = 1) :=
  by and_intros <;> decide +kernel

theorem test_meets_FabricRecovery_resend :
    (outstanding (sent 1) 0 1 (outReq 1))
    ∧ ((outReq 1).sends < 8) :=
  by and_intros <;> first | decide +kernel | rfl

theorem test_meets_FabricRecovery_fails :
    (outstanding (sent 8) 0 1 (outReq 8))
    ∧ (8 ≤ (outReq 8).sends) :=
  by and_intros <;> first | decide +kernel | rfl

theorem test_meets_FabricRecovery_response :
    (outstanding (sent 1) 0 1 (outReq 1))
    ∧ (answersRequest PeerResponse.ack)
    ∧ ((sent 1).fitsWaiter (outReq 1).waiter PeerResponse.ack = true) :=
  by and_intros <;> first | decide +kernel | trivial

theorem test_meets_FabricRecovery_stray :
    (answersRequest PeerResponse.ack)
    ∧ (List.find? (fun x => x.seq == (6 : Word)) ((sent 1).pair 0 1).out = none) :=
  by and_intros <;> first | decide +kernel | trivial

theorem test_meets_FabricRecovery_next :
    (fromPeer base (request1 PeerOp.load (0 : Word) (0 : BitVec 64)))
    ∧ ((request1 PeerOp.load (0 : Word) (0 : BitVec 64)).seq =
      (base.target (request1 PeerOp.load (0 : Word) (0 : BitVec 64)).srcModule
            (request1 PeerOp.load (0 : Word) (0 : BitVec 64)).srcDie).done +
        (1 : BitVec 32))
    ∧ ((base.target (request1 PeerOp.load (0 : Word) (0 : BitVec 64)).srcModule
          (request1 PeerOp.load (0 : Word) (0 : BitVec 64)).srcDie).held =
      []) :=
  by and_intros <;> decide +kernel

theorem test_meets_FabricRecovery_again :
    (fromPeer base (request1 PeerOp.load (4294967295 : Word) (0 : BitVec 64)))
    ∧ (((request1 PeerOp.load (4294967295 : Word) (0 : BitVec 64)).seq -
            (base.target (request1 PeerOp.load (4294967295 : Word) (0 : BitVec 64)).srcModule
                (request1 PeerOp.load (4294967295 : Word) (0 : BitVec 64)).srcDie).done).toNat =
        0 ∨
      2 ^ 31 ≤
        ((request1 PeerOp.load (4294967295 : Word) (0 : BitVec 64)).seq -
            (base.target (request1 PeerOp.load (4294967295 : Word) (0 : BitVec 64)).srcModule
                (request1 PeerOp.load (4294967295 : Word) (0 : BitVec 64)).srcDie).done).toNat) :=
  by and_intros <;> decide +kernel

theorem test_meets_FabricRecovery_ahead :
    (fromPeer base (request1 PeerOp.load (2 : Word) (0 : BitVec 64)))
    ∧ (1 <
      ((request1 PeerOp.load (2 : Word) (0 : BitVec 64)).seq -
          (base.target (request1 PeerOp.load (2 : Word) (0 : BitVec 64)).srcModule
              (request1 PeerOp.load (2 : Word) (0 : BitVec 64)).srcDie).done).toNat)
    ∧ (((request1 PeerOp.load (2 : Word) (0 : BitVec 64)).seq -
          (base.target (request1 PeerOp.load (2 : Word) (0 : BitVec 64)).srcModule
              (request1 PeerOp.load (2 : Word) (0 : BitVec 64)).srcDie).done).toNat ≤
      1024)
    ∧ (∀
      h ∈
        (base.target (request1 PeerOp.load (2 : Word) (0 : BitVec 64)).srcModule
            (request1 PeerOp.load (2 : Word) (0 : BitVec 64)).srcDie).held,
      h.seq ≠ (request1 PeerOp.load (2 : Word) (0 : BitVec 64)).seq) :=
  by and_intros <;> decide +kernel

theorem test_meets_FabricRecovery_far :
    (fromPeer base (request1 PeerOp.load (2000 : Word) (0 : BitVec 64)))
    ∧ (1024 <
      ((request1 PeerOp.load (2000 : Word) (0 : BitVec 64)).seq -
          (base.target (request1 PeerOp.load (2000 : Word) (0 : BitVec 64)).srcModule
              (request1 PeerOp.load (2000 : Word) (0 : BitVec 64)).srcDie).done).toNat)
    ∧ (((request1 PeerOp.load (2000 : Word) (0 : BitVec 64)).seq -
          (base.target (request1 PeerOp.load (2000 : Word) (0 : BitVec 64)).srcModule
              (request1 PeerOp.load (2000 : Word) (0 : BitVec 64)).srcDie).done).toNat <
      2 ^ 31) :=
  by and_intros <;> decide +kernel

theorem test_meets_FabricRecovery_message :
    ((request1 (PeerOp.message theMsg) (0 : Word) (0 : BitVec 64)).op = PeerOp.message theMsg) :=
  by decide +kernel

theorem test_meets_FabricRecovery_clear :
    (16383 < 16384)
    ∧ (BitVec.getLsbD (0 : BitVec 128) 127 = false) :=
  by and_intros <;> decide +kernel

theorem test_meets_FabricRecovery_window :
    (16383 < 16384)
    ∧ (window0.getLsbD 127 = true)
    ∧ ({ mem := mapped.mem, sram := mapped.sram, badWords := mapped.badWords, softWords := mapped.softWords,
            teamBad := mapped.teamBad, teamSoft := mapped.teamSoft, groups := mapped.groups, teams := mapped.teams,
            launches := mapped.launches, cores := mapped.cores, quads := mapped.quads, dies := mapped.dies,
            sems := mapped.sems, spaces := mapped.spaces, frames := mapped.frames, pinned := mapped.pinned,
            pins := List.filter (fun p => p.owner != PinOwner.window 16383) mapped.pins,
            shootdowns := mapped.shootdowns, nextTable := mapped.nextTable, windows := mapped.windows,
            tokenClock := mapped.tokenClock, ports := mapped.ports, flitsOut := mapped.flitsOut,
            fabricWait := mapped.fabricWait, relayDrops := mapped.relayDrops, arrived := mapped.arrived,
            answered := mapped.answered, resendAfter := mapped.resendAfter, pairs := mapped.pairs,
            targets := mapped.targets, credits := mapped.credits, detours := mapped.detours, monitors := mapped.monitors,
            messagesOut := mapped.messagesOut, funcs := mapped.funcs, queuePairs := mapped.queuePairs,
            expansion := mapped.expansion, bridges := mapped.bridges, bridgeErrors := mapped.bridgeErrors,
            posted := mapped.posted, answers := mapped.answers, rings := mapped.rings, portDrops := mapped.portDrops,
            pauseFrames := mapped.pauseFrames, filter := mapped.filter, armed := mapped.armed,
            heldFrame := mapped.heldFrame, running := mapped.running, letters := mapped.letters,
            letterSeq := mapped.letterSeq, refused := mapped.refused, irqs := mapped.irqs, queues := mapped.queues,
            slotsOf := mapped.slotsOf, objects := mapped.objects, loads := mapped.loads, runs := mapped.runs,
            collectives := mapped.collectives, completions := mapped.completions, reports := mapped.reports,
            boot := mapped.boot, now := mapped.now, issue := mapped.issue, reps := mapped.reps, inputs := mapped.inputs,
            choices := mapped.choices, frees := mapped.frees, fresh := mapped.fresh : State }.servePages
        (BitVec.extractLsb' 103 12 window0).toNat (BitVec.extractLsb' 0 48 window0).toNat true false
        (BitVec.extractLsb' 48 27 window0).toNat =
      some windowServed) :=
  by and_intros <;> decide +kernel

theorem test_meets_FabricLinks_last :
    ((lastGen.port 0).trained = true)
    ∧ ((lastGen.port 0).count ≤ 2 ^ 64 - 2)
    ∧ ((lastGen.port 0).gen = (65535 : BitVec 16)) :=
  by and_intros <;> decide +kernel

theorem test_meets_FabricRecovery_refused :
    (16383 < 16384)
    ∧ ((window0 + (8192 : BitVec 128)).getLsbD 127 = true)
    ∧ ({ mem := mapped.mem, sram := mapped.sram, badWords := mapped.badWords, softWords := mapped.softWords,
            teamBad := mapped.teamBad, teamSoft := mapped.teamSoft, groups := mapped.groups, teams := mapped.teams,
            launches := mapped.launches, cores := mapped.cores, quads := mapped.quads, dies := mapped.dies,
            sems := mapped.sems, spaces := mapped.spaces, frames := mapped.frames, pinned := mapped.pinned,
            pins := List.filter (fun p => p.owner != PinOwner.window 16383) mapped.pins,
            shootdowns := mapped.shootdowns, nextTable := mapped.nextTable, windows := mapped.windows,
            tokenClock := mapped.tokenClock, ports := mapped.ports, flitsOut := mapped.flitsOut,
            fabricWait := mapped.fabricWait, relayDrops := mapped.relayDrops, arrived := mapped.arrived,
            answered := mapped.answered, resendAfter := mapped.resendAfter, pairs := mapped.pairs,
            targets := mapped.targets, credits := mapped.credits, detours := mapped.detours, monitors := mapped.monitors,
            messagesOut := mapped.messagesOut, funcs := mapped.funcs, queuePairs := mapped.queuePairs,
            expansion := mapped.expansion, bridges := mapped.bridges, bridgeErrors := mapped.bridgeErrors,
            posted := mapped.posted, answers := mapped.answers, rings := mapped.rings, portDrops := mapped.portDrops,
            pauseFrames := mapped.pauseFrames, filter := mapped.filter, armed := mapped.armed,
            heldFrame := mapped.heldFrame, running := mapped.running, letters := mapped.letters,
            letterSeq := mapped.letterSeq, refused := mapped.refused, irqs := mapped.irqs, queues := mapped.queues,
            slotsOf := mapped.slotsOf, objects := mapped.objects, loads := mapped.loads, runs := mapped.runs,
            collectives := mapped.collectives, completions := mapped.completions, reports := mapped.reports,
            boot := mapped.boot, now := mapped.now, issue := mapped.issue, reps := mapped.reps, inputs := mapped.inputs,
            choices := mapped.choices, frees := mapped.frees, fresh := mapped.fresh : State }.servePages
        (BitVec.extractLsb' 103 12 (window0 + (8192 : BitVec 128))).toNat
        (BitVec.extractLsb' 0 48 (window0 + (8192 : BitVec 128))).toNat true false
        (BitVec.extractLsb' 48 27 (window0 + (8192 : BitVec 128))).toNat =
      none) :=
  by and_intros <;> decide +kernel

theorem test_meets_MessagesAndCollectives_waits :
    (List.find? (fun y => y.uid == collBefore.uid) collWaits.collectives = some collBefore)
    ∧ (collWaits.group? collBefore.gid = some (groupOf collWaits))
    ∧ ((groupOf collWaits).threads[3]? = some (thread3 collWaits))
    ∧ (access8 storeOp ∈ (thread3 collWaits).ops)
    ∧ ((access8 storeOp).op.isStore = true)
    ∧ ({ gid := collBefore.gid, tid := 3, seq := (access8 storeOp).seq : AccRef } ∈ collBefore.before) :=
  by and_intros <;> decide +kernel

theorem test_meets_MessagesAndCollectives_differ :
    (collectiveReady reducing coll2 [peer1 3] [])
    ∧ (∃ p ∈ [peer1 3], Coll.of p.header ≠ Coll.of coll2.header) :=
  by and_intros <;> decide +kernel

theorem test_meets_MessagesAndCollectives_sum :
    (collectiveReady reducing coll2 [peer1 2] [])
    ∧ (∀ p ∈ [peer1 2], Coll.of p.header = Coll.of coll2.header)
    ∧ (reducing.namedRead coll2.asid coll2.die (u64 coll2.header 16)
        ((Coll.of coll2.header).count * (Coll.of coll2.header).bytes) =
      Except.ok ownData)
    ∧ (reducing.named coll2.asid coll2.die (u64 coll2.header 24)
        (collectiveOut reducing coll2 ownData.1 [peer1 2]).length true =
      Except.ok (okPlaces (reducing.named 1 0 268435712 8 true))) :=
  by and_intros <;> decide +kernel

theorem test_meets_MessagesAndCollectives_rejected :
    (collectiveReady reducing coll2 [peer1 2] [])
    ∧ (∀ p ∈ [peer1 2], Coll.of p.header = Coll.of coll2.header)
    ∧ (reducing.namedRead coll2.asid coll2.die (u64 coll2.header 16)
        ((Coll.of coll2.header).count * (Coll.of coll2.header).bytes) =
      Except.ok ownData)
    ∧ (reducing.named coll2.asid coll2.die (u64 coll2.header 24)
        (collectiveOut reducing coll2 ownData.1 [peer1 2]).length true =
      Except.ok (okPlaces (reducing.named 1 0 268435712 8 true))) :=
  by and_intros <;> decide +kernel

theorem test_meets_MessagesAndCollectives_add :
    ({ kind := 1, red := 0, ty := 0, root := 0, mask := 3, count := 2 : Coll }.kind =
      1)
    ∧ ({ kind := 1, red := 0, ty := 0, root := 0, mask := 3, count := 2 : Coll }.ty =
      0)
    ∧ ({ kind := 1, red := 0, ty := 0, root := 0, mask := 3, count := 2 : Coll }.red =
      0) :=
  by and_intros <;> decide +kernel

theorem test_meets_MessagesAndCollectives_gather :
    ({ kind := 3, red := 0, ty := 0, root := 0, mask := 3, count := 2 : Coll }.kind =
      3) :=
  by decide +kernel

theorem test_meets_MessagesAndCollectives_broadcast :
    ({ kind := 4, red := 0, ty := 0, root := 1, mask := 3, count := 2 : Coll }.kind =
      4)
    ∧ (∀ e ∈ [(0, ownBytes)],
      e.1 ≠
        { kind := 4, red := 0, ty := 0, root := 1, mask := 3, count := 2 : Coll }.root) :=
  by and_intros <;> decide +kernel

theorem test_meets_MessagesAndCollectives_scatter :
    ({ kind := 2, red := 0, ty := 0, root := 0, mask := 3, count := 2 : Coll }.kind =
      2)
    ∧ (0 <
      { kind := 2, red := 0, ty := 0, root := 0, mask := 3, count := 2 : Coll }.count /
        { kind := 2, red := 0, ty := 0, root := 0, mask := 3, count := 2 :
              Coll }.members.length) :=
  by and_intros <;> decide +kernel

theorem test_meets_FabricRecovery_older :
    (fromPeer base (request1 PeerOp.load (2147483647 : Word) (0 : BitVec 64)))
    ∧ (((request1 PeerOp.load (2147483647 : Word) (0 : BitVec 64)).seq -
            (base.target (request1 PeerOp.load (2147483647 : Word) (0 : BitVec 64)).srcModule
                (request1 PeerOp.load (2147483647 : Word) (0 : BitVec 64)).srcDie).done).toNat =
        0 ∨
      2 ^ 31 ≤
        ((request1 PeerOp.load (2147483647 : Word) (0 : BitVec 64)).seq -
            (base.target (request1 PeerOp.load (2147483647 : Word) (0 : BitVec 64)).srcModule
                (request1 PeerOp.load (2147483647 : Word) (0 : BitVec 64)).srcDie).done).toNat) :=
  by and_intros <;> decide +kernel

theorem test_meets_TreeRequests_msix :
    (11 < 12)
    ∧ (4095 < 4096)
    ∧ (1 ≤ 65535)
    ∧ (65535 < 65536) :=
  by and_intros <;> decide +kernel

theorem test_meets_TreeRequests_badMsix :
    (BitVec.toNat (1094679805952 : Dword) < 1094679789568 ∨
      1094679789568 + 65536 * 12 ≤ BitVec.toNat (1094679805952 : Dword) ∨
        BitVec.toNat (1094679805952 : Dword) % 4 ≠ 0 ∨
          16384 ≤ BitVec.toNat (1094679805952 : Dword) % 65536 ∨
            BitVec.toNat (1 : Word) % 65536 = 0 ∨ 65536 ≤ BitVec.toNat (1 : Word)) :=
  by decide +kernel

theorem test_meets_TreeRequests_translated :
    (device (treed func1) func1)
    ∧ (func1.ats = true)
    ∧ (boundTo func1 none 1)
    ∧ ((treed func1).translate 1 (268435464 : Dword) = Tr.leaf (15 : Dword) 8 65536)
    ∧ ((treed func1).placeOf 1 0 (15 : Dword) 8 = Place.phys (0 + 8))
    ∧ ((treed func1).exists (Place.phys (0 + 8)) = true)
    ∧ (endpointType (15 : Dword))
    ∧ ((if true = true then mayWrite (treed func1) (15 : Dword) else BitVec.getLsbD (15 : Dword) 2) = true) :=
  by and_intros <;> first | exact Or.inl (by decide) | decide +kernel | rfl

theorem test_meets_TreeRequests_untranslated :
    (device (treed func1) func1)
    ∧ (func1.ats = true)
    ∧ (boundTo func1 none 1)
    ∧ (∀ (e : Dword) (off size : ℕ),
      (treed func1).translate 1 (805306376 : Dword) = Tr.leaf e off size →
        (if true = true then mayWrite (treed func1) e else BitVec.getLsbD e 2) = false ∨
          ¬endpointType e ∨
            ∀ (pa : ℕ),
              (treed func1).placeOf 1 0 e off = Place.phys pa → (treed func1).exists (Place.phys pa) = false) :=
  by
    have h3 :
      ∀ (e : Dword) (off size : ℕ),
        (treed func1).translate 1 (805306376 : Dword) = Tr.leaf e off size →
          (if true = true then mayWrite (treed func1) e else BitVec.getLsbD e 2) = false ∨
            ¬endpointType e ∨
              ∀ (pa : ℕ),
                (treed func1).placeOf 1 0 e off = Place.phys pa → (treed func1).exists (Place.phys pa) = false := fun e off size h => by
      rw [show (treed func1).translate 1 0x30000008 = Tr.notPresent from by decide +kernel] at h
      cases h
    and_intros <;> first | exact h3 | decide +kernel | rfl

theorem test_meets_TreeRequests_unbound :
    ((treed func1).func? func1.rid = some func1)
    ∧ (unbound func1 (some 9)) :=
  by and_intros <;> first | exact (by unfold unbound; decide +kernel) | decide +kernel

theorem test_meets_TreeRequests_full :
    ((treed full1).func? full1.rid = some full1)
    ∧ (boundTo full1 none 1)
    ∧ (512 ≤ full1.groups.length) :=
  by and_intros <;> first | decide +kernel | rfl

theorem test_meets_TreeRequests_page :
    ((treed func1).func? func1.rid = some func1)
    ∧ (func1.failed = false)
    ∧ (boundTo func1 none 1)
    ∧ (func1.groups.length < 512) :=
  by and_intros <;> first | decide +kernel | rfl

theorem test_meets_TreeRequests_mapped :
    (takes (letterIn 35 33 1) (letterOut 35 33 1) 4 3 33
      (theLetter 33 1))
    ∧ ((letterIn 35 33 1).servePage (le (theLetter 33 1).body 8 2)
        (le (theLetter 33 1).body 0 8 / 65536)
        (decide (le (theLetter 33 1).body 10 1 % 2 = 1))
        (decide (le (theLetter 33 1).body 10 1 / 2 % 2 = 1)) none
        ((letterIn 35 33 1).spaceDies (le (theLetter 33 1).body 8 2)) =
      Served.mapped (letterIn 35 33 1) (15 : Dword))
    ∧ ((letterIn 35 33 1).endpointLeaf (15 : Dword)
        (decide (le (theLetter 33 1).body 10 1 / 2 % 2 = 1)) =
      true)
    ∧ ((letterIn 35 33 1).letters = (letterIn 35 33 1).letters) :=
  by and_intros <;> first | exact ⟨[], [], by decide +kernel, by simp, by decide +kernel, by decide +kernel⟩ | decide +kernel

theorem test_meets_TreeRequests_answer :
    (takes (letterIn 28 34 1) (letterOut 28 34 1) 3 4 34
      (theLetter 34 1)) :=
  by and_intros <;> first | exact ⟨[], [], by decide +kernel, by simp, by decide +kernel, by decide +kernel⟩ | decide +kernel

theorem test_meets_TreeDevices_write :
    (fromDevice (treed func1) (endReq (some [(1 : Byte), (2 : Byte), (3 : Byte), (4 : Byte)]) false false) func1)
    ∧ ((endReq (some [(1 : Byte), (2 : Byte), (3 : Byte), (4 : Byte)]) false false).privExec = false)
    ∧ ((endReq (some [(1 : Byte), (2 : Byte), (3 : Byte), (4 : Byte)]) false false).data =
      some [(1 : BitVec 8), (2 : BitVec 8), (3 : BitVec 8), (4 : BitVec 8)])
    ∧ ((treed func1).endpointPlaces func1 (endReq (some [(1 : Byte), (2 : Byte), (3 : Byte), (4 : Byte)]) false false) =
      some
        (((treed func1).endpointPlaces func1
              (endReq (some [(1 : Byte), (2 : Byte), (3 : Byte), (4 : Byte)]) false false)).getD
          [])) :=
  by and_intros <;> decide +kernel

theorem test_meets_TreeDevices_read :
    (fromDevice (treed func1) (endReq none false false) func1)
    ∧ ((endReq none false false).privExec = false)
    ∧ ((endReq none false false).data = none)
    ∧ ((treed func1).endpointPlaces func1 (endReq none false false) =
      some (((treed func1).endpointPlaces func1 (endReq none false false)).getD []))
    ∧ (((treed func1).deviceRead (((treed func1).endpointPlaces func1 (endReq none false false)).getD [])).2 = false) :=
  by and_intros <;> decide +kernel

theorem test_meets_TreeDevices_translated :
    (fromDevice (treed noAts) (endReq none true false) noAts)
    ∧ ((endReq none true false).privExec = false)
    ∧ ((endReq none true false).translated = true)
    ∧ (noAts.ats = false) :=
  by and_intros <;> decide +kernel

theorem test_meets_TreeDevices_unbound :
    (fromDevice (treed noDefault) (endReq none false false) noDefault)
    ∧ ((endReq none false false).privExec = false)
    ∧ ((endReq none false false).translated = false)
    ∧ (unbound noDefault (endReq none false false).pasid) :=
  by and_intros <;> first | decide +kernel | rfl

theorem test_meets_TreeDevices_privileged :
    (fromDevice (treed func1) (endReq none false true) func1)
    ∧ ((endReq none false true).privExec = true) :=
  by and_intros <;> decide +kernel

theorem test_meets_TreeDevices_wrongPort :
    (wrongPort.rid / 256 / 32 ≠ wrongPort.port) :=
  by decide +kernel

theorem test_meets_TreeDevices_noWindow :
    (∀ w ∈ tget (bridged true).bridges 0 [],
      BitVec.toNat (8191 : Dword) < w.lo ∨
        w.lo + w.size <
          BitVec.toNat (8191 : Dword) + if true = true then [(1 : BitVec 8), (2 : BitVec 8)].length else 2) :=
  by decide +kernel

theorem test_meets_TreeDevices_noRight :
    (windowOf (bridged false) 0 (BitVec.toNat (8190 : Dword))
      (if true = true then [(1 : BitVec 8), (2 : BitVec 8)].length else 2) (window1 false))
    ∧ ((if true = true then (window1 false).w else (window1 false).r) = false) :=
  by and_intros <;> first | exact ⟨[], [], by decide +kernel, by decide +kernel, by decide +kernel, by simp⟩ | decide +kernel

theorem test_meets_TreeDevices_bridged :
    (windowOf (bridged true) 0 (BitVec.toNat (8190 : Dword)) [(1 : BitVec 8), (2 : BitVec 8)].length
      (window1 true))
    ∧ ((window1 true).w = true)
    ∧ ((window1 true).msix = false)
    ∧ (1 ≤ [(1 : BitVec 8), (2 : BitVec 8)].length)
    ∧ (((window1 true).base + (BitVec.toNat (8190 : Dword) - (window1 true).lo)) % 65536 +
        [(1 : BitVec 8), (2 : BitVec 8)].length ≤
      65536)
    ∧ ((window1 true).base + (BitVec.toNat (8190 : Dword) - (window1 true).lo) < 2 ^ 64)
    ∧ ((bridged true).access (window1 true).asid 0
        (BitVec.ofNat 64 ((window1 true).base + (BitVec.toNat (8190 : Dword) - (window1 true).lo))) [0, 4]
        false true =
      Access1.ok (Place.phys 4094)) :=
  by and_intros <;> first | exact ⟨[], [], by decide +kernel, by decide +kernel, by decide +kernel, by simp⟩ | decide +kernel

theorem test_meets_TreeDevices_failure :
    ((treed func1).func? func1.rid = some func1)
    ∧ (func1.failed = false)
    ∧ (3 = 1 ∨ 3 = 2 ∨ 3 = 3) :=
  by and_intros <;> decide +kernel

theorem test_meets_TreeDevices_timeout :
    (List.find? (fun k => k.awaiting.contains 261) shot.shootdowns = some shot1) :=
  by decide +kernel

theorem test_meets_TreeDevices_quiet :
    (∀ d ∈ (treed func1).shootdowns, 261 ∉ d.awaiting) :=
  by decide +kernel

theorem test_meets_TreeDevices_queue :
    (mapped.engPlaces queue1.asid queue1.die 0 (BitVec.toNat queue1.qrecord + 44) 4 3 false =
      Except.ok (okPlaces (mapped.engPlaces 1 0 0 (268435456 + 44) 4 3 false))) :=
  by decide +kernel

theorem test_meets_TreeDevices_added :
    (driven.boot.booted = true)
    ∧ (7 < 8)
    ∧ (nth driven.boot.rootPorts 7 (0 : Byte) ≠ (3 : Byte))
    ∧ (32 * 7 ≤
      { rid := 65285, cls := 2, msix := true, ats := true, units := 0, dflt := some 1, pf := none :
            Device }.rid /
        256)
    ∧ ({ rid := 65285, cls := 2, msix := true, ats := true, units := 0, dflt := some 1, pf := none :
            Device }.rid /
        256 <
      32 * 7 + 32) :=
  by and_intros <;> decide +kernel

theorem test_meets_TreeDevices_expansion :
    (driven.boot.booted = true)
    ∧ (7 < 8)
    ∧ (nth driven.boot.rootPorts 7 (0 : Byte) ≠ (3 : Byte))
    ∧ (32 * 7 ≤
      { rid := 65285, cls := 3, msix := true, ats := true, units := 2, dflt := some 1, pf := none :
            Device }.rid /
        256)
    ∧ ({ rid := 65285, cls := 3, msix := true, ats := true, units := 2, dflt := some 1, pf := none :
            Device }.rid /
        256 <
      32 * 7 + 32) :=
  by and_intros <;> decide +kernel

theorem test_meets_TreeDevices_notAdded :
    (mapped.boot.booted = false ∨
      8 ≤ 8 ∨
        { rid := 65285, cls := 1, msix := true, ats := true, units := 0, dflt := none, pf := none :
                  Device }.rid /
              256 <
            32 * 8 ∨
          32 * 8 + 32 ≤
            { rid := 65285, cls := 1, msix := true, ats := true, units := 0, dflt := none, pf := none :
                  Device }.rid /
              256) :=
  by decide +kernel

theorem test_meets_TreeDevices_bridgeRead :
    (windowOf (bridged true) 0 (BitVec.toNat (8190 : Dword)) 2 (window1 true))
    ∧ ((window1 true).r = true)
    ∧ ((window1 true).msix = false)
    ∧ (1 ≤ 2)
    ∧ (((window1 true).base + (BitVec.toNat (8190 : Dword) - (window1 true).lo)) % 65536 + 2 ≤ 65536)
    ∧ ((window1 true).base + (BitVec.toNat (8190 : Dword) - (window1 true).lo) < 2 ^ 64)
    ∧ ((bridged true).access (window1 true).asid 0
        (BitVec.ofNat 64 ((window1 true).base + (BitVec.toNat (8190 : Dword) - (window1 true).lo))) [0, 4]
        true false =
      Access1.ok (Place.phys 4094))
    ∧ (((bridged true).deviceRead [(Place.phys 4094, 2)]).2 = false) :=
  by and_intros <;> first | exact ⟨[], [], by decide +kernel, by decide +kernel, by decide +kernel, by simp⟩ | decide +kernel

theorem test_meets_PagesAndTables_invalidates :
    (0 < space1.asid)
    ∧ (space1.asid < 4096)
    ∧ ((treed func1).space? space1.asid = some space1)
    ∧ (3 ≤ 3)
    ∧ ((treed func1).pinnedIn space1.asid (levelBase 3 (268435456 : Dword)) (levelSpan 3) = false)
    ∧ (((treed func1).shootdowns.all fun d => !d.meets space1.asid 3 (268435456 : Dword)) = true)
    ∧ (BitVec.getLsbD ((treed func1).entryNow space1 3 (268435456 : Dword)) 0 = true)
    ∧ ((treed func1).boundTo space1.asid ≠ []) :=
  by and_intros <;> decide +kernel

theorem test_meets_PagesAndTables_answered :
    (0 < 1)
    ∧ (1 < 4096) :=
  by and_intros <;> decide +kernel

theorem test_meets_PagesAndTables_waits :
    (0 < space1.asid)
    ∧ (space1.asid < 4096)
    ∧ (shot.space? space1.asid = some space1)
    ∧ (List.find? (fun k => k.isOf space1.asid shot1.level shot1.va shot1.e) shot.shootdowns = some shot1) :=
  by and_intros <;> decide +kernel

theorem test_meets_PagesAndTables_changes :
    (0 < space1.asid)
    ∧ (space1.asid < 4096)
    ∧ (shotOver.space? space1.asid = some space1)
    ∧ (List.find? (fun k => k.isOf space1.asid shot2.level shot2.va shot2.e) shotOver.shootdowns = some shot2) :=
  by and_intros <;> decide +kernel

theorem test_meets_IngestRings_badFcs :
    (7 < 8) :=
  by decide +kernel

theorem test_meets_IngestRings_noRing :
    (goodFrame base 7 frame60)
    ∧ ((ringOf base 7 (frameClass frame60)).image.getLsbD 0 = false) :=
  by and_intros <;> decide +kernel

theorem test_meets_IngestRings_ahead :
    (goodFrame (ringed id 10 268435456 5) 7 frame60)
    ∧ ((ringOf (ringed id 10 268435456 5) 7 (frameClass frame60)).image.getLsbD 0 = true)
    ∧ ((ringOf (ringed id 10 268435456 5) 7 (frameClass frame60)).stage = 0)
    ∧ ((ringed id 10 268435456 5).readCons
          (ringOf (ringed id 10 268435456 5) 7 (frameClass frame60)) =
        none ∨
      ∃ c,
        (ringed id 10 268435456 5).readCons
              (ringOf (ringed id 10 268435456 5) 7 (frameClass frame60)) =
            some c ∧
          (ringOf (ringed id 10 268435456 5) 7 (frameClass frame60)).p < c) :=
  by and_intros <;> decide +kernel

theorem test_meets_IngestRings_full :
    (goodFrame (plain 4) 7 frame60)
    ∧ (ringReady (plain 4) 7 (frameClass frame60) 0)
    ∧ (0 ≤ (ringOf (plain 4) 7 (frameClass frame60)).p)
    ∧ (2 ^ (BitVec.extractLsb' 17 5 (ringOf (plain 4) 7 (frameClass frame60)).image).toNat ≤
        (ringOf (plain 4) 7 (frameClass frame60)).p - 0 ∨
      2 ^ (BitVec.extractLsb' 22 4 (ringOf (plain 4) 7 (frameClass frame60)).image).toNat <
        frame60.length + 16) :=
  by and_intros <;> decide +kernel

theorem test_meets_IngestRings_long :
    (goodFrame (ringed id 6 268435456 0) 7 frame60)
    ∧ (ringReady (ringed id 6 268435456 0) 7 (frameClass frame60) 0)
    ∧ (0 ≤ (ringOf (ringed id 6 268435456 0) 7 (frameClass frame60)).p)
    ∧ (2 ^
          (BitVec.extractLsb' 17 5
              (ringOf (ringed id 6 268435456 0) 7 (frameClass frame60)).image).toNat ≤
        (ringOf (ringed id 6 268435456 0) 7 (frameClass frame60)).p - 0 ∨
      2 ^
          (BitVec.extractLsb' 22 4
              (ringOf (ringed id 6 268435456 0) 7 (frameClass frame60)).image).toNat <
        frame60.length + 16) :=
  by and_intros <;> decide +kernel

theorem test_meets_IngestRings_written :
    (goodFrame (plain 3) 7 frame60)
    ∧ (ringReady (plain 3) 7 (frameClass frame60) 0)
    ∧ (0 ≤ (ringOf (plain 3) 7 (frameClass frame60)).p)
    ∧ ((ringOf (plain 3) 7 (frameClass frame60)).p - 0 <
      2 ^ (BitVec.extractLsb' 17 5 (ringOf (plain 3) 7 (frameClass frame60)).image).toNat)
    ∧ (frame60.length + 16 ≤
      2 ^ (BitVec.extractLsb' 22 4 (ringOf (plain 3) 7 (frameClass frame60)).image).toNat)
    ∧ ((BitVec.extractLsb' 192 64 (ringOf (plain 3) 7 (frameClass frame60)).image).toNat +
        2 ^ (BitVec.extractLsb' 22 4 (ringOf (plain 3) 7 (frameClass frame60)).image).toNat *
          ((ringOf (plain 3) 7 (frameClass frame60)).p %
            2 ^
              (BitVec.extractLsb' 17 5 (ringOf (plain 3) 7 (frameClass frame60)).image).toNat) <
      2 ^ 64)
    ∧ ((ringEased (plain 3) 7 (frameClass frame60) 0).ringWrite
        (BitVec.extractLsb' 58 12 (ringOf (plain 3) 7 (frameClass frame60)).image).toNat
        ((BitVec.extractLsb' 192 64 (ringOf (plain 3) 7 (frameClass frame60)).image).toNat +
          2 ^
              (BitVec.extractLsb' 22 4 (ringOf (plain 3) 7 (frameClass frame60)).image).toNat *
            ((ringOf (plain 3) 7 (frameClass frame60)).p %
              2 ^
                (BitVec.extractLsb' 17 5 (ringOf (plain 3) 7 (frameClass frame60)).image).toNat))
        (if (ringOf (plain 3) 7 (frameClass frame60)).image.getLsbD 12 = true then 4 else 0)
        (leBytes 2 frame60.length ++
              [BitVec.ofNat 8 (frameClass frame60), BitVec.ofNat 8 7, (1 : BitVec 8),
                (0 : BitVec 8), (0 : BitVec 8), (0 : BitVec 8)] ++
            leBytes 8 (ringOf (plain 3) 7 (frameClass frame60)).p ++
          frame60) =
      some (written (plain 3))) :=
  by and_intros <;> decide +kernel

theorem test_meets_IngestRings_eased :
    (goodFrame easing 7 frame60)
    ∧ (ringReady easing 7 (frameClass frame60) 2)
    ∧ (2 ≤ (ringOf easing 7 (frameClass frame60)).p)
    ∧ ((ringOf easing 7 (frameClass frame60)).p - 2 <
      2 ^ (BitVec.extractLsb' 17 5 (ringOf easing 7 (frameClass frame60)).image).toNat)
    ∧ (frame60.length + 16 ≤
      2 ^ (BitVec.extractLsb' 22 4 (ringOf easing 7 (frameClass frame60)).image).toNat)
    ∧ ((BitVec.extractLsb' 192 64 (ringOf easing 7 (frameClass frame60)).image).toNat +
        2 ^ (BitVec.extractLsb' 22 4 (ringOf easing 7 (frameClass frame60)).image).toNat *
          ((ringOf easing 7 (frameClass frame60)).p %
            2 ^ (BitVec.extractLsb' 17 5 (ringOf easing 7 (frameClass frame60)).image).toNat) <
      2 ^ 64)
    ∧ ((ringEased easing 7 (frameClass frame60) 2).ringWrite
        (BitVec.extractLsb' 58 12 (ringOf easing 7 (frameClass frame60)).image).toNat
        ((BitVec.extractLsb' 192 64 (ringOf easing 7 (frameClass frame60)).image).toNat +
          2 ^ (BitVec.extractLsb' 22 4 (ringOf easing 7 (frameClass frame60)).image).toNat *
            ((ringOf easing 7 (frameClass frame60)).p %
              2 ^ (BitVec.extractLsb' 17 5 (ringOf easing 7 (frameClass frame60)).image).toNat))
        (if (ringOf easing 7 (frameClass frame60)).image.getLsbD 12 = true then 4 else 0)
        (leBytes 2 frame60.length ++
              [BitVec.ofNat 8 (frameClass frame60), BitVec.ofNat 8 7, (1 : BitVec 8),
                (0 : BitVec 8), (0 : BitVec 8), (0 : BitVec 8)] ++
            leBytes 8 (ringOf easing 7 (frameClass frame60)).p ++
          frame60) =
      some (written (ringEased easing 7 0 2))) :=
  by and_intros <;> decide +kernel

theorem test_meets_IngestRings_producer :
    ((ringOf slotWritten 7 0).stage = 1)
    ∧ (slotWritten.ringWrite (BitVec.extractLsb' 58 12 (ringOf slotWritten 7 0).image).toNat
        ((BitVec.extractLsb' 147 45 (ringOf slotWritten 7 0).image).toNat * 8) 0
        (leBytes 8 ((ringOf slotWritten 7 0).p + 1)) =
      some (producer slotWritten)) :=
  by and_intros <;> decide +kernel

theorem test_meets_IngestRings_fault :
    ((ringOf unmappedWord 7 0).stage = 1)
    ∧ (unmappedWord.ringWrite (BitVec.extractLsb' 58 12 (ringOf unmappedWord 7 0).image).toNat
        ((BitVec.extractLsb' 147 45 (ringOf unmappedWord 7 0).image).toNat * 8) 0
        (leBytes 8 ((ringOf unmappedWord 7 0).p + 1)) =
      none) :=
  by and_intros <;> decide +kernel

theorem test_meets_IngestRings_increment :
    ((ringOf Sys2Proof.Tests.counted 7 0).stage = 2) :=
  by decide +kernel

theorem test_meets_IngestRings_unpause :
    ((ringOf (paused 1) 7 0).image.getLsbD 0 = true)
    ∧ ((ringOf (paused 1) 7 0).paused = true)
    ∧ ((paused 1).readCons (ringOf (paused 1) 7 0) = some 0)
    ∧ (0 ≤ (ringOf (paused 1) 7 0).p)
    ∧ ((ringOf (paused 1) 7 0).p - 0 ≤
      (BitVec.extractLsb' 26 16 (ringOf (paused 1) 7 0).image).toNat) :=
  by and_intros <;> decide +kernel

theorem test_meets_IngestRings_still :
    ((ringOf (paused 2) 7 0).image.getLsbD 0 = true)
    ∧ ((ringOf (paused 2) 7 0).paused = true)
    ∧ ((paused 2).readCons (ringOf (paused 2) 7 0) = some 0)
    ∧ (0 ≤ (ringOf (paused 2) 7 0).p)
    ∧ ((BitVec.extractLsb' 26 16 (ringOf (paused 2) 7 0).image).toNat <
      (ringOf (paused 2) 7 0).p - 0) :=
  by and_intros <;> decide +kernel

theorem test_meets_IngestRings_repeat :
    ((ringOf (paused 2) 7 0).paused = true) :=
  by decide +kernel

theorem test_meets_IngestRings_wake :
    (armedState.armed = true)
    ∧ (armedState.heldFrame = none)
    ∧ (wakeEntry ∈ armedState.filter)
    ∧ (wakeEntry.getLsbD 256 = true)
    ∧ (wakeEntry.getLsbD (264 + 7) = true)
    ∧ (∀ k < 128,
      (BitVec.extractLsb' 128 128 wakeEntry).getLsbD k = true →
        (BitVec.extractLsb' 257 7 wakeEntry).toNat + k / 8 < frame60.length ∧
          (nth frame60 ((BitVec.extractLsb' 257 7 wakeEntry).toNat + k / 8) (0 : BitVec 8)).getLsbD
              (k % 8) =
            wakeEntry.getLsbD k) :=
  by and_intros <;> decide +kernel

theorem test_meets_IngestRings_asleep :
    (7 < 8)
    ∧ (60 ≤ frame60.length)
    ∧ (frame60.length ≤ 9212)
    ∧ ((heldState armedState).armed = true)
    ∧ ((heldState armedState).heldFrame ≠ none ∨
      ∀ e ∈ (heldState armedState).filter, e.getLsbD 256 = false ∨ e.getLsbD (264 + 7) = false) :=
  by and_intros <;> decide +kernel

theorem test_meets_IngestRings_replayed :
    ((heldState armedState).heldFrame = some (7, frame60))
    ∧ ((heldState armedState).running.getLsbD 5 = true)
    ∧ ((ringOf (heldState armedState) 7 (frameClass frame60)).image.getLsbD 0 = false) :=
  by and_intros <;> decide +kernel

theorem test_meets_IngestRings_again :
    ((heldState (plain 3)).heldFrame = some (7, frame60))
    ∧ ((heldState (plain 3)).running.getLsbD 5 = true)
    ∧ (goodFrame { heldState (plain 3) with armed := false, heldFrame := none } 7 frame60)
    ∧ ((ringOf (heldState (plain 3)) 7 (frameClass frame60)).image.getLsbD 0 = true) :=
  by and_intros <;> decide +kernel

theorem test_meets_IngestRings_unread :
    (goodFrame noCons 7 frame60)
    ∧ ((ringOf noCons 7 (frameClass frame60)).image.getLsbD 0 = true)
    ∧ ((ringOf noCons 7 (frameClass frame60)).stage = 0)
    ∧ (noCons.readCons (ringOf noCons 7 (frameClass frame60)) = none ∨
      ∃ c,
        noCons.readCons (ringOf noCons 7 (frameClass frame60)) = some c ∧
          (ringOf noCons 7 (frameClass frame60)).p < c) :=
  by and_intros <;> decide +kernel

theorem test_meets_IngestRings_pauses :
    ((ringOf pressing8 7 0).stage = 2) :=
  by decide +kernel

theorem test_meets_CommandsComplete_arrives :
    ((command 1 []).length = 64)
    ∧ (listens mapped) :=
  by and_intros <;> first | exact ⟨by decide +kernel, by decide +kernel⟩ | decide +kernel

theorem test_meets_CommandsComplete_loading :
    (headIs (heading 1 (loadBody 3 0) [(1 : Byte), (2 : Byte), (3 : Byte)] []) 3 1
      { bytes := command 1 (loadBody 3 0), object := [(1 : Byte), (2 : Byte), (3 : Byte)],
        session := 2, failed := none : Command })
    ∧ (∀ l ∈ (heading 1 (loadBody 3 0) [(1 : Byte), (2 : Byte), (3 : Byte)] []).loads, l.queue ≠ 3)
    ∧ (u8
        { bytes := command 1 (loadBody 3 0), object := [(1 : Byte), (2 : Byte), (3 : Byte)],
            session := 2, failed := none : Command }.bytes
        12 <
      12)
    ∧ (u32
        { bytes := command 1 (loadBody 3 0), object := [(1 : Byte), (2 : Byte), (3 : Byte)],
            session := 2, failed := none : Command }.bytes
        8 =
      { bytes := command 1 (loadBody 3 0), object := [(1 : Byte), (2 : Byte), (3 : Byte)],
            session := 2, failed := none : Command }.object.length)
    ∧ ({ bytes := command 1 (loadBody 3 0), object := [(1 : Byte), (2 : Byte), (3 : Byte)],
            session := 2, failed := none : Command }.object.length ≤
      2 ^ 30)
    ∧ (((heading 1 (loadBody 3 0) [(1 : Byte), (2 : Byte), (3 : Byte)] []).swq 3).opened = true) :=
  by and_intros <;> first | exact ⟨[], by and_intros <;> rfl⟩ | decide +kernel

theorem test_meets_CommandsComplete_ends :
    (headIs (loadState [(1 : Byte), (2 : Byte), (3 : Byte)]) 3 1
      { bytes := command 1 (loadBody 3 0), object := [(1 : Byte), (2 : Byte), (3 : Byte)],
        session := 2, failed := none : Command })
    ∧ (loading (loadState [(1 : Byte), (2 : Byte), (3 : Byte)]) 3 9) :=
  by and_intros <;> first | exact ⟨[], by and_intros <;> rfl⟩ | decide +kernel | rfl

theorem test_meets_CommandsComplete_badHome :
    (headIs (heading 1 (loadBody 3 12) [(1 : Byte), (2 : Byte), (3 : Byte)] []) 3 1
      { bytes := command 1 (loadBody 3 12), object := [(1 : Byte), (2 : Byte), (3 : Byte)],
        session := 2, failed := none : Command })
    ∧ (∀ l ∈ (heading 1 (loadBody 3 12) [(1 : Byte), (2 : Byte), (3 : Byte)] []).loads, l.queue ≠ 3)
    ∧ (12 ≤
        u8
          { bytes := command 1 (loadBody 3 12), object := [(1 : Byte), (2 : Byte), (3 : Byte)],
              session := 2, failed := none : Command }.bytes
          12 ∨
      u32
            { bytes := command 1 (loadBody 3 12), object := [(1 : Byte), (2 : Byte), (3 : Byte)],
                session := 2, failed := none : Command }.bytes
            8 ≠
          { bytes := command 1 (loadBody 3 12), object := [(1 : Byte), (2 : Byte), (3 : Byte)],
                session := 2, failed := none : Command }.object.length ∨
        2 ^ 30 <
          { bytes := command 1 (loadBody 3 12), object := [(1 : Byte), (2 : Byte), (3 : Byte)],
                session := 2, failed := none : Command }.object.length) :=
  by and_intros <;> first | exact ⟨[], by and_intros <;> rfl⟩ | decide +kernel

theorem test_meets_CommandsComplete_unload :
    (headIs (heading 2 [(7 : Byte)] [] anObj) 3 2
      { bytes := command 2 [(7 : Byte)], object := [], session := 2, failed := none : Command })
    ∧ ((heading 2 [(7 : Byte)] [] anObj).object?
        (u32 { bytes := command 2 [(7 : Byte)], object := [], session := 2, failed := none : Command }.bytes
          8) =
      some (obj7 false []))
    ∧ (((heading 2 [(7 : Byte)] [] anObj).swq 3).opened = true)
    ∧ ((obj7 false []).unloading = false) :=
  by and_intros <;> first | exact ⟨[], by and_intros <;> rfl⟩ | decide +kernel

theorem test_meets_CommandsComplete_noObject :
    (headIs (heading 2 [(7 : Byte)] [] []) 3 2
      { bytes := command 2 [(7 : Byte)], object := [], session := 2, failed := none : Command })
    ∧ ((heading 2 [(7 : Byte)] [] []).object?
        (u32 { bytes := command 2 [(7 : Byte)], object := [], session := 2, failed := none : Command }.bytes
          8) =
      none) :=
  by and_intros <;> first | exact ⟨[], by and_intros <;> rfl⟩ | decide +kernel

theorem test_meets_CommandsComplete_again :
    (headIs (heading 2 [(7 : Byte)] [] goneObj) 3 2
      { bytes := command 2 [(7 : Byte)], object := [], session := 2, failed := none : Command })
    ∧ ((heading 2 [(7 : Byte)] [] goneObj).object?
        (u32 { bytes := command 2 [(7 : Byte)], object := [], session := 2, failed := none : Command }.bytes
          8) =
      some (obj7 true []))
    ∧ (((heading 2 [(7 : Byte)] [] goneObj).swq 3).opened = true)
    ∧ ((obj7 true []).unloading = true) :=
  by and_intros <;> first | exact ⟨[], by and_intros <;> rfl⟩ | decide +kernel

theorem test_meets_CommandsComplete_effect :
    ((unloadingState []).object? 7 = some (obj7 true []))
    ∧ ((obj7 true []).unloading = true)
    ∧ (∀ l ∈ (unloadingState []).launches, ∀ (r : Run), (unloadingState []).run? l.run = some r → r.handle ≠ 7) :=
  by and_intros <;> decide +kernel

theorem test_meets_CommandsComplete_dropped :
    ((unloadingState []).object? 7 = some (obj7 true [])) :=
  by decide +kernel

theorem test_meets_CommandsComplete_queue :
    (headIs (heading 4 [(7 : Byte)] [] []) 3 4
      { bytes := command 4 [(7 : Byte)], object := [], session := 2, failed := none : Command })
    ∧ (3 < 1024)
    ∧ (u8 { bytes := command 4 [(7 : Byte)], object := [], session := 2, failed := none : Command }.bytes 8 <
      8) :=
  by and_intros <;> first | exact ⟨[], by and_intros <;> rfl⟩ | decide +kernel

theorem test_meets_CommandsComplete_badLevel :
    (headIs (heading 4 [(8 : Byte)] [] []) 3 4
      { bytes := command 4 [(8 : Byte)], object := [], session := 2, failed := none : Command })
    ∧ (1024 ≤ 3 ∨
      8 ≤
        u8 { bytes := command 4 [(8 : Byte)], object := [], session := 2, failed := none : Command }.bytes
          8) :=
  by and_intros <;> first | exact ⟨[], by and_intros <;> rfl⟩ | decide +kernel

theorem test_meets_CommandsComplete_ring :
    (headIs (heading 5 openBody [] []) 3 5
      { bytes := command 5 openBody, object := [], session := 2, failed := none : Command })
    ∧ (u8 { bytes := command 5 openBody, object := [], session := 2, failed := none : Command }.bytes 8 <
      8)
    ∧ (u8 { bytes := command 5 openBody, object := [], session := 2, failed := none : Command }.bytes 9 <
      8) :=
  by and_intros <;> first | exact ⟨[], by and_intros <;> rfl⟩ | decide +kernel

theorem test_meets_CommandsComplete_close :
    (headIs closing 3 6
      { bytes := command 6 [(7 : Byte), (0 : Byte)], object := [], session := 2, failed := none : Command })
    ∧ (u8
        { bytes := command 6 [(7 : Byte), (0 : Byte)], object := [], session := 2, failed := none :
            Command }.bytes
        8 <
      8)
    ∧ (u8
        { bytes := command 6 [(7 : Byte), (0 : Byte)], object := [], session := 2, failed := none :
            Command }.bytes
        9 <
      8)
    ∧ ((closing.swq 3).opened = true) :=
  by and_intros <;> first | exact ⟨[], by and_intros <;> rfl⟩ | decide +kernel

theorem test_meets_RunsAndSlots_fields :
    (headIs (heading 3 [(7 : Byte)] [] []) 3 3
      { bytes := command 3 [(7 : Byte)], object := [], session := 2, failed := none : Command })
    ∧ (runFieldsOk
        { bytes := command 3 [(7 : Byte)], object := [], session := 2, failed := none : Command }.bytes =
      false) :=
  by and_intros <;> first | exact ⟨[], by and_intros <;> rfl⟩ | decide +kernel

theorem test_meets_RunsAndSlots_noObject :
    (headIs (running3 []) 3 3 cmd3)
    ∧ (runFieldsOk cmd3.bytes = true)
    ∧ (∀ l ∈ (running3 []).loads, l.handle ≠ u32 cmd3.bytes 8)
    ∧ (cmd3.failed = none)
    ∧ ((running3 []).object? (u32 cmd3.bytes 8) = none) :=
  by and_intros <;> first | exact ⟨[], by and_intros <;> rfl⟩ | decide +kernel

theorem test_meets_RunsAndSlots_failed :
    (headIs failed3 3 3 cmdFailed)
    ∧ (runFieldsOk cmdFailed.bytes = true)
    ∧ (∀ l ∈ failed3.loads, l.handle ≠ u32 cmdFailed.bytes 8)
    ∧ (cmdFailed.failed = some 4) :=
  by and_intros <;> first | exact ⟨[], by and_intros <;> rfl⟩ | decide +kernel

theorem test_meets_RunsAndSlots_unloading :
    (headIs (running3 goneObj) 3 3 cmd3)
    ∧ (runFieldsOk cmd3.bytes = true)
    ∧ (∀ l ∈ (running3 goneObj).loads, l.handle ≠ u32 cmd3.bytes 8)
    ∧ (cmd3.failed = none)
    ∧ ((running3 goneObj).object? (u32 cmd3.bytes 8) = some (obj7 true []))
    ∧ ((obj7 true []).unloading = true) :=
  by and_intros <;> first | exact ⟨[], by and_intros <;> rfl⟩ | decide +kernel

theorem test_meets_RunsAndSlots_loading :
    (headIs loading3 3 3 cmd3)
    ∧ (runFieldsOk cmd3.bytes = true)
    ∧ (∃ l ∈ loading3.loads, l.handle = u32 cmd3.bytes 8) :=
  by and_intros <;> first | exact ⟨[], by and_intros <;> rfl⟩ | decide +kernel

theorem test_meets_RunsAndSlots_taken :
    (runnable channelTaken 3 cmd3 (obj7 false []))
    ∧ ((awake channelTaken).taken cmd3.bytes = true) :=
  by and_intros <;> first | exact ⟨[], by and_intros <;> rfl⟩ | decide +kernel

theorem test_meets_RunsAndSlots_badPair :
    (runnable (heading 3 pairBody [] anObj) 3
      { bytes := command 3 pairBody, object := [], session := 2, failed := none : Command } (obj7 false []))
    ∧ ((awake (heading 3 pairBody [] anObj)).taken
        { bytes := command 3 pairBody, object := [], session := 2, failed := none : Command }.bytes =
      false)
    ∧ (le { bytes := command 3 pairBody, object := [], session := 2, failed := none : Command }.bytes 32
        8 ≠
      0)
    ∧ (12 ≤
        u8 { bytes := command 3 pairBody, object := [], session := 2, failed := none : Command }.bytes
          44 ∨
      u16 { bytes := command 3 pairBody, object := [], session := 2, failed := none : Command }.bytes 16 /
              2 ^
                u8 { bytes := command 3 pairBody, object := [], session := 2, failed := none : Command }.bytes
                  44 %
            2 =
          0 ∨
        u16 { bytes := command 3 pairBody, object := [], session := 2, failed := none : Command }.bytes
              46 <
            u16 { bytes := command 3 pairBody, object := [], session := 2, failed := none : Command }.bytes
              20 ∨
          u16 { bytes := command 3 pairBody, object := [], session := 2, failed := none : Command }.bytes
                  20 +
                u16 { bytes := command 3 pairBody, object := [], session := 2, failed := none : Command }.bytes
                  22 ≤
              u16 { bytes := command 3 pairBody, object := [], session := 2, failed := none : Command }.bytes
                46 ∨
            u8 { bytes := command 3 pairBody, object := [], session := 2, failed := none : Command }.bytes
                  42 =
                0 ∨
              16 <
                  u8 { bytes := command 3 pairBody, object := [], session := 2, failed := none : Command }.bytes
                    42 ∨
                u16 { bytes := command 3 pairBody, object := [], session := 2, failed := none : Command }.bytes
                      48 ∉
                    [16, 32, 64] ∨
                  u16
                      { bytes := command 3 pairBody, object := [], session := 2, failed := none :
                          Command }.bytes
                      50 ∉
                    [16, 32]) :=
  by and_intros <;> first | exact ⟨[], by and_intros <;> rfl⟩ | decide +kernel

theorem test_meets_RunsAndSlots_begins :
    (runnable (running3 anObj) 3 cmd3 (obj7 false []))
    ∧ ((awake (running3 anObj)).taken cmd3.bytes = false)
    ∧ (0 < 256)
    ∧ ((running3 anObj).run? 0 = none)
    ∧ (∀ j < 0, (running3 anObj).run? j ≠ none)
    ∧ (le cmd3.bytes 32 8 = 0) :=
  by and_intros <;> first | exact ⟨[], by and_intros <;> rfl⟩ | decide +kernel

theorem test_meets_RunsAndSlots_pair :
    (runnable (heading 3 goodPair [] anObj) 3
      { bytes := command 3 goodPair, object := [], session := 2, failed := none : Command } (obj7 false []))
    ∧ ((awake (heading 3 goodPair [] anObj)).taken
        { bytes := command 3 goodPair, object := [], session := 2, failed := none : Command }.bytes =
      false)
    ∧ (0 < 256)
    ∧ ((heading 3 goodPair [] anObj).run? 0 = none)
    ∧ (∀ j < 0, (heading 3 goodPair [] anObj).run? j ≠ none)
    ∧ (le { bytes := command 3 goodPair, object := [], session := 2, failed := none : Command }.bytes 32
        8 ≠
      0)
    ∧ (pairOk { bytes := command 3 goodPair, object := [], session := 2, failed := none : Command }.bytes = true) :=
  by and_intros <;> first | exact ⟨[], by and_intros <;> rfl⟩ | decide +kernel

theorem test_meets_RunsAndSlots_crowded :
    (runnable crowded 3 cmd3 (obj7 false []))
    ∧ ((awake crowded).taken cmd3.bytes = false)
    ∧ (le cmd3.bytes 32 8 = 0 ∨ pairOk cmd3.bytes = true)
    ∧ (∀ i < 256, crowded.run? i ≠ none) :=
  by and_intros <;> first | exact ⟨[], by and_intros <;> rfl⟩ | decide +kernel

theorem test_meets_RunsAndSlots_semaphores :
    (0 < 12)
    ∧ (u16 (command 3 runBody) 16 / 2 ^ 0 % 2 = 1)
    ∧ (u16 (command 3 runBody) 20 ≤ 3)
    ∧ (3 < u16 (command 3 runBody) 20 + u16 (command 3 runBody) 22)
    ∧ (3 < 4096) :=
  by and_intros <;> decide +kernel

theorem test_meets_RunsAndSlots_channels :
    (0 < 12)
    ∧ (u16 (command 3 runBody) 16 / 2 ^ 0 % 2 = 1)
    ∧ (5 < 64)
    ∧ (le (command 3 runBody) 24 8 / 2 ^ 5 % 2 = 1) :=
  by and_intros <;> decide +kernel

theorem test_meets_RunsAndSlots_lowered :
    (767 < 768)
    ∧ ((power true 0).boot.lowPower = true) :=
  by and_intros <;> decide +kernel

theorem test_meets_RunsAndSlots_raised :
    (767 < 768)
    ∧ ((power false 100).boot.lowPower = false)
    ∧ (100 ≤ (power false 100).boot.calmMs) :=
  by and_intros <;> decide +kernel

theorem test_meets_RunsAndSlots_plan :
    (planned.boot.selected = some 0)
    ∧ (planned.boot.plans[0]? = some plan0)
    ∧ (plan0.clocks = some ((plan0.clocks.getD (0, 0)).1, (plan0.clocks.getD (0, 0)).2)) :=
  by and_intros <;> decide +kernel

theorem test_meets_RunsAndSlots_legal :
    (plan0.clocks = some ((plan0.clocks.getD (0, 0)).1, (plan0.clocks.getD (0, 0)).2)) :=
  by decide +kernel

theorem test_meets_RunsAndSlots_rises :
    ((rising.swq 3).running ≠ none)
    ∧ (rising.mapped 3 = false) :=
  by and_intros <;> decide +kernel

theorem test_meets_PreemptAndResume_none :
    (base.team? (team1 base).tuid = some (team1 base))
    ∧ ((team1 base).state ≠ TeamState.stopping ∨ base.teamQuiet (team1 base) = false) :=
  by and_intros <;> decide +kernel

theorem test_meets_PreemptAndResume_drains :
    (draining.team? (team1 draining).tuid = some (team1 draining))
    ∧ ((team1 draining).state = TeamState.stopping)
    ∧ (draining.teamQuiet (team1 draining) = true)
    ∧ ((draining.preemptDrain (team1 draining)).draining (team1 draining).tuid = true ∨
      (draining.preemptDrain (team1 draining)).saveRoom (team1 draining).tuid = false) :=
  by and_intros <;> decide +kernel

theorem test_meets_PreemptAndResume_ends :
    (ending.team? (team1 ending).tuid = some (team1 ending))
    ∧ ((team1 ending).state = TeamState.stopping)
    ∧ (ending.teamQuiet (team1 ending) = true)
    ∧ ((ending.preemptDrain (team1 ending)).draining (team1 ending).tuid = false)
    ∧ ((ending.preemptDrain (team1 ending)).saveRoom (team1 ending).tuid = true) :=
  by and_intros <;> decide +kernel

theorem test_meets_PreemptAndResume_leaves :
    (stopping.team? (team1 stopping).tuid = some (team1 stopping))
    ∧ (stopping.launch? (team1 stopping).lid = some (launchOf stopping)) :=
  by and_intros <;> decide +kernel

theorem test_meets_PreemptAndResume_discard :
    ((thread3 base).exited = false)
    ∧ ((thread3 base).regionNow regional = some ((0 : Word), 0)) :=
  by and_intros <;> decide +kernel

theorem test_meets_PreemptAndResume_valued :
    (((8 : Word), 1, false) ∈ valued3.valued)
    ∧ ((8 : Word) ≠ (16 : Word))
    ∧ (true = true → false = valued3.inHandler) :=
  by and_intros <;> decide +kernel

theorem test_meets_PreemptAndResume_stays :
    (∀ x ∈ valued3.valued, x.2.1 = 1 → x.1 = (8 : Word) ∨ true = true ∧ x.2.2 ≠ valued3.inHandler) :=
  by decide +kernel

theorem test_meets_PreemptAndResume_resident :
    (base.team? (team1 base).tuid = some (team1 base))
    ∧ ((team1 base).state = TeamState.resident)
    ∧ ((team1 base).dealers = []) :=
  by and_intros <;> decide +kernel

theorem test_meets_PreemptAndResume_noSlot :
    ((savedTeam []).team? (team1 (savedTeam [])).tuid = some (team1 (savedTeam [])))
    ∧ ((team1 (savedTeam [])).state ≠ TeamState.resident)
    ∧ ((team1 (savedTeam [])).state ≠ TeamState.stopping)
    ∧ ((savedTeam []).launch? (team1 (savedTeam [])).lid = some (launchOf (savedTeam [])))
    ∧ (∃ q, (savedTeam []).queueOf (launchOf (savedTeam [])) = some q ∧ (savedTeam []).mapped q = false) :=
  by and_intros <;> decide +kernel

theorem test_meets_PreemptAndResume_resumes :
    ((savedTeam [(3, 0, 0)]).team? (team1 (savedTeam [(3, 0, 0)])).tuid =
      some (team1 (savedTeam [(3, 0, 0)])))
    ∧ ((team1 (savedTeam [(3, 0, 0)])).state ≠ TeamState.resident)
    ∧ ((team1 (savedTeam [(3, 0, 0)])).state ≠ TeamState.stopping)
    ∧ ((savedTeam [(3, 0, 0)]).launch? (team1 (savedTeam [(3, 0, 0)])).lid =
      some (launchOf (savedTeam [(3, 0, 0)])))
    ∧ ((savedTeam [(3, 0, 0)]).queueOf (launchOf (savedTeam [(3, 0, 0)])) = some 3)
    ∧ ((savedTeam [(3, 0, 0)]).mapped 3 = true)
    ∧ ((savedTeam [(3, 0, 0)]).resumeCore (team1 (savedTeam [(3, 0, 0)]))
        (launchOf (savedTeam [(3, 0, 0)])) =
      some
        ((((savedTeam [(3, 0, 0)]).resumeCore (team1 (savedTeam [(3, 0, 0)]))
                  (launchOf (savedTeam [(3, 0, 0)]))).getD
              (0, [])).1,
          (((savedTeam [(3, 0, 0)]).resumeCore (team1 (savedTeam [(3, 0, 0)]))
                  (launchOf (savedTeam [(3, 0, 0)]))).getD
              (0, [])).2)) :=
  by and_intros <;> decide +kernel

theorem test_meets_DebuggerSteps_halt :
    (base.group? (groupOf base).gid = some (groupOf base))
    ∧ ((groupOf base).halted = false) :=
  by and_intros <;> decide +kernel

theorem test_meets_DebuggerSteps_haltAgain :
    (haltedGroup (haltedAt base) (groupOf (haltedAt base))) :=
  by and_intros <;> decide +kernel

theorem test_meets_DebuggerSteps_stepAll :
    (haltedGroup (haltedAt base) (groupOf (haltedAt base)))
    ∧ ((groupOf (haltedAt base)).threads.length ≤ 64)
    ∧ ((groupOf (haltedAt base)).stepping = []) :=
  by and_intros <;> decide +kernel

theorem test_meets_DebuggerSteps_noStep :
    (haltedGroup (haltedAt allEnded) (groupOf (haltedAt allEnded)))
    ∧ ((haltedAt allEnded).haltedReady (groupOf (haltedAt allEnded)) = []) :=
  by and_intros <;> decide +kernel

theorem test_meets_DebuggerSteps_stepOne :
    (haltedGroup oneLeft (groupOf oneLeft))
    ∧ ((groupOf oneLeft).stepping = [])
    ∧ (oneLeft.haltedReady (groupOf oneLeft) = [{ g := groupOf oneLeft, tid := 3, th := thread3 oneLeft : Cand }])
    ∧ (∀ t ∈ (groupOf oneLeft).threads,
      t.tag = { g := groupOf oneLeft, tid := 3, th := thread3 oneLeft : Cand }.th.tag →
        t.exited = true ∨ t.lane = { g := groupOf oneLeft, tid := 3, th := thread3 oneLeft : Cand }.th.lane) :=
  by and_intros <;> decide +kernel

theorem test_meets_DebuggerSteps_resume :
    (haltedGroup (haltedAt base) (groupOf (haltedAt base)))
    ∧ ((groupOf (haltedAt base)).heldTraps = []) :=
  by and_intros <;> decide +kernel

theorem test_meets_DebuggerSteps_notHalted :
    (base.group? (groupOf base).gid = some (groupOf base))
    ∧ ((groupOf base).halted = false)
    ∧ ((groupOf base).halting = false) :=
  by and_intros <;> decide +kernel

theorem test_meets_DebuggerSteps_read :
    (haltedGroup (haltedAt base) (groupOf (haltedAt base))) :=
  by and_intros <;> decide +kernel

theorem test_meets_DebuggerSteps_write :
    (haltedGroup (haltedAt base) (groupOf (haltedAt base)))
    ∧ (ofGroup (DebugItem.sreg 63)) :=
  by and_intros <;> first | decide +kernel | trivial

theorem test_meets_DebuggerSteps_cell :
    (haltedGroup (haltedAt quadded) (groupOf (haltedAt quadded))) :=
  by and_intros <;> decide +kernel

theorem test_meets_DebuggerSteps_cellWrite :
    (haltedGroup (haltedAt quadded) (groupOf (haltedAt quadded))) :=
  by and_intros <;> decide +kernel

theorem test_meets_DebuggerSteps_vector :
    ((groupOf base).threads[3]? = some (thread3 base))
    ∧ (127 < (thread3 base).v.length) :=
  by and_intros <;> decide +kernel

theorem test_meets_DebuggerSteps_pc :
    ((groupOf base).threads[3]? = some (thread3 base)) :=
  by decide +kernel

theorem test_meets_DebuggerSteps_scalar :
    (63 < (groupOf base).s.length) :=
  by decide +kernel

theorem test_meets_DebuggerSteps_tag :
    ((groupOf base).threads[3]? = some (thread3 base)) :=
  by decide +kernel

theorem test_meets_DebuggerSteps_store :
    ((groupOf storing).threads[3]? = some (thread3 storing))
    ∧ ((List.filter (fun x => x.op.isStore) (thread3 storing).ops)[0]? = some (access8 store8)) :=
  by and_intros <;> decide +kernel

theorem test_meets_DebuggerSteps_teamMem :
    (haltedGroup (haltedAt base) (groupOf (haltedAt base)))
    ∧ ((haltedAt base).teamPlace (groupOf (haltedAt base)) 8 = some (Place.team 1 0 8)) :=
  by and_intros <;> decide +kernel

theorem test_meets_Letters_full :
    (0 < 8)
    ∧ (7 < 8)
    ∧ (0 ≠ 7)
    ∧ (255 < 256) :=
  by and_intros <;> decide +kernel

theorem test_meets_Letters_first :
    (0 < 8)
    ∧ (7 < 8)
    ∧ (0 ≠ 7)
    ∧ (255 < 256) :=
  by and_intros <;> decide +kernel

theorem test_meets_Letters_self :
    (8 ≤ 7 ∨ 8 ≤ 7 ∨ 7 = 7) :=
  by decide +kernel

theorem test_meets_Letters_arrives :
    (tget (boxed 7 1).letters (8 * 0 + 7) [] = [aLetter])
    ∧ (aLetter.kind ≠ 33)
    ∧ (aLetter.kind ≠ 34) :=
  by and_intros <;> decide +kernel

theorem test_meets_Letters_page :
    (tget paged.letters (8 * 4 + 3) [] =
      [{ kind := 33, seq := (1 : Word), body := List.replicate 56 (0 : Byte) : Letter }])
    ∧ ({ kind := 33, seq := (1 : Word), body := List.replicate 56 (0 : Byte) : Letter }.kind = 33 ∨
      { kind := 33, seq := (1 : Word), body := List.replicate 56 (0 : Byte) : Letter }.kind = 34) :=
  by and_intros <;> decide +kernel

theorem test_meets_Letters_none :
    (tget base.letters (8 * 0 + 7) [] = []) :=
  by decide +kernel

theorem test_meets_SecureBoot_powerOn :
    (State.reset.boot.booted = false)
    ∧ (State.reset.boot.blinking = false) :=
  by and_intros <;> decide +kernel

theorem test_meets_SecureBoot_blinks :
    (blinking.boot.blinking = true) :=
  by decide +kernel

theorem test_meets_SecureBoot_later :
    (base.now ≤ 5) :=
  by decide +kernel

theorem test_meets_SecureBoot_still :
    (base.boot.blinking = false) :=
  by decide +kernel

theorem test_meets_SecureBoot_attests :
    (base.boot.booted = true)
    ∧ ((List.replicate 32 (7 : BitVec 8)).length = 32) :=
  by and_intros <;> decide +kernel

theorem test_meets_SecureBoot_silent :
    (State.reset.boot.booted = false) :=
  by decide +kernel

theorem test_meets_ClocksPowerHealth_plan :
    (plansOnly.boot.booted = true)
    ∧ (plansOnly.boot.plans[0]? = some plan0)
    ∧ (plan0.clocks = some (plan0.clocks.getD (0, 0))) :=
  by and_intros <;> decide +kernel

theorem test_meets_ClocksPowerHealth_unbooted :
    (State.reset.boot.booted = false) :=
  by decide +kernel

theorem test_meets_ClocksPowerHealth_relock :
    ((stoppedDie.die 0).stopped = true)
    ∧ (∀ t ∈ stoppedDie.teams, t.placed = true → t.die ≠ 0) :=
  by and_intros <;> decide +kernel

theorem test_meets_ClocksPowerHealth_busy :
    (∃ t ∈ base.teams, t.placed = true ∧ t.die = 0) :=
  by decide +kernel

theorem test_meets_ClocksPowerHealth_power :
    (9 ≤ watched9.boot.watts.length) :=
  by decide +kernel

theorem test_meets_ClocksPowerHealth_wear :
    (11 < 12)
    ∧ (1000 ≤ 1000) :=
  by and_intros <;> decide +kernel

theorem test_meets_ClocksPowerHealth_health :
    (base.boot.booted = true) :=
  by decide +kernel

theorem test_meets_ClocksPowerHealth_notGated :
    ((unloadingState [run1 0 7]).runs ≠ [] ∨
      ∃ e ∈ (unloadingState [run1 0 7]).rings, e.2.image.getLsbD 0 = true) :=
  by decide +kernel

theorem test_meets_StepRunsUnit_runs :
    (fetched.moves = [Move.issue 0])
    ∧ (fetched.elapse.pick 0 = some (0, (0 : Word), tricks))
    ∧ ((fetched.elapse.begin 0 0 (0 : Word) tricks).1 =
      Except.ok
        (Instr.fmaxF32Short
          { d := (6 : BitVec 7), a := (6 : BitVec 7),
            b := { kind := Kind.vec, n := (6 : BitVec 7) : Opnd } : ShortF })) :=
  by and_intros <;> decide +kernel

theorem test_meets_StepRunsUnit_again :
    (repFetched.moves = [Move.again repIssue])
    ∧ ((repFetched.elapse.again repIssue).1 =
      Except.ok
        (Instr.fmaxF32Short
          { d := (6 : BitVec 7), a := (6 : BitVec 7),
            b := { kind := Kind.vec, n := (6 : BitVec 7) : Opnd } : ShortF })) :=
  by and_intros <;> decide +kernel

theorem test_meets_StepRunsUnit_undecoded :
    (badFetch.moves = [Move.issue 0])
    ∧ (badFetch.elapse.pick 0 = some (0, (0 : Word), tricks))
    ∧ ((badFetch.elapse.begin 0 0 (0 : Word) tricks).1 = Except.error (unitError badFetch)) :=
  by and_intros <;> decide +kernel

theorem test_meets_StepRunsUnit_issue :
    (fetched.launch? 0 = some (launchOf fetched))
    ∧ (BitVec.toNat (0 : BitVec 32) < (launchOf fetched).kernel.textSize)
    ∧ (decodeUnit (fetched.textWord (launchOf fetched)) (launchOf fetched).kernel.textSize (0 : BitVec 32) =
      Except.ok (unit0 fetched (launchOf fetched)))
    ∧ (∀ x ∈ tricks, fetched.restricted (unit0 fetched (launchOf fetched)) x = false)
    ∧ (∀ (p : RepP), (unit0 fetched (launchOf fetched)).pfx.rep = some p → fetched.firstRep tricks ≤ p.cnt.toNat) :=
  by and_intros <;> decide +kernel

theorem test_meets_StepRunsUnit_input :
    (awaiting.moves = [Move.input])
    ∧ (awaiting.inputs = [Instr.quantumBoundary])
    ∧ (Instr.quantumBoundary.core = none) :=
  by and_intros <;> decide +kernel

theorem test_meets_StepRunsUnit_part :
    ((Instr.joinRelease 1 (8 : BitVec 32)).core = none) :=
  by decide +kernel

theorem test_meets_StepRunsUnit_moves :
    (fetched.moves ≠ []) :=
  by decide +kernel

theorem test_meets_StepRunsUnit_stuck :
    (State.reset.moves = []) :=
  by decide +kernel

theorem test_meets_EncodeDecode_short :
    ((Instr.fmaxF32Short
          { d := (6 : BitVec 7), a := (6 : BitVec 7),
            b := { kind := Kind.vec, n := (6 : BitVec 7) : Opnd } : ShortF }).wf =
      true)
    ∧ (encode
        (Instr.fmaxF32Short
          { d := (6 : BitVec 7), a := (6 : BitVec 7),
            b := { kind := Kind.vec, n := (6 : BitVec 7) : Opnd } : ShortF }) =
      some [(201723088 : BitVec 32)]) :=
  by and_intros <;> decide +kernel

theorem test_meets_EncodeDecode_long :
    ((Instr.sadd
          { d := (3 : BitVec 7), kd := DKind.scal, a := { kind := Kind.scal, n := (1 : BitVec 7) : Opnd },
            b := { kind := Kind.lit, n := (40 : BitVec 7) : Opnd },
            c := { kind := Kind.vec, n := (0 : BitVec 7) : Opnd }, pg := (0 : BitVec 3), pn := false,
            v := (0 : BitVec 3), ty := Ty.i64, x := (0 : BitVec 7) : LongF }).wf =
      true)
    ∧ (encode
        (Instr.sadd
          { d := (3 : BitVec 7), kd := DKind.scal, a := { kind := Kind.scal, n := (1 : BitVec 7) : Opnd },
            b := { kind := Kind.lit, n := (40 : BitVec 7) : Opnd },
            c := { kind := Kind.vec, n := (0 : BitVec 7) : Opnd }, pg := (0 : BitVec 3), pn := false,
            v := (0 : BitVec 3), ty := Ty.i64, x := (0 : BitVec 7) : LongF }) =
      some [(1367410305 : BitVec 32), (262149 : BitVec 32)]) :=
  by and_intros <;> decide +kernel

theorem test_meets_EncodeDecode_encodes :
    ((Instr.fmaxF32Short
          { d := (6 : BitVec 7), a := (6 : BitVec 7),
            b := { kind := Kind.vec, n := (6 : BitVec 7) : Opnd } : ShortF }).wf =
      true)
    ∧ ((Instr.fmaxF32Short
          { d := (6 : BitVec 7), a := (6 : BitVec 7),
            b := { kind := Kind.vec, n := (6 : BitVec 7) : Opnd } : ShortF }).core ≠
      none) :=
  by and_intros <;> decide +kernel

theorem test_meets_EncodeDecode_decodes :
    (decodeWords (201723088 : BitVec 32) (0 : BitVec 32) =
      Except.ok
        (Instr.fmaxF32Short
          { d := (6 : BitVec 7), a := (6 : BitVec 7),
            b := { kind := Kind.vec, n := (6 : BitVec 7) : Opnd } : ShortF })) :=
  by decide +kernel

end Sys2Proof.Tests
end

section
/-!
PROOFS. Vector rows of classes 0 and 1: what a row's body reads, and that a row whose body answers `out` in every thread leaves the
state that `vecAfter` names.
-/

namespace Sys2Proof.Proofs

open Sys2Proof Sys2Proof.Machine Sys2Proof.Safety Sys2Proof.Claims

/-- Every constant that the unit names lies in the bank (R53), so that each of its operands reads. -/
structure ConstsOk (c : Ctx) : Prop where
  a : constOk c c.f.a = true
  b : constOk c c.f.b = true
  c : constOk c c.f.c = true

/-- A vector row runs when its body answers in each thread whose operands read. -/
theorem exec_vecRow {i : Instr} {o : Op} {f : Fields} {s : State} (body : Ctx → Nat → Except TrapInfo VecOut) {out : Ctx → Nat → VecOut}
    (hi : IsRow i o f) (ho : opExec o f s = vecUnit o f s body) (hr : unitRuns o f s = true)
    (hb : ∀ c t, ConstsOk c → body c t = .ok (out c t)) : exec i s = .next (vecAfter s f out) := by
  obtain ⟨fm, hcore, hcall⟩ := hi
  rw [exec_core hcore hcall, ho]
  refine vecUnit_next o f s body out hr fun e he c hctx t _ => ?_
  obtain ⟨-, ha, hb', hc⟩ := unitRuns_ctx hr he hctx
  exact hb c t ⟨ha, hb', hc⟩

/-! ### Operands by their names in the statements -/

theorem ok_bind {α β : Type} (x : α) (k : α → Except TrapInfo β) : (Except.ok x >>= k) = k x := rfl

section
variable {c : Ctx} (h : ConstsOk c) (t : Nat)
include h

theorem intA_one : c.intA 1 t = .ok (wordA c t) := intA_got c 1 t h.a
theorem intB_one : c.intB 1 t = .ok (wordB c t) := intB_got c 1 t h.b
theorem intC_one : c.intC 1 t = .ok (wordC c t) := intC_got c 1 t h.c
theorem intA_words : c.intA c.f.ty.words t = .ok (opA c t) := intA_got c _ t h.a
theorem intB_words : c.intB c.f.ty.words t = .ok (opB c t) := intB_got c _ t h.b
theorem bitA_bits (w : Nat) : c.bitA w t = .ok (bitsA c w t) := bitA_got c w t h.a

/-- The exact product of R145. -/
theorem product_ok : c.product t = .ok (product c t) := by
  simp only [Ctx.product, intA_one h, intB_one h, ok_bind]
  rfl

end

/-! ### Results of one word -/

@[simp] theorem ofNat_wrapTo (v : Int) (n : Nat) : BitVec.ofNat n (wrapTo v n) = BitVec.ofInt n v := by
  apply BitVec.eq_of_toNat_eq
  have hlt : v % (2 ^ n : Nat) < (2 ^ n : Nat) := Int.emod_lt_of_pos v (by positivity)
  rw [BitVec.toNat_ofNat, BitVec.toNat_ofInt, wrapTo, Nat.mod_eq_of_lt (by omega)]

@[simp] theorem setWidth_narrow (sat : Bool) (v : Int) (signed : Bool) :
    (narrow sat v 32 signed).setWidth 32 = BitVec.ofInt 32 (if sat then satTo v 32 signed else v) := by
  rw [narrow, BitVec.setWidth_ofNat_of_le (by omega), ofNat_wrapTo]

/-- One word of a narrowed value is that value saturated or wrapped. -/
theorem wide_narrow (c : Ctx) (sat : Bool) (v : Int) (signed : Bool) :
    VecOut.wide c.f.d 1 (narrow sat v 32 signed) = if sat then sat32 c v signed else word32 c v := by
  cases sat <;> simp [VecOut.wide, sat32, word32, VecOut.word]

/-! ### Packed elements -/

@[simp] theorem packedElem_setWidth (x : Dword) (k n : Nat) (signed : Bool) :
    packedElem (x.setWidth 32) k n signed = elem x k n signed := by
  have hx : ((x.setWidth 32 : Word).setWidth 64 : Dword) >>> (k * n) = BitVec.ofNat 64 (x.toNat % 2 ^ 32 / 2 ^ (k * n)) := by
    apply BitVec.eq_of_toNat_eq
    have hlt : x.toNat % 2 ^ 32 < 2 ^ 64 := by omega
    rw [BitVec.toNat_ushiftRight, BitVec.toNat_setWidth, BitVec.toNat_setWidth, BitVec.toNat_ofNat, Nat.shiftRight_eq_div_pow,
      Nat.mod_eq_of_lt hlt, Nat.mod_eq_of_lt (lt_of_le_of_lt (Nat.div_le_self _ _) hlt)]
  rw [packedElem, elem, hx]

theorem foldl_add_eq_sum (g : Nat → Int) (l : List Nat) (z : Int) : l.foldl (fun acc k => acc + g k) z = z + (l.map g).sum := by
  induction l generalizing z with
  | nil => simp
  | cons k l ih => rw [List.foldl_cons, ih, List.map_cons, List.sum_cons, add_assoc]

/-- A sum of four absolute differences (R146), term by term. -/
theorem cast_foldl_natAbs (g : Nat → Int) :
    (((List.range 4).foldl (fun n k => n + (g k).natAbs) 0 : Nat) : Int) = |g 0| + |g 1| + |g 2| + |g 3| := by
  simp [List.range_succ]

/-- Conjugation of an imaginary part (R148), as a sign. -/
theorem conj_elem (b : Bool) (x : Dword) (k n : Nat) (signed : Bool) :
    (if b then -elem x k n signed else elem x k n signed) = (if b then -1 else 1) * elem x k n signed := by
  cases b <;> simp

end Sys2Proof.Proofs
end

section
/-!
PROOFS. `imul`, `imad`, `isad`, `idot`, `icdot` and `iaddr` (R145 to R149): the body of each row answers what the statement names.
-/

namespace Sys2Proof.Proofs

open Sys2Proof Sys2Proof.Machine Sys2Proof.Safety Sys2Proof.Claims

section
variable {c : Ctx} (h : ConstsOk c) (t : Nat)
include h

theorem imul_ok : c.imul t = .ok (imulOut c t) := by
  simp only [Ctx.imul, product_ok h, ok_bind, ofNat_wrapTo, beq_iff_eq]
  rfl

theorem imad_ok : c.imad t = .ok (imadOut c t) := by
  simp only [Ctx.imad, product_ok h, intC_one h, ok_bind, wide_narrow, beq_iff_eq]
  rfl

theorem isad_ok : c.isad t = .ok (isadOut c t) := by
  simp only [Ctx.isad, intA_one h, intB_one h, intC_one h, ok_bind, wide_narrow, packedElem_setWidth, cast_foldl_natAbs]
  rfl

theorem idot_ok : c.idot t = .ok (idotOut c t) := by
  simp only [Ctx.idot, intA_one h, intB_one h, intC_one h, ok_bind, wide_narrow, packedElem_setWidth, foldl_add_eq_sum]
  rfl

theorem icdot_ok : c.icdot t = .ok (icdotOut c t) := by
  rw [Ctx.icdot, intA_one h, intB_one h, intC_got c 2 t h.c]
  simp only [ok_bind, setWidth_narrow, packedElem_setWidth, conj_elem, apply_ite (BitVec.ofInt 32)]
  rfl

theorem iaddr_ok : c.iaddr t = .ok (iaddrOut c t) := by
  simp only [Ctx.iaddr, Ctx.int2, intA_words h, intB_words h, ok_bind, Nat.cast_pow, Nat.cast_ofNat]
  rfl

end

/-- Settles O3: each row's body answers its output, from the exact product, sum or address. -/
theorem integerMultiplyDot : Obligations.IntegerMultiplyDot := by
  unfold Obligations.IntegerMultiplyDot
  intro i o f s out hi ho hout hr
  rcases ho with rfl | rfl | rfl | rfl | rfl | rfl <;> obtain rfl := Option.some.inj hout
  · exact exec_vecRow Ctx.imul hi rfl hr fun _ t h => imul_ok h t
  · exact exec_vecRow Ctx.imad hi rfl hr fun _ t h => imad_ok h t
  · exact exec_vecRow Ctx.isad hi rfl hr fun _ t h => isad_ok h t
  · exact exec_vecRow Ctx.idot hi rfl hr fun _ t h => idot_ok h t
  · exact exec_vecRow Ctx.icdot hi rfl hr fun _ t h => icdot_ok h t
  · exact exec_vecRow Ctx.iaddr hi rfl hr fun _ t h => iaddr_ok h t

end Sys2Proof.Proofs
end

section
/-!
PROOFS. `mov`, `plog` and `pcvt` (R154, R155): the body of each row answers what the statement names.
-/

namespace Sys2Proof.Proofs

open Sys2Proof Sys2Proof.Machine Sys2Proof.Safety Sys2Proof.Claims

/-- `mov.sv` writes one register, every other form as many as its type has. -/
theorem mov_ok {c : Ctx} (h : ConstsOk c) (t : Nat) : c.mov t = .ok (movOut c t) := by
  by_cases hv : c.f.v = 1
  · simp only [Ctx.mov, movOut, hv, bitA_bits h, ok_bind, beq_self_eq_true, if_true]
    rfl
  · simp only [Ctx.mov, movOut, hv, bitA_bits h, ok_bind, beq_iff_eq, if_false]
    rfl

theorem plog_ok (c : Ctx) (t : Nat) : c.plog t = .ok (plogOut c t) := by
  unfold Ctx.plog plogOut
  generalize c.f.v.toNat = code
  match code with
  | 0 | 1 | 2 | 3 | 4 | _ + 5 => rfl

theorem pcvt_ok (c : Ctx) (t : Nat) : c.pcvt t = .ok (pcvtOut c t) := by
  simp only [Ctx.pcvt, pcvtOut, predA, beq_iff_eq]
  rfl

/-- Settles O6: a move reads its one operand, and predicate logic reads none, so that the body of each row answers its output. -/
theorem movesAndPredicates : Obligations.MovesAndPredicates := by
  unfold Obligations.MovesAndPredicates
  intro i o f s out hi ho hout hr
  rcases ho with rfl | rfl | rfl <;> obtain rfl := Option.some.inj hout
  · exact exec_vecRow Ctx.mov hi rfl hr fun _ t h => mov_ok h t
  · exact exec_vecRow Ctx.plog hi rfl hr fun c t _ => plog_ok c t
  · exact exec_vecRow Ctx.pcvt hi rfl hr fun c t _ => pcvt_ok c t

end Sys2Proof.Proofs
end

section
/-!
PROOFS. What a row means, the one group of a trick, and the threads of a group that go on to the next unit: what `oneGroup` says of its
context, and what an advance leaves.
-/

namespace Sys2Proof.Proofs

open Sys2Proof Sys2Proof.Machine Sys2Proof.Safety Sys2Proof.Claims

/-- A row means what its operation means on its fields. -/
theorem exec_row {i : Instr} {o : Op} {f : Fields} (hi : IsRow i o f) (s : State) : exec i s = opExec o f s := by
  obtain ⟨fm, hcore, hcall⟩ := hi
  exact exec_core hcore hcall s

/-- The context of a trick of one group. -/
structure IsTrick (s : State) (f : Fields) (c : Ctx) : Prop where
  trick : s.issue.trick = [(c.g.gid, c.tids)]
  ctx : s.ctx? f c.g.gid c.tids = some c
  state : c.s = s
  group : s.group? c.g.gid = some c.g
  distinct : distinct c.tids = true

theorem isTrick_of_oneGroup {s : State} {f : Fields} {c : Ctx} (h : oneGroup s f = some c) : IsTrick s f c := by
  unfold oneGroup at h
  split at h
  · rename_i e he
    split at h
    · rename_i hok
      obtain ⟨gid, tids⟩ := e
      obtain ⟨_, _, -, -, -, -, hd⟩ := trickOk_ctx hok f (e := (gid, tids)) (by simp [he])
      obtain ⟨hs, rfl, -, rfl, hg, -⟩ := ctx?_some h
      exact ⟨he, h, hs, hg, hd⟩
    · cases h
  · cases h

/-- A unit of one group does what its context says. -/
theorem perGroup_one {s : State} {f : Fields} {c : Ctx} (h : IsTrick s f c) (k : Ctx → State → State) : s.perGroup f k = k c s := by
  simp [State.perGroup, h.trick, h.ctx]

theorem distinct_exec {c : Ctx} (h : distinct c.tids = true) : distinct c.exec = true := distinct_filter _ h

theorem mem_tids_of_exec {c : Ctx} {t : Nat} (h : c.exec.contains t = true) : c.tids.contains t = true :=
  List.contains_iff_mem.2 (List.mem_filter.1 (List.contains_iff_mem.1 h)).1

/-! ### Going on to the next unit -/

/-- The threads of the trick have gone on (R23). -/
def goneOn (s : State) (c : Ctx) (g : Group) : Group :=
  { g with threads := g.threads.mapIdx fun tid t => if c.tids.contains tid then stepOn c (s.core g.coreNo).cycles tid t else t }

/-- The advance of a trick's threads, whatever the groups have become. -/
theorem advance_goneOn {s : State} {c : Ctx} (hs : c.s = s) (hd : distinct c.tids = true) (G : List Group) :
    State.advance { s with groups := G } c.g.gid c.tids = State.modGroup { s with groups := G } c.g.gid (goneOn s c) := by
  rw [advance_eq s G _ _ hd]
  subst hs
  rfl

/-- A unit that changes each group of the trick by its own context alone. -/
theorem perGroup_modGroup {s : State} {f : Fields} (h : trickOk s = true) (k : Ctx → State → State) (x : Ctx → Group → Group)
    (hx : ∀ c g, (x c g).gid = g.gid)
    (hk : ∀ c, c.s = s → distinct c.tids = true → ∀ G, k c { s with groups := G } = State.modGroup { s with groups := G } c.g.gid (x c)) :
    s.perGroup f k = groupsAfter s f x := by
  refine perGroup_groups s f k x (trickOk_distinct h) hx (fun e he => trickOk_some h f he) fun e he c hc G => ?_
  obtain ⟨_, _, -, -, -, -, hd⟩ := trickOk_ctx h f he
  obtain ⟨hs, ht, -, hg, -⟩ := ctx?_some hc
  rw [hk c hs (by rwa [ht]) G, hg]
  rfl

theorem modGroup_modGroup (s : State) (gid : Nat) (x y : Group → Group) (hx : ∀ g, (x g).gid = g.gid) :
    (s.modGroup gid x).modGroup gid y = s.modGroup gid fun g => y (x g) := by
  simp only [State.modGroup, List.map_map]
  congr 1
  apply List.map_congr_left
  intro g _
  by_cases hg : g.gid = gid <;> simp [hg, hx]

end Sys2Proof.Proofs
end

section
/-!
PROOFS. `land`, `nop` and `yield` (R170, R171): the threads of every group of the trick go on, and a `yield` marks its executing ones.
-/

namespace Sys2Proof.Proofs

open Sys2Proof Sys2Proof.Machine Sys2Proof.Safety Sys2Proof.Claims

theorem opNop_next {s : State} (f : Fields) (h : trickOk s = true) : opNop f s = .next (groupAfter s f fun _ g => g) :=
  congrArg _ (perGroup_modGroup h _ (goneOn s) (fun _ _ => rfl) fun _ hs hd G => advance_goneOn hs hd G)

/-- The executing threads of a `yield` keep out of the picks of the next 32 cycles (R171). -/
def yielded (s : State) (c : Ctx) (g : Group) : Group :=
  { g with threads := g.threads.mapIdx fun tid t =>
      if c.exec.contains tid then { t with yieldUntil := some ((s.core c.g.coreNo).cycles + 32) } else t }

theorem stepOn_yieldUntil (c : Ctx) (now tid : Nat) (t : Thread) (y : Option Nat) :
    stepOn c now tid { t with yieldUntil := y } = { stepOn c now tid t with yieldUntil := y } := by
  unfold stepOn
  split <;> rfl

/-- A `yield` may mark its threads before or after they go on. -/
theorem goneOn_yielded (s : State) (c : Ctx) (g : Group) : goneOn s c (yielded s c g) = yielded s c (goneOn s c g) := by
  simp only [goneOn, yielded, List.mapIdx_mapIdx]
  congr 2
  funext tid t
  simp only [Function.comp, Group.coreNo]
  cases c.tids.contains tid
  · rfl
  · cases c.exec.contains tid
    · rfl
    · exact stepOn_yieldUntil c _ tid t _

theorem opYield_next {s : State} (f : Fields) (h : trickOk s = true) : opYield f s = .next (groupAfter s f (yielded s)) := by
  refine congrArg _ (perGroup_modGroup h _ (fun c g => goneOn s c (yielded s c g)) (fun _ _ => rfl) fun c hs hd G => ?_)
  rw [advance_goneOn hs hd, modGroup_modGroup _ _ (goneOn s c) _ fun _ => rfl]
  congr 1
  funext g
  rw [modThreads_eq _ _ _ (distinct_exec hd), goneOn_yielded, Ctx.now, hs]
  rfl

theorem goOn : GoOn := by
  refine ⟨fun i o f s hi ho h => ?_, fun i f s hi h => ?_⟩
  · rw [exec_row hi]
    rcases ho with rfl | rfl <;> exact opNop_next f h
  · rw [exec_row hi]
    exact opYield_next f h

end Sys2Proof.Proofs
end

section
/-!
PROOFS. Transfers of one group (R163 to R169): where every check passes, the executing threads go where they aim, and nothing else changes but fresh
cohesion tags.
-/

namespace Sys2Proof.Proofs

open Sys2Proof Sys2Proof.Machine Sys2Proof.Safety Sys2Proof.Claims

/-- An aim as the model carries it. -/
abbrev jumpOf (a : Aim) : Jump := ⟨a.target, a.taken, a.ret⟩

/-! ### The checks of a transfer -/

/-- A transfer's depth fits the stack, and the page of the entry that it spills or refills is present (R167, R168, R296). -/
def stackFits (c : Ctx) (k : JumpKind) (t : Nat) : Bool :=
  let n := (c.th t).ret.length
  match k with
  | .call => n < 256 && (n < 16 || c.g.stackUp t (4096 + 4 * (n - 16)))
  | .ret => n ≠ 0 && (n ≤ 16 || c.g.stackUp t (4096 + 4 * (n - 17)))
  | .branch => true

section
variable {c : Ctx} {o : Op} {k : JumpKind} {indirect : Bool} {aim : Nat → Aim} (h : aimOk c o k indirect aim = true) {t : Nat} (ht : t ∈ c.exec)
include h ht

/-- What `aimOk` says of one executing thread. -/
theorem aimOk_thread : c.precheck o t = .ok () ∧ constOk c c.f.a = true ∧
    ((aim t).taken = true → (0 ≤ (aim t).target ∧ (aim t).target < 2 ^ 32) ∧ c.s.targetCause c.l (landsAt (aim t)) indirect = none) ∧
    stackFits c k t = true := by
  simp only [aimOk, List.all_eq_true, Bool.and_eq_true] at h
  obtain ⟨⟨⟨hpre, hconst⟩, htarget⟩, hdepth⟩ := h t ht
  exact ⟨isOk_unit hpre, hconst, fun htaken => by simpa [htaken] using htarget, hdepth⟩

/-- The stack is deep enough, and not too deep, and the targets are good (R84 to R86, R168). -/
theorem jumpFault_none : c.jumpFault k indirect (c.th t).ret.length (jumpOf (aim t)) = none := by
  obtain ⟨-, -, htarget, hdepth⟩ := aimOk_thread h ht
  simp only [Ctx.jumpFault, jumpOf]
  by_cases htaken : (aim t).taken = true
  case neg => exact if_pos (by simpa using htaken)
  case pos =>
    obtain ⟨hrange, hcause⟩ := htarget htaken
    have hcall : ¬(k = .call ∧ 256 ≤ (c.th t).ret.length) := by
      rintro ⟨rfl, hn⟩
      simp only [stackFits, Bool.and_eq_true, decide_eq_true_eq] at hdepth
      omega
    have hret : ¬(k = .ret ∧ (c.th t).ret.length = 0) := by
      rintro ⟨rfl, hn⟩
      simp [stackFits, hn] at hdepth
    have hout : ¬((aim t).target < 0 ∨ 2 ^ 32 ≤ (aim t).target) := by omega
    exact (if_neg (by simpa using htaken)).trans <| (if_neg (by simpa using hcall)).trans <| (if_neg (by simpa using hret)).trans <|
      (if_neg (by simpa using hout)).trans (Option.map_eq_none_iff.2 hcause)

/-- The stack page of a spilled or refilled entry is present (R296). -/
theorem spill_present {i : Nat} (hi : (jumpOf (aim t)).spill k (c.th t).ret.length = some i) : c.g.stackUp t (spillOff i) = true := by
  obtain ⟨-, -, -, hdepth⟩ := aimOk_thread h ht
  cases k with
  | branch => simp [Jump.spill] at hi
  | call =>
    simp only [Jump.spill, Bool.and_eq_true, decide_eq_true_eq, Option.ite_none_right_eq_some, Option.some.injEq] at hi
    simp only [stackFits, Bool.and_eq_true, Bool.or_eq_true, decide_eq_true_eq] at hdepth
    obtain ⟨⟨-, hn⟩, rfl⟩ := hi
    exact hdepth.2.resolve_left (by omega)
  | ret =>
    simp only [Jump.spill, Option.ite_none_right_eq_some, Option.some.injEq] at hi
    simp only [stackFits, Bool.and_eq_true, Bool.or_eq_true, decide_eq_true_eq] at hdepth
    obtain ⟨hn, rfl⟩ := hi
    exact hdepth.2.resolve_left (by omega)

end

/-- A group's part of a transfer whose executing threads jump as they aim, none failing. -/
def aimed (c : Ctx) (aim : Nat → Aim) : JumpPart := ⟨c, [], c.exec.map fun t => (t, jumpOf (aim t)), []⟩

section
variable {c : Ctx} {o : Op} {k : JumpKind} {indirect : Bool} {aim : Nat → Aim} (h : aimOk c o k indirect aim = true)
include h

theorem jumps_aimed {jaim : Ctx → Nat → Except TrapInfo Jump} (hj : ∀ t ∈ c.exec, jaim c t = .ok (jumpOf (aim t))) :
    c.jumps o k indirect jaim = aimed c aim := by
  have hres : ∀ t ∈ c.exec, (c.precheck o t).bind (fun _ => jaim c t) = .ok (jumpOf (aim t)) := fun t ht => by
    obtain ⟨hpre, -⟩ := aimOk_thread h ht
    rw [hpre]
    exact hj t ht
  unfold Ctx.jumps aimed
  simp only
  rw [failures_none c.exec (fun t => (c.precheck o t).bind fun _ => jaim c t) _ hres,
    successes_all c.exec (fun t => (c.precheck o t).bind fun _ => jaim c t) _ hres]
  congr 1
  rw [List.filterMap_eq_nil_iff]
  intro j hj
  obtain ⟨t, ht, rfl⟩ := List.mem_map.1 hj
  rw [jumpFault_none h ht]
  rfl

theorem aimed_miss : (aimed c aim).miss k = none := by
  simp only [JumpPart.miss, aimed, List.findSome?_eq_none_iff]
  intro j hj
  obtain ⟨t, ht, rfl⟩ := List.mem_map.1 hj
  split
  · rename_i i hi
    exact if_pos (spill_present h ht hi)
  · rfl

omit h in
/-- Where nothing fails and no page is absent, the transfer takes effect. -/
theorem aimed_run (s : State) (f : Fields) : (aimed c aim).run o k none f s = (aimed c aim).go k s := rfl

/-- A transfer of one group that passes its checks takes effect. -/
theorem jumpUnit_aimed {s : State} {f : Fields} (hc : IsTrick s f c) {jaim : Ctx → Nat → Except TrapInfo Jump}
    (hj : ∀ t ∈ c.exec, jaim c t = .ok (jumpOf (aim t))) : jumpUnit o k indirect f s jaim = .next ((aimed c aim).go k s) := by
  simp [jumpUnit, hc.trick, hc.ctx, jumps_aimed h hj, aimed_miss h, aimed_run]

end

/-! ### Fresh tags -/

/-- At most cohesion tags differ, and those of some threads of one group alone (R25). -/
structure Retagged (gid : Nat) (tids : List Nat) (s r : State) : Prop where
  rest : r = { s with groups := r.groups, fresh := r.fresh }
  others : ∀ g ∈ s.groups, g.gid ≠ gid → g ∈ r.groups
  threads : ∀ tid t, s.thread? gid tid = some t →
    ∃ u, r.thread? gid tid = some u ∧ { u with tag := t.tag } = t ∧ (tids.contains tid = false → u = t)

theorem Retagged.refl (gid : Nat) (tids : List Nat) (s : State) : Retagged gid tids s s :=
  ⟨rfl, fun _ h _ => h, fun _ t h => ⟨t, h, rfl, fun _ => rfl⟩⟩

theorem Retagged.trans {gid : Nat} {tids : List Nat} {s r q : State} (h : Retagged gid tids s r) (h' : Retagged gid tids r q) :
    Retagged gid tids s q where
  rest := by rw [h'.rest, h.rest]
  others g hg hne := h'.others g (h.others g hg hne) hne
  threads tid t ht := by
    obtain ⟨u, hu, hut, hun⟩ := h.threads tid t ht
    obtain ⟨w, hw, hwu, hwn⟩ := h'.threads tid u hu
    refine ⟨w, hw, ?_, fun hn => (hwn hn).trans (hun hn)⟩
    rw [← hut, ← hwu]

theorem mem_modGroup_other {s : State} {gid : Nat} {x : Group → Group} {g : Group} (hg : g ∈ s.groups) (hne : g.gid ≠ gid) :
    g ∈ (s.modGroup gid x).groups :=
  List.mem_map.2 ⟨g, hg, if_neg hne⟩

theorem thread?_modGroup (s : State) (gid tid : Nat) (x : Group → Group) (hx : ∀ g, (x g).gid = g.gid) :
    (s.modGroup gid x).thread? gid tid = (s.group? gid).bind fun g => (x g).threads[tid]? := by
  rw [State.thread?, State.modGroup_group s gid x hx]
  cases s.group? gid <;> rfl

theorem thread?_modThread (s : State) (gid tid i : Nat) (x : Thread → Thread) :
    (s.modThread gid tid x).thread? gid i = (s.thread? gid i).map fun t => if tid = i then x t else t := by
  rw [State.modThread, thread?_modGroup s gid i (fun g => g.modThread tid x) fun _ => rfl, State.thread?]
  cases s.group? gid with
  | none => rfl
  | some g => exact List.getElem?_modify x tid g.threads i

theorem retagged_loneTag {gid tid : Nat} {tids : List Nat} (s : State) (h : tids.contains tid = true) :
    Retagged gid tids s (s.loneTag gid tid) where
  rest := rfl
  others _ hg hne := mem_modGroup_other (s := s.bump) hg hne
  threads i t ht := by
    have hthread := thread?_modThread s.bump gid tid i fun t => { t with tag := s.fresh }
    rw [show s.bump.thread? gid i = some t from ht] at hthread
    refine ⟨_, hthread, ?_, fun hn => ?_⟩
    · split <;> rfl
    · exact if_neg fun hi => by rw [hi, hn] at h; cases h

/-- Threads of the group that get tags of their own one after another, as `p` says. -/
theorem retagged_foldl {α : Type} {gid : Nat} {tids : List Nat} (i : α → Nat) (p : α → Bool) (l : List α)
    (h : ∀ e ∈ l, tids.contains (i e) = true) (s : State) :
    Retagged gid tids s (l.foldl (fun acc e => if p e then acc.loneTag gid (i e) else acc) s) := by
  induction l generalizing s with
  | nil => exact .refl gid tids s
  | cons e r ih =>
    refine .trans ?_ (ih (fun x hx => h x (List.mem_cons_of_mem _ hx)) _)
    dsimp only
    split
    · exact retagged_loneTag s (h e List.mem_cons_self)
    · exact .refl gid tids s

theorem retagged_splitTags {gid : Nat} {old : List (Nat × Nat × Option Int)} {tids : List Nat}
    (h : ∀ e ∈ old, tids.contains e.1 = true) (s : State) : Retagged gid tids s (s.splitTags gid old) :=
  retagged_foldl (·.1) _ old h s

/-! ### Where the threads of the trick go -/

/-- A group whose threads of the trick have gone where they aim. -/
def landed (s : State) (c : Ctx) (k : JumpKind) (aim : Nat → Aim) (g : Group) : Group :=
  { g with threads := g.threads.mapIdx fun tid t => if c.tids.contains tid then wentTo c k aim (s.core g.coreNo).cycles tid t else t }

/-- A thread that jumps, where it has gone on (R163). -/
def jumped (c : Ctx) (k : JumpKind) (j : Jump) (t : Thread) : Thread :=
  if j.taken then
    let u := if k = .branch then t.branched c.s.issue.ipc j.off else t
    { u with pc := j.off, ret := j.ret, status := .ready }
  else t

theorem wentTo_eq (c : Ctx) (k : JumpKind) (aim : Nat → Aim) (now tid : Nat) (t : Thread) :
    wentTo c k aim now tid t = if c.exec.contains tid then jumped c k (jumpOf (aim tid)) (stepOn c now tid t) else stepOn c now tid t := by
  unfold wentTo jumped
  cases c.exec.contains tid <;> rfl

theorem stepOn_tag (c : Ctx) (now tid : Nat) (t : Thread) : (stepOn c now tid t).tag = t.tag := by
  unfold stepOn
  split <;> rfl

theorem branched_tag (t : Thread) (adr target : Word) : (t.branched adr target).tag = t.tag := by
  unfold Thread.branched
  split
  · split <;> rfl
  · rfl

/-- A transfer itself gives no tag. -/
theorem wentTo_tag (c : Ctx) (k : JumpKind) (aim : Nat → Aim) (now tid : Nat) (t : Thread) : (wentTo c k aim now tid t).tag = t.tag := by
  simp only [wentTo]
  split
  · split
    · exact (branched_tag _ _ _).trans (stepOn_tag c now tid t)
    · exact stepOn_tag c now tid t
  · exact stepOn_tag c now tid t

/-- A group's threads go on and then jump: together they land. -/
theorem jumped_goneOn {s : State} {c : Ctx} (hd : distinct c.tids = true) (k : JumpKind) (aim : Nat → Aim) (g : Group) :
    (c.exec.map fun t => (t, jumpOf (aim t))).foldl (fun g j => g.modThread j.1 (jumped c k j.2)) (goneOn s c g) = landed s c k aim g := by
  rw [foldl_modThread _ (jumped c k) _ (by simpa [List.map_map, Function.comp_def] using distinct_exec hd)]
  simp only [goneOn, landed, List.mapIdx_mapIdx]
  congr 2
  funext tid t
  simp only [Function.comp, exec_find, wentTo_eq]
  cases hex : c.exec.contains tid
  · rfl
  · rw [mem_tids_of_exec hex]
    rfl

/-- A transfer that takes effect leaves the state that `transferred` names. -/
theorem go_transferred {s : State} {f : Fields} {c : Ctx} (hc : IsTrick s f c) (k : JumpKind) (aim : Nat → Aim) :
    transferred s c k aim ((aimed c aim).go k s) := by
  have hgo : Retagged c.g.gid c.tids (s.modGroup c.g.gid (landed s c k aim)) ((aimed c aim).go k s) := by
    have hland : (s.modGroup c.g.gid (landed s c k aim)) = ((s.advance c.g.gid c.tids).modGroup c.g.gid fun g =>
        (aimed c aim).js.foldl (fun g j => g.modThread j.1 (jumped c k j.2)) g) := by
      rw [show s.advance c.g.gid c.tids = s.modGroup c.g.gid (goneOn s c) from advance_goneOn hc.state hc.distinct s.groups,
        modGroup_modGroup _ _ (goneOn s c) _ fun _ => rfl]
      exact congrArg _ (funext fun g => (jumped_goneOn hc.distinct k aim g).symm)
    rw [hland]
    have hs := hc.state
    subst hs
    refine retagged_splitTags (fun e he => ?_) _
    obtain ⟨i, hi, rfl⟩ := List.mem_map.1 he
    exact List.contains_iff_mem.2 hi
  refine ⟨hgo.rest, fun g hg hne => hgo.others g (mem_modGroup_other hg hne) hne, fun tid t ht => ?_⟩
  have hlanded : (s.modGroup c.g.gid (landed s c k aim)).thread? c.g.gid tid =
      some (if c.tids.contains tid then wentTo c k aim (s.core c.g.coreNo).cycles tid t else t) := by
    simp only [State.thread?, hc.group] at ht
    rw [thread?_modGroup _ _ _ (landed s c k aim) fun _ => rfl, hc.group]
    simp [landed, ht]
  obtain ⟨u, hu, htag, hn⟩ := hgo.threads tid _ hlanded
  refine ⟨u, hu, fun hin => ?_, fun hout => ?_⟩
  · rw [if_pos hin, wentTo_tag] at htag
    exact htag
  · rw [hn hout, hout]
    rfl

end Sys2Proof.Proofs
end

section
/-!
PROOFS. `bra`, `bra.sz`, `bra.snz` and `brx` (R163 to R165).
-/

namespace Sys2Proof.Proofs

open Sys2Proof Sys2Proof.Machine Sys2Proof.Safety Sys2Proof.Claims

theorem opBra_aim (c : Ctx) (t : Nat) :
    (.ok ⟨c.direct, c.f.v == 0 || (c.f.v == 1 && nth c.g.s c.f.c.num 0 == 0) || (c.f.v == 2 && !(nth c.g.s c.f.c.num 0 == 0)), c.stay t⟩ :
      Except TrapInfo Jump) = .ok (jumpOf (braAim c t)) := by
  simp only [jumpOf, braAim, Ctx.direct, Ctx.stay, beq_eq_decide]

theorem branchesTaken : BranchesTaken := by
  refine ⟨fun i f s c hi hone _ haim => ?_, fun i f s c hi hone _ haim => ?_⟩
  · have hc := isTrick_of_oneGroup hone
    exact ⟨_, (exec_row hi s).trans (jumpUnit_aimed haim hc fun t _ => opBra_aim c t), go_transferred hc _ _⟩
  · have hc := isTrick_of_oneGroup hone
    refine ⟨_, (exec_row hi s).trans (jumpUnit_aimed haim hc fun t ht => ?_), go_transferred hc _ _⟩
    obtain ⟨-, hconst, -⟩ := aimOk_thread haim ht
    rw [intA_got c 1 t hconst]
    rfl

/-- Settles O18: land, nop and yield advance the trick's threads; a branch whose checks pass lands them where they aim. -/
theorem branches : Obligations.Branches := by
  unfold Obligations.Branches
  exact ⟨goOn, branchesTaken⟩

end Sys2Proof.Proofs
end

section
/-!
PROOFS. `gclr`, `csr.rd` and `csr.wr` (R177, R181 to R184): units that act once per group.
-/

namespace Sys2Proof.Proofs

open Sys2Proof Sys2Proof.Machine Sys2Proof.Safety Sys2Proof.Claims

/-- A row that acts once per group runs when its body answers where the operands read. -/
theorem exec_groupRow {i : Instr} {o : Op} {f : Fields} {s : State} (body : Ctx → Except TrapInfo (Group → Group)) {h : Ctx → Group → Group}
    (hi : IsRow i o f) (ho : opExec o f s = groupUnit o f s body) (hr : groupRuns o f s = true)
    (hb : ∀ c, ConstsOk c → body c = .ok (h c)) (hgid : ∀ c g, (h c g).gid = g.gid) (hcore : ∀ c g, (h c g).coreNo = g.coreNo) :
    exec i s = .next (groupAfter s f h) := by
  rw [exec_row hi, ho]
  refine groupUnit_next o f s body h hr hgid (fun e he c hctx => ?_) hcore
  obtain ⟨-, ha, hb', hc⟩ := groupRuns_ctx hr he hctx
  exact hb c ⟨ha, hb', hc⟩

theorem trickOk_of_groupRuns {o : Op} {f : Fields} {s : State} (h : groupRuns o f s = true) : trickOk s = true := by
  simp only [groupRuns, Bool.and_eq_true] at h
  exact h.1

/-- What a unit does to a group matters for tricks that name no thread twice alone. -/
theorem groupAfter_congr {s : State} {f : Fields} (hs : trickOk s = true) {h h' : Ctx → Group → Group}
    (hh : ∀ c, distinct c.tids = true → h c = h' c) : groupAfter s f h = groupAfter s f h' := by
  unfold groupAfter groupsAfter
  congr 1
  apply List.map_congr_left
  intro g _
  cases hf : s.issue.trick.find? fun e => e.1 == g.gid with
  | none => rfl
  | some e =>
    obtain ⟨_, _, -, -, hc, -, hd⟩ := trickOk_ctx hs f (List.mem_of_find?_eq_some hf)
    simp only [hc, hh ⟨s, _, _, e.2, s.fieldsNow f⟩ hd]

theorem gclr_next {i : Instr} {f : Fields} {s : State} (hi : IsRow i .gclr f) (hr : groupRuns .gclr f s = true) :
    exec i s = .next (groupAfter s f fun c g => { g with g := g.g.set c.f.d (if c.f.b.num = 1 then 3 else 0) }) :=
  exec_groupRow (fun c => .ok fun g => { g with g := g.g.set c.f.d (if c.f.b.num = 1 then 3 else 0) }) hi rfl hr (fun _ _ => rfl)
    (fun _ _ => rfl) fun _ _ => rfl

/-- Each thread of the trick reads a control register of its own. -/
def threadsRead (c : Ctx) (value : Thread → Word) (g : Group) : Group := g.modThreads c.tids fun t => t.writeReg c.f.d (value t)

/-- What `csr.rd` does to a group, as the model runs it (R182 to R184). -/
def csrRead (c : Ctx) : Group → Group :=
  if c.f.a.num = 5 then threadsRead c (ctxState c.g)
  else if c.f.a.num = 6 then threadsRead c fun t => BitVec.ofNat 32 t.unacked
  else fun g => g.writeS c.tids c.f.d (c.g.csr c.f.a.num)

theorem csrRead_gid (c : Ctx) (g : Group) : (csrRead c g).gid = g.gid := by
  unfold csrRead
  split
  · exact Group.modThreads_gid ..
  · split
    · exact Group.modThreads_gid ..
    · exact Group.writeS_gid ..

theorem csrRead_coreNo (c : Ctx) (g : Group) : (csrRead c g).coreNo = g.coreNo := by
  unfold csrRead
  split
  · exact Group.modThreads_coreNo ..
  · split
    · exact Group.modThreads_coreNo ..
    · exact Group.writeS_coreNo ..

theorem csrRd_next {i : Instr} {f : Fields} {s : State} (hi : IsRow i .csrRd f) (hr : groupRuns .csrRd f s = true) :
    exec i s = .next (groupAfter s f csrRead) :=
  exec_groupRow (fun c => .ok (csrRead c)) hi rfl hr (fun _ _ => rfl) csrRead_gid csrRead_coreNo

theorem csrWr_next {i : Instr} {f : Fields} {s : State} (hi : IsRow i .csrWr f) (hr : groupRuns .csrWr f s = true) :
    exec i s = .next (groupAfter s f fun c g =>
      let x : Word := (got (c.sB .int 1)).setWidth 32
      if c.f.a.num = 0 then { g with trapbase := x } else { g with trapepc := x, epcWritten := true }) := by
  refine exec_groupRow _ hi rfl hr (fun c h => ?_) (fun c g => ?_) fun c g => ?_
  · rw [sB_got c .int 1 h.b]
    rfl
  · dsimp only
    split <;> rfl
  · dsimp only
    split <;> rfl

theorem registersRead : RegistersRead := by
  refine ⟨fun i f s hi hr => ?_, fun i f s hi hr => csrWr_next hi hr⟩
  rw [csrRd_next hi hr]
  refine congrArg _ (groupAfter_congr (trickOk_of_groupRuns hr) fun c hd => ?_)
  funext g
  unfold csrRead
  split
  · exact modThreads_eq _ _ _ hd
  · split
    · exact modThreads_eq _ _ _ hd
    · exact writeS_eq c g _ _ hd

end Sys2Proof.Proofs
end

section
/-!
PROOFS. What a step keeps of a group and its threads: relations between the groups of two states, thread by thread, that compose.
-/

namespace Sys2Proof.Proofs

open Sys2Proof Sys2Proof.Machine Sys2Proof.Safety Sys2Proof.Claims

/-! ### Related options -/

theorem rel_map {α : Type} {K : α → α → Prop} {x : α → α} (hx : ∀ a, K a (x a)) (o : Option α) : Option.Rel K o (o.map x) := by
  cases o with
  | none => exact .none
  | some a => exact .some (hx a)

theorem rel_comp {α : Type} {K K' : α → α → Prop} {o p q : Option α} (h : Option.Rel K o p) (h' : Option.Rel K' p q) :
    Option.Rel (Relation.Comp K K') o q := by
  cases h with
  | none => cases h'; exact .none
  | some h =>
    cases h' with
    | some h' => exact .some ⟨_, h, h'⟩

theorem rel_mono {α : Type} {K K' : α → α → Prop} (hK : ∀ a b, K a b → K' a b) {o p : Option α} (h : Option.Rel K o p) :
    Option.Rel K' o p := by
  cases h with
  | none => exact .none
  | some h => exact .some (hK _ _ h)

theorem rel_some {α : Type} {K : α → α → Prop} {o p : Option α} {a : α} (h : Option.Rel K o p) (ho : o = some a) :
    ∃ b, p = some b ∧ K a b := by
  subst ho
  cases h with
  | some h => exact ⟨_, rfl, h⟩

/-! ### Threads, groups, states -/

/-- A thread keeps its registers, predicates, return stack and accesses, and waits for an entry of its store-buffer share as before. -/
structure KeepsData (t u : Thread) : Prop where
  v : u.v = t.v
  p : u.p = t.p
  ret : u.ret = t.ret
  ops : u.ops = t.ops
  waits : storeWaits u = storeWaits t

theorem KeepsData.refl (t : Thread) : KeepsData t t := ⟨rfl, rfl, rfl, rfl, rfl⟩

theorem KeepsData.trans {t u w : Thread} (h : KeepsData t u) (h' : KeepsData u w) : KeepsData t w :=
  ⟨h'.v.trans h.v, h'.p.trans h.p, h'.ret.trans h.ret, h'.ops.trans h.ops, h'.waits.trans h.waits⟩

/-- A group keeps its registers and its guard slots, and each thread stands in a relation to what it was. -/
structure GroupRel (K : Thread → Thread → Prop) (g h : Group) : Prop where
  gid : h.gid = g.gid
  scalars : h.s = g.s
  guards : h.g = g.g
  window : h.window = g.window
  threads : ∀ i : Nat, Option.Rel K g.threads[i]? h.threads[i]?

theorem GroupRel.comp {K K' : Thread → Thread → Prop} {g h k : Group} (x : GroupRel K g h) (y : GroupRel K' h k) :
    GroupRel (Relation.Comp K K') g k :=
  ⟨y.gid.trans x.gid, y.scalars.trans x.scalars, y.guards.trans x.guards, y.window.trans x.window, fun i => rel_comp (x.threads i) (y.threads i)⟩

theorem GroupRel.mono {K K' : Thread → Thread → Prop} (hK : ∀ t u, K t u → K' t u) {g h : Group} (x : GroupRel K g h) : GroupRel K' g h :=
  ⟨x.gid, x.scalars, x.guards, x.window, fun i => rel_mono hK (x.threads i)⟩

theorem GroupRel.refl (g : Group) : GroupRel KeepsData g g :=
  ⟨rfl, rfl, rfl, rfl, fun i => by simpa using rel_map (x := id) KeepsData.refl g.threads[i]?⟩

theorem keepsData_of_comp {t u : Thread} (h : Relation.Comp KeepsData KeepsData t u) : KeepsData t u := by
  obtain ⟨w, h, h'⟩ := h
  exact h.trans h'

theorem GroupRel.trans {g h k : Group} (x : GroupRel KeepsData g h) (y : GroupRel KeepsData h k) : GroupRel KeepsData g k :=
  (x.comp y).mono fun _ _ => keepsData_of_comp

theorem groupRel_map {K : Thread → Thread → Prop} {x : Thread → Thread} (hx : ∀ t, K t (x t)) (g : Group) :
    GroupRel K g { g with threads := g.threads.map x } :=
  ⟨rfl, rfl, rfl, rfl, fun i => by simpa using rel_map hx g.threads[i]?⟩

theorem groupRel_modThread {x : Thread → Thread} (hx : ∀ t, KeepsData t (x t)) (g : Group) (tid : Nat) :
    GroupRel KeepsData g (g.modThread tid x) :=
  ⟨rfl, rfl, rfl, rfl, fun i => by
    simp only [Group.modThread, List.getElem?_modify]
    refine rel_map (fun t => ?_) _
    split
    · exact hx t
    · exact .refl t⟩

theorem groupRel_modThreads {x : Thread → Thread} (hx : ∀ t, KeepsData t (x t)) (tids : List Nat) (g : Group) :
    GroupRel KeepsData g (g.modThreads tids x) := by
  unfold Group.modThreads
  induction tids generalizing g with
  | nil => exact .refl g
  | cons i r ih => exact (groupRel_modThread hx g i).trans (ih _)

/-- The memory and the engines of the dies are as they were, and one group is like what it was. -/
structure StateRel (K : Thread → Thread → Prop) (gid : Nat) (s r : State) : Prop where
  mem : r.mem = s.mem
  dies : r.dies = s.dies
  group : Option.Rel (GroupRel K) (s.group? gid) (r.group? gid)

theorem StateRel.refl (gid : Nat) (s : State) : StateRel KeepsData gid s s :=
  ⟨rfl, rfl, by simpa using rel_map (x := id) GroupRel.refl (s.group? gid)⟩

theorem StateRel.trans {gid : Nat} {s r q : State} (h : StateRel KeepsData gid s r) (h' : StateRel KeepsData gid r q) : StateRel KeepsData gid s q :=
  ⟨h'.mem.trans h.mem, h'.dies.trans h.dies, rel_mono (fun _ _ ⟨_, x, y⟩ => x.trans y) (rel_comp h.group h'.group)⟩

theorem group?_map {s r : State} {x : Group → Group} (hr : r.groups = s.groups.map x) (hx : ∀ g, (x g).gid = g.gid) (gid : Nat) :
    r.group? gid = (s.group? gid).map x := by
  rw [State.group?, hr, List.find?_map, State.group?]
  simp only [Function.comp_def, hx]

/-- A change of every group. -/
theorem stateRel_map {K : Thread → Thread → Prop} {gid : Nat} {s r : State} {x : Group → Group} (hm : r.mem = s.mem) (hd : r.dies = s.dies)
    (hr : r.groups = s.groups.map x) (hx : ∀ g, GroupRel K g (x g)) : StateRel K gid s r :=
  ⟨hm, hd, by rw [group?_map hr (fun g => (hx g).gid)]; exact rel_map hx _⟩

/-- A change of one group. -/
theorem stateRel_modGroup {x : Group → Group} (hx : ∀ g, GroupRel KeepsData g (x g)) (gid : Nat) (s : State) (i : Nat) :
    StateRel KeepsData gid s (s.modGroup i x) := by
  refine stateRel_map rfl rfl rfl fun g => ?_
  split
  · exact hx g
  · exact .refl g

theorem stateRel_setQuad (gid : Nat) (s : State) (qn : Nat) (q : Quad) : StateRel KeepsData gid s (s.setQuad qn q) :=
  ⟨rfl, rfl, (StateRel.refl gid s).group⟩

theorem stateRel_advance (gid : Nat) (s : State) (i : Nat) (tids : List Nat) : StateRel KeepsData gid s (s.advance i tids) := by
  unfold State.advance
  split
  · exact .refl gid s
  · refine stateRel_modGroup (fun g => ?_) gid s i
    refine groupRel_modThreads (fun t => ?_) _ g
    exact ⟨rfl, rfl, rfl, rfl, rfl⟩

theorem advance_quads (s : State) (gid : Nat) (tids : List Nat) : (s.advance gid tids).quads = s.quads := by
  unfold State.advance
  split <;> rfl

end Sys2Proof.Proofs
end

section
/-!
PROOFS. A guard slot is decided (R178): the quad's commands, the copies of the channels, and the accesses that wait on it.
-/

namespace Sys2Proof.Proofs

open Sys2Proof Sys2Proof.Machine Sys2Proof.Safety Sys2Proof.Claims

theorem nodup_of_distinct {l : List Nat} (h : distinct l = true) : l.Nodup := by
  induction l with
  | nil => exact .nil
  | cons a r ih =>
    simp only [distinct, Bool.and_eq_true, Bool.not_eq_true', List.contains_eq_mem, decide_eq_false_iff_not] at h
    exact List.nodup_cons.2 ⟨h.1, ih h.2⟩

/-! ### One entry of a list, by its number -/

theorem nodup_at {α : Type} (key : α → Nat) (a : α) (l r : List α) :
    ((l ++ a :: r).map key).Nodup ↔ key a ∉ (l ++ r).map key ∧ ((l ++ r).map key).Nodup := by
  rw [List.map_append, List.map_cons, List.nodup_middle, ← List.map_append, List.nodup_cons]

section
variable {α : Type} {key : α → Nat} {a : α} {l r : List α} (hn : key a ∉ (l ++ r).map key)
include hn

theorem map_at (x : α → α) : (l ++ a :: r).map (fun e => if key e = key a then x e else e) = l ++ x a :: r := by
  have hkeep : ∀ k : List α, (∀ e ∈ k, e ∈ l ++ r) → k.map (fun e => if key e = key a then x e else e) = k := fun k hk =>
    (List.map_congr_left fun e he => if_neg fun h => hn (List.mem_map.2 ⟨e, hk e he, h⟩)).trans (List.map_id' k)
  rw [List.map_append, List.map_cons, if_pos rfl, hkeep l fun e he => List.mem_append_left r he, hkeep r fun e he => List.mem_append_right l he]

theorem filter_at : (l ++ a :: r).filter (fun e => key e != key a) = l ++ r := by
  rw [← List.filter_eq_self (p := fun e => key e != key a) (l := l ++ r) |>.2 fun e he => bne_iff_ne.2 fun h => hn (List.mem_map.2 ⟨e, he, h⟩)]
  simp

end

/-! ### Matrix commands -/

/-- Does a command wait on the slot? -/
def cmdWaits (gid gs : Nat) (c : MatCmd) : Bool := c.gid == gid && (match c.guard with | some p => p.gs.toNat == gs | none => false)

/-- One command's part of a decision, as the model carries it out. -/
def decideCmd (qn gid gs : Nat) (val : Bool) (acc : State) (c : MatCmd) : State :=
  if cmdWaits gid gs c then
    match c.guard with
    | some p =>
      if val != p.sns then
        let r := acc.takeDraws { c with guard := none }
        r.2.setQuad qn { r.2.quad qn with cmds := (r.2.quad qn).cmds.map fun x => if x.cid = c.cid then r.1 else x }
      else (acc.unpend c).setQuad qn ((acc.quad qn).dropCmd c.cid)
    | none => acc
  else acc

theorem decideMat_eq (s : State) (qn gid gs : Nat) (val : Bool) :
    s.decideMat qn gid gs val = ((s.quad qn).cmds.foldl (decideCmd qn gid gs val) s).settleQuad qn := rfl

/-- What the decision makes of one command. -/
def decidedCmd (gid gs : Nat) (val : Bool) (c : MatCmd) : Option MatCmd :=
  (decidedGuard (c.gid == gid) gs val c.guard).map fun g => { c with guard := g }

theorem withGuard_self {c : MatCmd} {g : Option GuardP} (h : c.guard = g) : { c with guard := g } = c := by
  subst h
  rfl

theorem decidedCmd_cid {gid gs : Nat} {val : Bool} {c d : MatCmd} (h : d ∈ (decidedCmd gid gs val c).toList) : d.cid = c.cid := by
  rw [Option.mem_toList, decidedCmd, Option.map_eq_some_iff] at h
  obtain ⟨g, -, rfl⟩ := h
  rfl

theorem decidedCmds_cons (gid gs : Nat) (val : Bool) (c : MatCmd) (l : List MatCmd) :
    decidedCmds gid gs val (c :: l) = (decidedCmd gid gs val c).toList ++ decidedCmds gid gs val l := by
  unfold decidedCmds
  rw [List.filterMap_cons]
  unfold decidedCmd
  split <;> rename_i h <;> rw [h] <;> rfl

/-- The cases of a decision: a command that does not wait on the slot stays, one whose guard the slot meets stands decided, any other one is gone. -/
theorem decidedCmd_cases (gid gs : Nat) (val : Bool) (c : MatCmd) :
    (cmdWaits gid gs c = false ∧ decidedCmd gid gs val c = some c) ∨
    ∃ p, c.guard = some p ∧ cmdWaits gid gs c = true ∧
      ((val != p.sns) = true ∧ decidedCmd gid gs val c = some { c with guard := none } ∨
        (val != p.sns) = false ∧ decidedCmd gid gs val c = none) := by
  unfold cmdWaits decidedCmd decidedGuard
  cases hg : c.guard with
  | none => exact .inl ⟨by simp, congrArg some (withGuard_self hg)⟩
  | some p =>
    cases hw : c.gid == gid && p.gs.toNat == gs
    · exact .inl ⟨rfl, by simp [hw, withGuard_self hg]⟩
    · refine .inr ⟨p, rfl, rfl, ?_⟩
      cases hv : val != p.sns <;> simp [hw, hv]

theorem takeDraws_of_not_waiting {s : State} {c : MatCmd} (h : waitingDraws c = false) (hg : c.guard.isSome = true) :
    s.takeDraws { c with guard := none } = ({ c with guard := none }, s) := by
  unfold State.takeDraws
  split
  · rename_i hop
    simp only at hop
    refine if_neg fun hm => ?_
    simp [waitingDraws, hg, hop, hm] at h
  · rfl

theorem decideCmd_quad {qn gid gs : Nat} {val : Bool} {acc : State} {c : MatCmd} {done r : List MatCmd}
    (hq : (acc.quad qn).cmds = done ++ c :: r) (hn : c.cid ∉ (done ++ r).map (·.cid)) (hw : waitingDraws c = false) :
    (decideCmd qn gid gs val acc c).quad qn = { acc.quad qn with cmds := done ++ (decidedCmd gid gs val c).toList ++ r } := by
  rcases decidedCmd_cases gid gs val c with ⟨hno, hd⟩ | ⟨p, hp, hyes, ⟨hv, hd⟩ | ⟨hv, hd⟩⟩
  · rw [decideCmd, hno, hd]
    simp [← hq]
  · simp only [decideCmd, hyes, hp, hv, if_true]
    rw [takeDraws_of_not_waiting hw (by simp [hp]), State.setQuad_quad, hd, hq]
    simp [map_at (key := MatCmd.cid) hn]
  · simp only [decideCmd, hyes, hp, hv, if_true, Bool.false_eq_true, if_false]
    rw [State.setQuad_quad, hd, Quad.dropCmd, hq]
    simp [filter_at (key := MatCmd.cid) hn]

theorem decideCmds_quad {qn gid gs : Nat} {val : Bool} (l : List MatCmd) (acc : State) (done : List MatCmd)
    (hq : (acc.quad qn).cmds = done ++ l) (hn : ((done ++ l).map (·.cid)).Nodup) (hw : l.any waitingDraws = false) :
    (l.foldl (decideCmd qn gid gs val) acc).quad qn = { acc.quad qn with cmds := done ++ decidedCmds gid gs val l } := by
  induction l generalizing acc done with
  | nil => simp [decidedCmds, ← hq]
  | cons c r ih =>
    simp only [List.any_cons, Bool.or_eq_false_iff] at hw
    obtain ⟨hfresh, hrest⟩ := (nodup_at MatCmd.cid c done r).1 hn
    have hstep := decideCmd_quad (gid := gid) (gs := gs) (val := val) hq hfresh hw.1
    rw [List.foldl_cons, ih _ (done ++ (decidedCmd gid gs val c).toList) (by rw [hstep]) ?_ hw.2, hstep, decidedCmds_cons]
    · simp only [List.append_assoc]
    · cases hd : decidedCmd gid gs val c with
      | none => simpa using hrest
      | some d =>
        have hcid : d.cid = c.cid := decidedCmd_cid (by rw [hd]; exact List.mem_singleton_self d)
        simpa [hcid] using hn

/-- After a decision the quad holds the commands that stand, of which the instant ones that are first take effect (R178, R259). -/
theorem decideMat_quad {s : State} {qn gid gs : Nat} {val : Bool} (hn : distinct ((s.quad qn).cmds.map (·.cid)) = true)
    (hw : (s.quad qn).cmds.any waitingDraws = false) :
    (s.decideMat qn gid gs val).quad qn =
      ({ s.quad qn with cmds := decidedCmds gid gs val (s.quad qn).cmds } : Quad).settle (decidedCmds gid gs val (s.quad qn).cmds).length := by
  have h := decideCmds_quad (gid := gid) (gs := gs) (val := val) (s.quad qn).cmds s [] rfl (nodup_of_distinct hn) hw
  rw [List.nil_append] at h
  rw [decideMat_eq, State.settleQuad]
  refine (State.setQuad_quad _ qn _).trans ?_
  rw [h]

theorem keepsData_stampReady (s : State) (g : Group) {t u : Thread} (h : KeepsData t u) (w : Thread) : KeepsData t (s.stampReady g w u) := by
  unfold State.stampReady
  split
  · exact ⟨h.v, h.p, h.ret, h.ops, h.waits⟩
  · exact h

theorem keepsData_matrixDone (q : Quad) (now : Nat) (t : Thread) : KeepsData t (t.matrixDone q now) := by
  unfold Thread.matrixDone
  split
  · rename_i hs
    split
    · exact .refl t
    · exact ⟨rfl, rfl, rfl, rfl, by simp [storeWaits, hs]⟩
  · exact .refl t

theorem stateRel_unpend (gid : Nat) (s : State) (c : MatCmd) : StateRel KeepsData gid s (s.unpend c) := by
  refine stateRel_modGroup (fun g => ?_) gid s c.gid
  refine (groupRel_modThreads (fun t => ?_) c.tids g).trans (groupRel_map (fun t => ?_) _)
  · refine keepsData_stampReady s g ?_ t
    exact ⟨rfl, rfl, rfl, rfl, rfl⟩
  · split
    · refine keepsData_stampReady s g ?_ t
      exact ⟨rfl, rfl, rfl, rfl, rfl⟩
    · exact .refl t

theorem stateRel_takeDraws (gid : Nat) (s : State) (c : MatCmd) : StateRel KeepsData gid s (s.takeDraws c).2 := by
  unfold State.takeDraws
  split
  · split
    · refine stateRel_modGroup (fun g => ?_) gid s c.gid
      refine groupRel_modThreads (fun t => ?_) c.tids g
      exact ⟨rfl, rfl, rfl, rfl, rfl⟩
    · exact .refl gid s
  · exact .refl gid s

theorem stateRel_decideCmd (gid qn gid' gs : Nat) (val : Bool) (s : State) (c : MatCmd) :
    StateRel KeepsData gid s (decideCmd qn gid' gs val s c) := by
  unfold decideCmd
  split
  · split
    · split
      · exact (stateRel_takeDraws gid s _).trans (stateRel_setQuad gid _ qn _)
      · exact (stateRel_unpend gid s c).trans (stateRel_setQuad gid _ qn _)
    · exact .refl gid s
  · exact .refl gid s

theorem stateRel_settleQuad (gid : Nat) (s : State) (qn : Nat) : StateRel KeepsData gid s (s.settleQuad qn) := by
  refine stateRel_map rfl rfl rfl fun g => ?_
  split
  · exact groupRel_map (keepsData_matrixDone _ _) g
  · exact .refl g

/-- The decision of the quad's commands keeps the threads' data. -/
theorem stateRel_decideMat (gid : Nat) (s : State) (qn gid' gs : Nat) (val : Bool) : StateRel KeepsData gid s (s.decideMat qn gid' gs val) := by
  rw [decideMat_eq]
  refine .trans ?_ (stateRel_settleQuad gid _ qn)
  generalize (s.quad qn).cmds = l
  induction l generalizing s with
  | nil => exact .refl gid s
  | cons c r ih => exact (stateRel_decideCmd gid qn gid' gs val s c).trans (ih _)

/-! ### Copies that wait in a channel -/

theorem tget_map {α : Type} (x : α → α) (l : Tab α) (k : Nat) (d : α) (hd : x d = d) :
    tget (l.map fun e => (e.1, x e.2)) k d = x (tget l k d) := by
  induction l with
  | nil => exact hd.symm
  | cons e r ih =>
    simp only [List.map_cons, tget]
    split
    · rfl
    · exact ih

/-- The copies of every channel are decided as that channel decides them. -/
theorem decideCopies_channel (s : State) (gid gs : Nat) (val : Bool) (d n : Nat) :
    ((s.decideCopies gid gs val).die d).channel n = ((s.die d).channel n).decide gid gs val := by
  rw [State.die, State.decideCopies,
    tget_map (fun x : Die => { x with channels := x.channels.map fun c => (c.1, c.2.decide gid gs val) }) s.dies d _ rfl,
    Die.channel, tget_map (fun c : Channel => c.decide gid gs val) _ n _ rfl]
  rfl

/-- One copy's part of a decision, as the model carries it out. -/
def decideCopy (gid gs : Nat) (val : Bool) (acc : Channel) (c : Copy) : Channel :=
  match c.guard with
  | some p =>
    if c.gid = gid && p.gs.toNat = gs then
      if val != p.sns then
        let n := acc.number
        { n.2 with queue := acc.queue ++ [{ c with guard := none, number := some n.1 }] }
      else acc
    else { acc with queue := acc.queue ++ [c] }
  | none => { acc with queue := acc.queue ++ [c] }

theorem decide_eq (ch : Channel) (gid gs : Nat) (val : Bool) :
    ch.decide gid gs val = ch.queue.foldl (decideCopy gid gs val) { ch with queue := [] } := rfl

/-- A copy as it is named: its number of the channel's queue and its guard. -/
def copyGuard (x : Copy) : Nat × Option GuardP := (x.cid, x.guard)
/-- What a decision makes of a copy that is named so. -/
def decidedCopy (gid gs : Nat) (val : Bool) (x : Copy) : Option (Nat × Option GuardP) :=
  (decidedGuard (x.gid == gid) gs val x.guard).map fun g => (x.cid, g)

theorem decideCopy_queue (gid gs : Nat) (val : Bool) (acc : Channel) (c : Copy) :
    (decideCopy gid gs val acc c).queue.map copyGuard = acc.queue.map copyGuard ++ (decidedCopy gid gs val c).toList := by
  unfold decideCopy decidedCopy decidedGuard
  cases hg : c.guard with
  | none => simp [copyGuard, hg]
  | some p =>
    by_cases hw : c.gid = gid ∧ p.gs.toNat = gs
    · cases hv : val != p.sns <;> simp [hw, hv, copyGuard]
    · have hw' : (c.gid == gid && p.gs.toNat == gs) = false := by simpa using hw
      simp [hw, hw', copyGuard, hg]

/-- A channel keeps the copies that stand, in order. -/
theorem decide_queue (ch : Channel) (gid gs : Nat) (val : Bool) :
    (ch.decide gid gs val).queue.map copyGuard = ch.queue.filterMap (decidedCopy gid gs val) := by
  suffices h : ∀ (l : List Copy) (acc : Channel),
      (l.foldl (decideCopy gid gs val) acc).queue.map copyGuard = acc.queue.map copyGuard ++ l.filterMap (decidedCopy gid gs val) by
    rw [decide_eq, h]
    rfl
  intro l
  induction l with
  | nil => simp
  | cons c r ih =>
    intro acc
    rw [List.foldl_cons, ih, decideCopy_queue, List.append_assoc, List.filterMap_cons]
    cases decidedCopy gid gs val c <;> rfl

/-! ### Accesses that wait in a thread's store buffer -/

/-- One access's part of a decision, as the model carries it out. -/
def decideOp (gs : Nat) (val : Bool) (u : Thread) (a : Access) : Thread :=
  match a.guard with
  | some p =>
    if p.gs.toNat = gs then
      if val != p.sns then { u with ops := u.ops.map fun o => if o.seq = a.seq then { o with guard := none } else o }
      else { u.dropOp a.seq with unacked := u.unacked - 1 }
    else u
  | none => u

theorem decideOps_eq (t : Thread) (gs : Nat) (val : Bool) :
    t.decideOps gs val = (t.decideWait gs val).ops.foldl (decideOp gs val) (t.decideWait gs val) := rfl

/-- What the decision makes of one access. -/
def decidedOp (gs : Nat) (val : Bool) (a : Access) : Option (Nat × Option GuardP) :=
  (decidedGuard true gs val a.guard).map fun g => (a.seq, g)
/-- An access as it is named: its number of the thread and its guard. -/
def opGuard (a : Access) : Nat × Option GuardP := (a.seq, a.guard)

theorem keepsData_decideWait (t : Thread) (gs : Nat) (val : Bool) : KeepsData t (t.decideWait gs val) := by
  unfold Thread.decideWait
  split <;> rename_i hs
  · exact ⟨rfl, rfl, rfl, rfl, by simp [storeWaits, hs]⟩
  · exact ⟨rfl, rfl, rfl, rfl, by simp [storeWaits, hs]⟩
  · exact ⟨rfl, rfl, rfl, rfl, by simp [storeWaits, hs]⟩
  · exact .refl t

/-- A decision of accesses changes the list of them, and the count of those not acknowledged, alone. -/
theorem foldl_decideOp (gs : Nat) (val : Bool) (l : List Access) (t : Thread) :
    ∃ ops n, l.foldl (decideOp gs val) t = { t with ops := ops, unacked := n } := by
  induction l generalizing t with
  | nil => exact ⟨t.ops, t.unacked, rfl⟩
  | cons a r ih =>
    have hstep : ∃ ops n, decideOp gs val t a = { t with ops := ops, unacked := n } := by
      unfold decideOp
      split
      · split
        · split
          · exact ⟨_, t.unacked, rfl⟩
          · exact ⟨_, t.unacked - 1, rfl⟩
        · exact ⟨t.ops, t.unacked, rfl⟩
      · exact ⟨t.ops, t.unacked, rfl⟩
    obtain ⟨ops, n, hs⟩ := hstep
    obtain ⟨ops', n', hr⟩ := ih (decideOp gs val t a)
    exact ⟨ops', n', by rw [List.foldl_cons, hr, hs]⟩

theorem decideOp_ops {gs : Nat} {val : Bool} {t : Thread} {a : Access} {done r : List Access} (ho : t.ops = done ++ a :: r)
    (hn : a.seq ∉ (done ++ r).map (·.seq)) :
    ∃ l, (decideOp gs val t a).ops = done ++ (l ++ r) ∧ l.map opGuard = (decidedOp gs val a).toList := by
  unfold decideOp decidedOp decidedGuard
  cases hg : a.guard with
  | none => exact ⟨[a], ho, by simp [opGuard, hg]⟩
  | some p =>
    by_cases hw : p.gs.toNat = gs
    · cases hv : val != p.sns
      · refine ⟨[], ?_, by simp [hw, hv]⟩
        simp only [hw, hv, if_true, Thread.dropOp, ho, Bool.false_eq_true, if_false]
        exact filter_at (key := Access.seq) hn
      · refine ⟨[{ a with guard := none }], ?_, by simp [opGuard, hw, hv]⟩
        simp only [hw, hv, if_true, ho]
        exact map_at (key := Access.seq) hn fun o => { o with guard := none }
    · exact ⟨[a], by simpa [hw] using ho, by simp [opGuard, hg, hw]⟩

theorem foldl_decideOp_ops {gs : Nat} {val : Bool} (l : List Access) (t : Thread) (done : List Access) (ho : t.ops = done ++ l)
    (hn : ((done ++ l).map (·.seq)).Nodup) :
    (l.foldl (decideOp gs val) t).ops.map opGuard = done.map opGuard ++ l.filterMap (decidedOp gs val) := by
  induction l generalizing t done with
  | nil => simp [ho]
  | cons a r ih =>
    obtain ⟨hfresh, hrest⟩ := (nodup_at Access.seq a done r).1 hn
    obtain ⟨k, hk, hguard⟩ := decideOp_ops (gs := gs) (val := val) ho hfresh
    have hseq : ((done ++ k ++ r).map (·.seq)).Nodup := by
      have hkseq : k.map (·.seq) = (decidedOp gs val a).toList.map (·.1) := by
        rw [← hguard, List.map_map]
        rfl
      unfold decidedOp at hkseq
      rw [List.map_append, List.map_append, hkseq]
      cases decidedGuard true gs val a.guard with
      | none => simpa using hrest
      | some g => simpa using hn
    rw [List.foldl_cons, ih _ (done ++ k) (by rw [hk, List.append_assoc]) hseq, List.map_append, hguard, List.append_assoc, List.filterMap_cons]
    cases decidedOp gs val a <;> rfl

/-- A thread keeps the accesses that stand, in order (R178). -/
theorem decideOps_ops {t : Thread} (gs : Nat) (val : Bool) (hn : distinct (t.ops.map (·.seq)) = true) :
    (t.decideOps gs val).ops.map opGuard = t.ops.filterMap (decidedOp gs val) := by
  have hops := (keepsData_decideWait t gs val).ops
  have h := foldl_decideOp_ops (gs := gs) (val := val) t.ops (t.decideWait gs val) [] hops (nodup_of_distinct hn)
  rw [decideOps_eq, hops]
  exact h

/-- A decision of a thread's accesses keeps all else of its data. -/
theorem decideOps_keeps (t : Thread) (gs : Nat) (val : Bool) :
    (t.decideOps gs val).v = t.v ∧ (t.decideOps gs val).p = t.p ∧ (t.decideOps gs val).ret = t.ret ∧
      storeWaits (t.decideOps gs val) = storeWaits t := by
  obtain ⟨ops, n, h⟩ := foldl_decideOp gs val (t.decideWait gs val).ops (t.decideWait gs val)
  have hk := keepsData_decideWait t gs val
  rw [decideOps_eq, h]
  exact ⟨hk.v, hk.p, hk.ret, hk.waits⟩

end Sys2Proof.Proofs
end

section
/-!
PROOFS. `gset` (R176, R178): the slot resolves, and what waits on it is decided.
-/

namespace Sys2Proof.Proofs

open Sys2Proof Sys2Proof.Machine Sys2Proof.Safety Sys2Proof.Claims

/-- A thread after a `gset`: its accesses are decided, and its data else is as it was. -/
def AfterGset (gs : Nat) (val : Bool) (t u : Thread) : Prop := ∃ w, KeepsData t w ∧ KeepsData (w.decideOps gs val) u

section
variable {gs : Nat} {val : Bool} {t u : Thread} (h : AfterGset gs val t u)
include h

theorem afterGset_keeps : u.v = t.v ∧ u.p = t.p ∧ u.ret = t.ret := by
  obtain ⟨w, hw, hu⟩ := h
  obtain ⟨hv, hp, hret, -⟩ := decideOps_keeps w gs val
  exact ⟨hu.v.trans (hv.trans hw.v), hu.p.trans (hp.trans hw.p), hu.ret.trans (hret.trans hw.ret)⟩

theorem afterGset_ops (hn : distinct (t.ops.map (·.seq)) = true) : u.ops.map opGuard = t.ops.filterMap (decidedOp gs val) := by
  obtain ⟨w, hw, hu⟩ := h
  rw [hu.ops, decideOps_ops gs val (by rwa [hw.ops]), hw.ops]

end

theorem retryStore_of_not_waiting {s : State} {gid tid : Nat} (h : ∀ t, s.thread? gid tid = some t → storeWaits t = false) :
    s.retryStore gid tid = s := by
  unfold State.retryStore
  split
  · rfl
  · rename_i t ht
    split
    · rename_i hs
      simpa [storeWaits, hs] using h t ht
    · rfl

/-- Every thread's accesses are decided. -/
def opsDecided (gs : Nat) (val : Bool) (g : Group) : Group := { g with threads := g.threads.map fun t => t.decideOps gs val }

/-- The state after every decision of a `gset`, before waiting stores are tried again. -/
def decidedState (s : State) (g : Group) (gs : Nat) (val : Bool) : State :=
  ((s.decideMat g.quadNo g.gid gs val).decideCopies g.gid gs val).modGroup g.gid (opsDecided gs val)

/-- A thread after the decisions: its accesses are decided on the data that it kept. -/
def DecidedOn (gs : Nat) (val : Bool) (t u : Thread) : Prop := Relation.Comp KeepsData (fun w u => u = w.decideOps gs val) t u

theorem decidedState_group (s : State) (g : Group) (gs : Nat) (val : Bool) :
    Option.Rel (GroupRel (DecidedOn gs val)) (s.group? g.gid) ((decidedState s g gs val).group? g.gid) := by
  have hmat := (stateRel_decideMat g.gid s g.quadNo g.gid gs val).group
  have hops : ∀ h, GroupRel (fun w u => u = w.decideOps gs val) h (opsDecided gs val h) := groupRel_map fun _ => rfl
  rw [decidedState, State.modGroup_group _ _ (opsDecided gs val) fun _ => rfl]
  exact rel_mono (fun _ _ ⟨_, x, y⟩ => x.comp y) (rel_comp hmat (rel_map hops _))

/-- Where no thread of the group waits for an entry of its store-buffer share, no waiting store is tried again. -/
theorem decideGuards_eq {s : State} {g h : Group} (gs : Nat) (val : Bool) (hg : s.group? g.gid = some h)
    (hw : ∀ t ∈ h.threads, storeWaits t = false) : s.decideGuards g gs val = decidedState s g gs val := by
  refine List.foldl_fixed' (fun i => retryStore_of_not_waiting fun u hu => ?_) _
  obtain ⟨k, hk, hrel⟩ := rel_some (decidedState_group s g gs val) hg
  change (decidedState s g gs val).thread? g.gid i = some u at hu
  rw [State.thread?, hk] at hu
  have hthread := hrel.threads i
  rw [show k.threads[i]? = some u from hu] at hthread
  generalize ht : h.threads[i]? = o at hthread
  cases hthread with
  | some hdec =>
    obtain ⟨w, hkeep, rfl⟩ := hdec
    obtain ⟨-, -, -, hwait⟩ := decideOps_keeps w gs val
    rw [hwait, hkeep.waits]
    exact hw _ (List.mem_of_getElem? ht)

/-- The slot resolved (R176). -/
def slotSet (c : Ctx) (val : Bool) (g : Group) : Group := { g with g := g.g.set c.f.d (if val then 1 else 2) }

/-- The state that a `gset` of one group leaves. -/
def gsetState (s : State) (c : Ctx) (val : Bool) : State :=
  (decidedState (s.modGroup c.g.gid (slotSet c val)) c.g c.f.d val).advance c.g.gid c.tids

/-- The value that a `gset` gives its slot: whether B is not zero. -/
def gsetValue (c : Ctx) : Bool := decide (got (c.sB .int 2) ≠ 0)

section
variable {s : State} {f : Fields} {c : Ctx} (hc : IsTrick s f c)
include hc

theorem slotSet_group (val : Bool) : (s.modGroup c.g.gid (slotSet c val)).group? c.g.gid = some (slotSet c val c.g) := by
  rw [State.modGroup_group _ _ (slotSet c val) fun _ => rfl, hc.group]
  rfl

theorem opGset_next (hp : c.precheck .gset (nth c.tids 0 0) = .ok ()) (hb : constOk c c.f.b = true)
    (hw : ∀ t ∈ c.g.threads, storeWaits t = false) : opGset f s = .next (gsetState s c (gsetValue c)) := by
  unfold opGset
  rw [perGroup_one hc, hp, sB_got c .int 2 hb]
  have hval : (got (c.sB .int 2) != 0) = gsetValue c := Bool.eq_iff_iff.2 (by simp [gsetValue])
  simp only [Except.bind, hval, gsetState]
  rw [← decideGuards_eq c.f.d (gsetValue c) (slotSet_group hc _) hw]
  rfl

theorem gsetState_group (val : Bool) :
    ∃ h, (gsetState s c val).group? c.g.gid = some h ∧ GroupRel (AfterGset c.f.d val) (slotSet c val c.g) h := by
  have hdec := decidedState_group (s.modGroup c.g.gid (slotSet c val)) c.g c.f.d val
  have hadv := (stateRel_advance c.g.gid (decidedState (s.modGroup c.g.gid (slotSet c val)) c.g c.f.d val) c.g.gid c.tids).group
  obtain ⟨h, hh, k, x, y⟩ := rel_some (rel_comp hdec hadv) (slotSet_group hc val)
  refine ⟨h, hh, (x.comp y).mono fun t u ⟨w, ⟨v, hv, hvw⟩, hu⟩ => ⟨v, hv, ?_⟩⟩
  rwa [← hvw]

end

theorem gsetState_mem (s : State) (c : Ctx) (val : Bool) : (gsetState s c val).mem = s.mem := by
  rw [gsetState, (stateRel_advance c.g.gid _ _ _).mem]
  exact (stateRel_decideMat c.g.gid _ _ _ _ _).mem

theorem gsetState_quad (s : State) (c : Ctx) (val : Bool) :
    (gsetState s c val).quad c.g.quadNo = ((s.modGroup c.g.gid (slotSet c val)).decideMat c.g.quadNo c.g.gid c.f.d val).quad c.g.quadNo := by
  rw [gsetState, State.quad, advance_quads]
  rfl

theorem gsetState_channel (s : State) (c : Ctx) (val : Bool) (d n : Nat) :
    ((gsetState s c val).die d).channel n = ((s.die d).channel n).decide c.g.gid c.f.d val := by
  have hadv : (gsetState s c val).die d = (((s.modGroup c.g.gid (slotSet c val)).decideMat c.g.quadNo c.g.gid c.f.d val).decideCopies
      c.g.gid c.f.d val).die d := by
    rw [gsetState, State.die, (stateRel_advance c.g.gid _ _ _).dies]
    rfl
  rw [hadv, decideCopies_channel, State.die, (stateRel_decideMat c.g.gid _ _ _ _ _).dies]
  rfl

theorem guardsSet : GuardsSet := by
  refine ⟨fun i f s c hi hone hp hb hcmds hts => ?_, fun i f s hi hr => gclr_next hi hr⟩
  have hc := isTrick_of_oneGroup hone
  refine ⟨_, (exec_row hi s).trans (opGset_next hc (isOk_unit hp) hb fun t ht => (hts t ht).1), gsetState_mem s c _, ?_⟩
  obtain ⟨h, hh, hrel⟩ := gsetState_group hc (gsetValue c)
  refine ⟨h, hh, ?_, hrel.scalars, hrel.window, fun tid t ht => ?_⟩
  · rw [hrel.guards]
    simp only [slotSet, gsetValue, decide_eq_true_eq, ne_eq, ite_not]
  · obtain ⟨u, hu, hafter⟩ := rel_some (hrel.threads tid) ht
    exact ⟨u, hu, afterGset_keeps hafter⟩

theorem guardsDecide : GuardsDecide := by
  intro i f s c hi hone hp hb hcids hdraws hts
  have hc := isTrick_of_oneGroup hone
  refine ⟨_, (exec_row hi s).trans (opGset_next hc (isOk_unit hp) hb fun t ht => (hts t ht).1), ?_, fun d n => ?_, fun tid t ht => ?_⟩
  · exact (gsetState_quad s c _).trans (decideMat_quad (s := s.modGroup c.g.gid (slotSet c (gsetValue c))) hcids hdraws)
  · rw [gsetState_channel]
    exact decide_queue _ _ _ _
  · obtain ⟨h, hh, hrel⟩ := gsetState_group hc (gsetValue c)
    obtain ⟨u, hu, hafter⟩ := rel_some (hrel.threads tid) ht
    refine ⟨u, ?_, afterGset_ops hafter (hts t (List.mem_of_getElem? ht)).2⟩
    rw [State.thread?, hh]
    exact hu

/-- Settles O20: a `gset` decides what waits on its slot, command by command, copy by copy and access by access; `gclr` and the control registers are
units that act once per group. -/
theorem guardsAndControlRegisters : Obligations.GuardsAndControlRegisters := by
  unfold Obligations.GuardsAndControlRegisters
  exact ⟨guardsSet, guardsDecide, registersRead⟩

end Sys2Proof.Proofs
end
